-- ==== Sys2Proof/Word.lean ====
section
/-! DEFINITION. The word types of the CN-1536: bytes, 32-bit words, 64-bit registers, and the identifiers of R7 and R8. -/

namespace Sys2Proof

/-- A byte, the smallest addressable unit (R3). -/
abbrev Byte := BitVec 8
/-- A 16-bit instruction halfword (R27). -/
abbrev Half16 := BitVec 16
/-- A 32-bit word: the unit of the full/empty bits and of vector lanes. -/
abbrev Word32 := BitVec 32
/-- A 64-bit word: scalar registers, system registers, addresses. -/
abbrev Word := BitVec 64
/-- A strand id (R8). -/
abbrev StrandId := BitVec 32
/-- A logical timestamp (R19). -/
abbrev Stamp := BitVec 24
/-- A format tag (R207). -/
abbrev Tag := BitVec 6

/-- The two halves of a strand, or both of them (R47, R98). -/
inductive Side where
  | access
  | execute
  | both
  deriving DecidableEq, Repr

end Sys2Proof
end

