-- ==== Sys2Proof/Config.lean ====
section
/-! DEFINITION. What an implementation fixes and what the spec leaves open: constants without a body, of which nothing can be proved. -/

namespace Sys2Proof.Config

/-- The code from final test of a core (R354), before `testedCode` brings it into the range of R2. (DESIGN CHOICE, log 13.) -/
opaque finalTest : Nat → Nat

/-- R354: the tested code of a core is 4 to 35. (DESIGN CHOICE, log 13.) -/
def testedCode (core : Nat) : Nat := 4 + finalTest core % 32

/-- The mesh cycles that pass before the n-th reading of the mesh clock (R346, R353): the spec relates the clock to no step. (DESIGN CHOICE, log 12.) -/
opaque meshCycle : Nat → Nat

/-- A byte of another package's memory as a fetch finds it: that package's strands write it. (DESIGN CHOICE, log 17.) -/
opaque foreignByte : Nat → Byte

/-- An unrelated word of the environment, the n-th drawn: a choice that the spec leaves to the hardware. (DESIGN CHOICE, log 4.) -/
opaque choice : Nat → Nat

/-- R391: whether a core passes the self-test. (DESIGN CHOICE, log 13.) -/
opaque passes : Nat → Bool

/-! ## The algorithms that the spec names and does not define (R386, R387, R418, R419)

Each is an uninterpreted function; lengths of results are not known. -/

/-- The first `n` bytes of SHAKE256. (DESIGN CHOICE, log 15.) -/
opaque shake256 (n : Nat) (m : List Byte) : List Byte
/-- Whether a Falcon-1024 signature verifies. (DESIGN CHOICE, log 15.) -/
opaque falconVerify (publicKey message signature : List Byte) : Bool
/-- A Falcon-1024 signature under the key pair of a seed. (DESIGN CHOICE, log 15.) -/
opaque falconSign (seed message : List Byte) : List Byte
/-- The public key of the key pair of a seed. (DESIGN CHOICE, log 15.) -/
opaque falconPublic (seed : List Byte) : List Byte
/-- ML-KEM-1024: the encapsulation and the decapsulation key of a seed. (DESIGN CHOICE, log 15.) -/
opaque kemEncapsKey (seed : Nat) : List Byte
opaque kemDecapsKey (seed : Nat) : List Byte
/-- ML-KEM-1024: the ciphertext and the shared secret that encapsulation makes, and the secret that decapsulation finds. (DESIGN CHOICE, log 15.) -/
opaque kemCiphertext (encapsKey : List Byte) (seed : Nat) : List Byte
opaque kemSecret (encapsKey : List Byte) (seed : Nat) : List Byte
opaque kemDecaps (decapsKey ciphertext : List Byte) : List Byte
/-- AES-256-GCM: the plaintext of an authentic body and tag. (DESIGN CHOICE, log 15.) -/
opaque gcmOpen (key : BitVec 256) (nonce : BitVec 96) (associated body : List Byte) : Option (List Byte)
/-- How the output of SHAKE256 in R418 step 3 is cut into the key and salt of a direction. (DESIGN CHOICE, log 15.) -/
opaque sessionKey (material : List Byte) (fromInitiator : Bool) : BitVec 288
/-- Whether the body of an acknowledgement names a packet number (R419). (DESIGN CHOICE, log 15.) -/
opaque acknowledges (body : List Byte) (pn : Nat) : Bool
/-- Bytes of the SC's entropy source (R386), the n-th drawn. (DESIGN CHOICE, log 15.) -/
opaque entropy (draw n : Nat) : List Byte
/-- What the fuses and the flash of the package hold (R386, R387, R389, R390): UDS, the hash of the signer's key, the
serial number and the firmware image of the flash. (DESIGN CHOICE, log 14.) -/
opaque uds : List Byte
opaque keyHash : List Byte
opaque serial : List Byte
opaque flash : List Byte
/-- What the Reed-Solomon code of a flit makes of its bytes (R399). (DESIGN CHOICE, log 16.) -/
opaque corrected (flit : List Byte) : List Byte
/-- AES-256 of one block (R388). (DESIGN CHOICE, log 15.) -/
opaque aes256 (key : BitVec 256) (block : BitVec 128) : BitVec 128
/-- The parts of a debug token (R390): the signer's key, what is signed, the signature, and the serial number and nonce in what is
signed. (DESIGN CHOICE, log 15.) -/
opaque tokenKey (token : List Byte) : List Byte
opaque tokenMessage (token : List Byte) : List Byte
opaque tokenSignature (token : List Byte) : List Byte
opaque tokenSerial (token : List Byte) : List Byte
opaque tokenNonce (token : List Byte) : List Byte
/-- The fused hashes of the keys that sign debug tokens, and the SC's nonces (R390). (DESIGN CHOICE, log 14.) -/
opaque debugKeyHashes : List (List Byte)
opaque debugNonce (n : Nat) : List Byte

end Sys2Proof.Config
end

