-- ==== Sys2Proof/Machine/Tab.lean ====
section
/-! DEFINITION. Sparse tables: sorted association lists from natural numbers, listing no entry equal to the value that an unlisted key reads as. -/

namespace Sys2Proof.Machine

/-- A sparse table: what an unlisted key reads as is said by the reader (`Tab.get`). -/
abbrev Tab (α : Type) := List (Nat × α)

/-- The value at a key; `dflt` where the key is not listed. -/
def Tab.get {α : Type} (dflt : α) : Tab α → Nat → α
  | [], _ => dflt
  | (k, v) :: t, n => if k = n then v else Tab.get dflt t n

/-- Writes the value at a key; writing `dflt` removes the entry, so that equal tables are equal lists. -/
def Tab.put {α : Type} [DecidableEq α] (dflt : α) : Tab α → Nat → α → Tab α
  | [], n, v => if v = dflt then [] else [(n, v)]
  | (k, w) :: t, n, v =>
    if n < k then (if v = dflt then (k, w) :: t else (n, v) :: (k, w) :: t)
    else if n = k then (if v = dflt then t else (n, v) :: t)
    else (k, w) :: Tab.put dflt t n v

/-- Every key of the table is above `n`. -/
def Tab.above {α : Type} (n : Nat) (t : Tab α) : Bool := t.all fun e => n < e.1

/-- The canonical form: keys strictly rising, no entry equal to `dflt`. -/
def Tab.wf {α : Type} [DecidableEq α] (dflt : α) : Tab α → Bool
  | [] => true
  | (k, v) :: t => (v ≠ dflt) && Tab.above k t && Tab.wf dflt t

/-- Drops every entry whose key satisfies `p`. -/
def Tab.drop {α : Type} (p : Nat → Bool) (t : Tab α) : Tab α := t.filter fun e => !p e.1

/-- A list in the order of `le`; equal entries keep their order. -/
def insertBy {α : Type} (le : α → α → Bool) (x : α) : List α → List α
  | [] => [x]
  | y :: l => if le x y then x :: y :: l else y :: insertBy le x l
def sortBy {α : Type} (le : α → α → Bool) (l : List α) : List α := l.foldr (insertBy le) []

end Sys2Proof.Machine
end

