-- ==== Sys2Proof/Machine/Memory.lean ====
section
/-! DEFINITION. Memory: bytes, full/empty bits and poison marks, in one canonical form, over one key space for the storage of R110. -/

namespace Sys2Proof.Machine

/-- Storage words with their full/empty bits (R120) and poison marks (R125). An unlisted byte reads as zero, an unlisted
word is empty and not poisoned: what cold start and RUNNING leave (R391 step 5, R363, R120). -/
structure Mem where
  bytes : List Host.Cell := []
  /-- Words that are full, by key div 4. -/
  full : Tab Bool := []
  /-- Words that are poisoned, by key div 4. -/
  poison : Tab Bool := []
  deriving DecidableEq, Repr

namespace Mem

/-- One byte. -/
def byte (m : Mem) (a : Nat) : Byte := Tab.get 0#8 m.bytes a

/-- Writes one byte. -/
def setByte (m : Mem) (a : Nat) (b : Byte) : Mem := { m with bytes := Tab.put 0#8 m.bytes a b }

/-- The kept full/empty bit of the word that holds byte `a`. -/
def keptFull (m : Mem) (a : Nat) : Bool := Tab.get false m.full (a / 4)

/-- Whether the word that holds byte `a` is poisoned. -/
def poisoned (m : Mem) (a : Nat) : Bool := Tab.get false m.poison (a / 4)

/-- The state that tests of R121 and R123 see: a poisoned word counts as full (R125). -/
def isFull (m : Mem) (a : Nat) : Bool := m.poisoned a || m.keptFull a

def setFull (m : Mem) (a : Nat) (b : Bool) : Mem := { m with full := Tab.put false m.full (a / 4) b }
def setPoison (m : Mem) (a : Nat) (b : Bool) : Mem := { m with poison := Tab.put false m.poison (a / 4) b }

/-- The `n` bytes from `a` as a little-endian number (R3). -/
def read (m : Mem) (a : Nat) : Nat → Nat
  | 0 => 0
  | n + 1 => (m.byte a).toNat + 256 * read m (a + 1) n

/-- Writes the low `n` bytes of `v` from `a`, the lowest first (R3). -/
def write (m : Mem) (a : Nat) : Nat → Nat → Mem
  | 0, _ => m
  | n + 1, v => write (m.setByte a (BitVec.ofNat 8 v)) (a + 1) n (v / 256)

/-- Writes bytes from `a` on. -/
def writeBytes (m : Mem) (a : Nat) : List Byte → Mem
  | [] => m
  | b :: bs => writeBytes (m.setByte a b) (a + 1) bs

/-- The `n` bytes from `a` on. -/
def readBytes (m : Mem) (a n : Nat) : List Byte := (List.range n).map fun i => m.byte (a + i)

/-- The canonical form of a memory. -/
def wf (m : Mem) : Bool := Tab.wf 0#8 m.bytes && Tab.wf false m.full && Tab.wf false m.poison

/-- Zeroes and empties every word whose key satisfies `p` (R120, R363, R391). -/
def clear (m : Mem) (p : Nat → Bool) : Mem where
  bytes := Tab.drop p m.bytes
  full := Tab.drop (fun w => p (4 * w)) m.full
  poison := Tab.drop (fun w => p (4 * w)) m.poison

end Mem

/-- The key of a byte of this package's HBM, by physical address (R360). A byte of an on-chip window has its window
address as its key (R5). -/
def hbmKey (pa : Nat) : Nat := 2 ^ 50 + pa
/-- The key of a byte of host memory. -/
def hostKey (p : Nat) : Nat := 2 ^ 51 + p
/-- The key of a byte of another package's HBM. -/
def remoteKey (pkg pa : Nat) : Nat := (pkg + 1) * 2 ^ 52 + hbmKey pa

/-- The bases of the windows of R5. -/
def coreWindow : Nat := 0x7F0000000000
def sharedWindow : Nat := 0x7F1000000000
def chipWindow : Nat := 0x7F2000000000
def aliasWindow : Nat := 0x7FF000000000

/-- The kind of storage that a key names (R110). -/
inductive Storage where
  | core (id : Nat)
  | shared (cluster : Nat)
  | chip (die : Nat)
  | hbm (pa : Nat)
  | host (p : Nat)
  | remote (pkg pa : Nat)
  deriving DecidableEq, Repr

/-- The storage of a key. -/
def storageOf (k : Nat) : Storage :=
  if k < sharedWindow then .core ((k - coreWindow) / 0x40000)
  else if k < chipWindow then .shared ((k - sharedWindow) / 0x200000)
  else if k < 2 ^ 50 then .chip ((k - chipWindow) / 0x4000000)
  else if k < 2 ^ 51 then .hbm (k - 2 ^ 50)
  else if k < 2 ^ 52 then .host (k - 2 ^ 51)
  else .remote (k / 2 ^ 52 - 1) (k % 2 ^ 52 - 2 ^ 50)

end Sys2Proof.Machine
end

