-- ==== Sys2Proof/Syntax.lean ====
section
/-! DEFINITION. The syntax of the Lentis instruction set (the opcode table), with decoded operands, and the device's events. -/

namespace Sys2Proof

/-- What a 5-bit scalar register field names (R29). Codes 15 and 28 to 31 name nothing. -/
inductive Reg where
  | a (n : Fin 12)
  | d (n : Fin 12)
  | zero
  /-- Code 13, with the literal word that it takes (R28). -/
  | lit (w : Word32)
  /-- Code 14: `lq` or `sq` (R16). -/
  | queue
  deriving DecidableEq, Repr

/-- The guard of format A (R31): the instruction executes when pG XOR N is 1. -/
structure Guard where
  neg : Bool
  p : BitVec 4
  deriving DecidableEq, Repr

/-- Where an uncorrectable or correctable error is found (R193, R303). -/
inductive ErrorPlace where
  /-- A word of on-chip storage, named by the address of its window (R5). -/
  | word (key : Nat)
  /-- A line of a core's L1 or instruction cache. -/
  | cache (core : Nat)
  /-- A strand's frame. -/
  | frame (sid : StrandId)
  /-- A word of an L2 slice or HBM, named by its place in memory. -/
  | l2 (die : Nat) (key : Nat)
  /-- A word of a lane slice of a strand (R243). -/
  | slice (sid : StrandId) (off : Nat)
  deriving DecidableEq, Repr

/-- Whose piece of counted bytes is added (R286, R291): the next unsignalled piece of a copy of this package, or a
piece that a copy of another package sends here. -/
inductive PieceSource where
  | copy (id : Nat)
  | outside (target : Nat) (bytes : Nat)
  deriving DecidableEq, Repr

/-- A register with no behaviour of its own that the host or the management plane writes (R366, R397). -/
inductive DeviceRegister where
  | queueRing (q : BitVec 11)
  | queueConfig (q : BitVec 11)
  | queueEnable (q : BitVec 11)
  | queueBind (q : BitVec 11)
  | routeEntry (die : Fin 4) (package : BitVec 10)
  | hdmBase
  /-- The tick source of the domain (R401). -/
  | tickSource
  /-- The MAC address and the two halves of the IPv6 address of an Ethernet port (R416). -/
  | portMac (port : Fin 4)
  | portIpLow (port : Fin 4)
  | portIpHigh (port : Fin 4)
  deriving DecidableEq, Repr

/-- What the board controller reads through I3C (R395). -/
inductive I3cItem where
  | resetRecord (off : Nat)
  | speedEntry (core : Nat)
  | attestation
  | other
  deriving DecidableEq, Repr

/-- What a remote access asks of its home (R340). -/
inductive RemoteOp where
  | load
  | store (v : Word)
  | amo (op : BitVec 3) (v : Word)
  | cas (expected new : Word)
  | ldf
  | lde
  | stf (v : Word)
  | stw (v : Word)
  | feset
  | feclr
  | fetest
  /-- A write of an engine of the other package, which sets its words full. -/
  | engineWrite (v : Word)
  deriving DecidableEq, Repr

/-- A request of another package, arriving at a word homed here (R396). -/
structure RemoteRequest where
  fromPkg : BitVec 10
  part : Fin 16
  key : Nat
  size : Nat
  op : RemoteOp
  deriving DecidableEq, Repr

/-- What a flush sends to a member (R409): the present set, the result and the coordinator's ticks. -/
structure CollResult where
  present : List Nat
  tstart : Word
  tflush : Word
  twilight : Bool
  byRequest : Bool
  data : List Word32
  deriving DecidableEq, Repr

/-- A member's request for slots of an expert, as it reaches the expert's home (R429). -/
structure RouteRequest where
  die : Nat
  handle : Word32
  seq : Word32
  expert : Nat
  member : BitVec 10
  count : Nat
  agrees : Bool
  deriving DecidableEq, Repr

/-- A home's answer to a member's request (R429, R436): the base of its slots, "closed", or "closed" because the descriptors disagree. -/
inductive RouteAnswer where
  | base (b : Nat)
  | closed
  | disagrees
  deriving DecidableEq, Repr

/-- A token row as it reaches its expert's home (R428, R430). -/
structure RouteRow where
  die : Nat
  handle : Word32
  seq : Word32
  expert : Nat
  slot : Nat
  data : List Word32
  deriving DecidableEq, Repr

/-- One constructor for each row of the opcode table: first the encoded instructions, then the device's events. -/
inductive Instr where
  /-- `ADD` (R60): Writes S1 plus S2, wrapping modulo 2^64. -/
  | add (g : Guard) (d s1 s2 : Reg)
  /-- `SUB` (R60): Writes S1 minus S2. -/
  | sub (g : Guard) (d s1 s2 : Reg)
  /-- `AND` (R60): Writes the bitwise AND of S1 and S2. -/
  | and (g : Guard) (d s1 s2 : Reg)
  /-- `OR` (R60): Writes the bitwise OR of S1 and S2. -/
  | or (g : Guard) (d s1 s2 : Reg)
  /-- `XOR` (R60): Writes the bitwise XOR of S1 and S2. -/
  | xor (g : Guard) (d s1 s2 : Reg)
  /-- `ANDN` (R60): Writes S1 AND NOT S2. -/
  | andn (g : Guard) (d s1 s2 : Reg)
  /-- `ORN` (R60): Writes S1 OR NOT S2. -/
  | orn (g : Guard) (d s1 s2 : Reg)
  /-- `SHL` (R60): Shifts S1 left by S2[5:0], zeros in. -/
  | shl (g : Guard) (d s1 s2 : Reg)
  /-- `SHR` (R60): Shifts S1 right by S2[5:0], zeros in. -/
  | shr (g : Guard) (d s1 s2 : Reg)
  /-- `SAR` (R60): Shifts S1 right by S2[5:0], sign copies in. -/
  | sar (g : Guard) (d s1 s2 : Reg)
  /-- `ROR` (R60): Rotates S1 right by S2[5:0]. -/
  | ror (g : Guard) (d s1 s2 : Reg)
  /-- `ADDSC_2` (R60): Writes S1 plus 2 times S2. -/
  | addsc2 (g : Guard) (d s1 s2 : Reg)
  /-- `ADDSC_4` (R60): Writes S1 plus 4 times S2. -/
  | addsc4 (g : Guard) (d s1 s2 : Reg)
  /-- `ADDSC_8` (R60): Writes S1 plus 8 times S2. -/
  | addsc8 (g : Guard) (d s1 s2 : Reg)
  /-- `ADDSC_16` (R60): Writes S1 plus 16 times S2. -/
  | addsc16 (g : Guard) (d s1 s2 : Reg)
  /-- `SEL` (R61): Writes y or z according to the selecting predicate, always executing. -/
  | sel (g : Guard) (d s1 s2 : Reg)
  /-- `MUL` (R62): Writes the low 64 bits of the product. -/
  | mul (g : Guard) (d s1 s2 : Reg)
  /-- `MULH` (R62): Writes the high 64 bits of the signed product. -/
  | mulh (g : Guard) (d s1 s2 : Reg)
  /-- `MULHU` (R62): Writes the high 64 bits of the unsigned product. -/
  | mulhu (g : Guard) (d s1 s2 : Reg)
  /-- `DIV` (R63): Writes the signed quotient truncated toward zero, with the defined results for zero and overflow. -/
  | div (g : Guard) (d s1 s2 : Reg)
  /-- `DIVU` (R63): Writes the unsigned quotient. -/
  | divu (g : Guard) (d s1 s2 : Reg)
  /-- `REM` (R63): Writes the signed remainder with the sign of the dividend. -/
  | rem (g : Guard) (d s1 s2 : Reg)
  /-- `REMU` (R63): Writes the unsigned remainder. -/
  | remu (g : Guard) (d s1 s2 : Reg)
  /-- `MIN` (R62): Writes the signed lesser operand. -/
  | min (g : Guard) (d s1 s2 : Reg)
  /-- `MAX` (R62): Writes the signed greater operand. -/
  | max (g : Guard) (d s1 s2 : Reg)
  /-- `MINU` (R62): Writes the unsigned lesser operand. -/
  | minu (g : Guard) (d s1 s2 : Reg)
  /-- `MAXU` (R62): Writes the unsigned greater operand. -/
  | maxu (g : Guard) (d s1 s2 : Reg)
  /-- `CLZ` (R65): Counts leading zero bits. -/
  | clz (g : Guard) (d s1 : Reg)
  /-- `CTZ` (R65): Counts trailing zero bits. -/
  | ctz (g : Guard) (d s1 : Reg)
  /-- `POPC` (R65): Counts one bits. -/
  | popc (g : Guard) (d s1 : Reg)
  /-- `BREV` (R65): Reverses the bit order. -/
  | brev (g : Guard) (d s1 : Reg)
  /-- `BSWAP` (R65): Reverses the byte order. -/
  | bswap (g : Guard) (d s1 : Reg)
  /-- `SEXT` (R65): Sign-extends the low n bits. -/
  | sext (g : Guard) (d s1 s2 : Reg)
  /-- `ZEXT` (R65): Zero-extends the low n bits. -/
  | zext (g : Guard) (d s1 s2 : Reg)
  /-- `BEXT` (R66): Extracts a bit field named by a descriptor. -/
  | bext (g : Guard) (d s1 s2 : Reg)
  /-- `BINS` (R66): Inserts a bit field into the old destination. -/
  | bins (g : Guard) (d s1 s2 : Reg)
  /-- `BSET` (R65): Sets one bit. -/
  | bset (g : Guard) (d s1 s2 : Reg)
  /-- `BCLR` (R65): Clears one bit. -/
  | bclr (g : Guard) (d s1 s2 : Reg)
  /-- `BTST` (R65): Writes one bit of a register to a predicate. -/
  | btst (g : Guard) (pd : BitVec 4) (s1 s2 : Reg)
  /-- `CMP` (R67): Sets a predicate to the outcome of a condition on two registers. -/
  | cmp (g : Guard) (cc pd : BitVec 4) (s1 s2 : Reg)
  /-- `PLOG` (R68): Combines two predicates by the logical operation in the minor field. -/
  | plog (g : Guard) (op : BitVec 3) (pd pa pb : BitVec 4)
  /-- `PGET` (R69): Writes the half's predicate word to a register. -/
  | pget (g : Guard) (d : Reg)
  /-- `PPUT` (R69): Sets the half's predicates from a register under a bit mask. -/
  | pput (g : Guard) (s1 s2 : Reg)
  /-- `FADD` (R75): Floating addition rounded by FRM. -/
  | fadd (g : Guard) (dbl : Bool) (d s1 s2 : Reg)
  /-- `FSUB` (R75): Floating subtraction. -/
  | fsub (g : Guard) (dbl : Bool) (d s1 s2 : Reg)
  /-- `FMUL` (R75): Floating multiplication. -/
  | fmul (g : Guard) (dbl : Bool) (d s1 s2 : Reg)
  /-- `FFMA` (R75): Fused multiply-add with the old destination as addend. -/
  | ffma (g : Guard) (dbl : Bool) (d s1 s2 : Reg)
  /-- `FDIV` (R75): Floating division. -/
  | fdiv (g : Guard) (dbl : Bool) (d s1 s2 : Reg)
  /-- `FSQRT` (R75): Floating square root. -/
  | fsqrt (g : Guard) (dbl : Bool) (d s1 : Reg)
  /-- `FMIN` (R78): Floating minimum with the NaN rules of R78. -/
  | fmin (g : Guard) (dbl : Bool) (d s1 s2 : Reg)
  /-- `FMAX` (R78): Floating maximum with the NaN rules of R78. -/
  | fmax (g : Guard) (dbl : Bool) (d s1 s2 : Reg)
  /-- `FCMP_EQ` (R79): Sets a predicate when the operands are equal. -/
  | fcmpEq (g : Guard) (dbl : Bool) (pd : BitVec 4) (s1 s2 : Reg)
  /-- `FCMP_LT` (R79): Sets a predicate when a is less than b. -/
  | fcmpLt (g : Guard) (dbl : Bool) (pd : BitVec 4) (s1 s2 : Reg)
  /-- `FCMP_LE` (R79): Sets a predicate when a is at most b. -/
  | fcmpLe (g : Guard) (dbl : Bool) (pd : BitVec 4) (s1 s2 : Reg)
  /-- `FCMP_UN` (R79): Sets a predicate when either operand is a NaN. -/
  | fcmpUn (g : Guard) (dbl : Bool) (pd : BitVec 4) (s1 s2 : Reg)
  /-- `FCVT` (R80): Converts between floating formats and integers, or rounds to integral, by the selector's kind and mode. -/
  | fcvt (g : Guard) (dbl : Bool) (rm : BitVec 2) (kind : BitVec 3) (d s1 : Reg)
  /-- `FCLASS` (R82): Writes a one-hot class of the operand. -/
  | fclass (g : Guard) (dbl : Bool) (d s1 : Reg)
  /-- `HPACK` (R190): Packs register values into a header by a field-layout entry. -/
  | hpack (g : Guard) (d s1 s2 : Reg)
  /-- `HPARSE` (R190): Splits a header into registers by a field-layout entry. -/
  | hparse (g : Guard) (d s1 s2 : Reg)
  /-- `HLAYOUT` (R190): Swaps a field-layout table entry and returns the old one. -/
  | hlayout (g : Guard) (d s1 s2 : Reg)
  /-- `SYSRD` (R95): Reads a system register, serialising both halves; reading an RC field clears it. -/
  | sysrd (d : Reg) (n : BitVec 12)
  /-- `SYSWR` (R95): Writes a system register, serialising both halves. -/
  | syswr (n : BitVec 12) (s1 : Reg)
  /-- `ADDI` (R70): Adds a sign-extended 15-bit immediate. -/
  | addi (d s1 : Reg) (imm : BitVec 15)
  /-- `ANDI` (R70): ANDs with a sign-extended immediate. -/
  | andi (d s1 : Reg) (imm : BitVec 15)
  /-- `ORI` (R70): ORs with a sign-extended immediate. -/
  | ori (d s1 : Reg) (imm : BitVec 15)
  /-- `XORI` (R70): XORs with a sign-extended immediate. -/
  | xori (d s1 : Reg) (imm : BitVec 15)
  /-- `SHLI` (R71): Shifts left by an immediate amount. -/
  | shli (d s1 : Reg) (amt : BitVec 6)
  /-- `SHRI` (R71): Shifts right logically by an immediate amount. -/
  | shri (d s1 : Reg) (amt : BitVec 6)
  /-- `SARI` (R71): Shifts right arithmetically by an immediate amount. -/
  | sari (d s1 : Reg) (amt : BitVec 6)
  /-- `RORI` (R71): Rotates right by an immediate amount. -/
  | rori (d s1 : Reg) (amt : BitVec 6)
  /-- `CMPI` (R72): Sets a predicate from a condition against an 11-bit immediate. -/
  | cmpi (cc pd : BitVec 4) (s1 : Reg) (imm : BitVec 11)
  /-- `LIH` (R73): Loads a 20-bit upper immediate, sign-extended from 32 bits. -/
  | lih (d : Reg) (imm : BitVec 20)
  /-- `BR` (R85): Branches on a predicate, passing the outcome to the other half through a branch queue. -/
  | br (neg : Bool) (p : BitVec 4) (off : BitVec 20)
  /-- `JAL` (R86): Jumps to a PC-relative target and writes the return address. -/
  | jal (d : Reg) (off : BitVec 20)
  /-- `JALR` (R87): Jumps to a register plus offset and writes the return address. -/
  | jalr (d s1 : Reg) (imm : BitVec 15)
  /-- `SWITCH` (R88): Jumps through an inline table of N offsets indexed by a register. -/
  | switch (s1 : Reg) (n : BitVec 15)
  /-- `NOP` (R91): Has no effect. -/
  | nop (g : Guard)
  /-- `TRAP` (R91): Raises TrapInstruction with the operand in TRAPVAL. -/
  | trap (g : Guard) (s1 : Reg)
  /-- `ERET` (R107): Returns from a trap, refilling the queues and restoring ROAM and FRM. -/
  | eret (g : Guard)
  /-- `FENCE` (R92): Holds both halves until older accesses are performed and engine commands accepted. -/
  | fence (g : Guard)
  /-- `FENCE_D` (R92): Drains as FENCE and also remote acknowledgements, then parks until the next heartbeat tick. -/
  | fenceD (g : Guard)
  /-- `YIELD` (R93): Removes the strand from the rotation until its yield set has issued. -/
  | yield (g : Guard)
  /-- `EXIT` (R94): Ends the strand after checking queues and draining batches and jobs. -/
  | exit (g : Guard)
  /-- `BRK` (R91): Raises Breakpoint with the operand in TRAPVAL. -/
  | brk (g : Guard) (s1 : Reg)
  /-- `ITER` (R177): Enters the strand's next iteration, claiming a chunk from the nest counter when needed. -/
  | iter (g : Guard) (d : Reg) (pd : BitVec 4)
  /-- `ITER_S` (R177): Enters the next iteration and then renegotiates the lane claim. -/
  | iterS (g : Guard) (d : Reg) (pd : BitVec 4)
  /-- `ITERQ` (R178): Writes one fetcher quantity. -/
  | iterq (g : Guard) (d : Reg) (which : BitVec 5)
  /-- `ITERX` (R179): Cancels the nest and returns the remaining count. -/
  | iterx (g : Guard) (d : Reg)
  /-- `BAR` (R350): Arrives at a group barrier and parks until the phase completes. -/
  | bar (g : Guard) (d : Reg) (m : BitVec 5)
  /-- `BARA` (R350): Arrives at a group barrier without waiting. -/
  | bara (g : Guard) (d : Reg) (m : BitVec 5)
  /-- `BARW` (R350): Parks until a given phase has passed, without arriving. -/
  | barw (g : Guard) (d s1 : Reg) (m : BitVec 5)
  /-- `BART` (R350): Tests whether a given phase has passed. -/
  | bart (g : Guard) (pd : BitVec 4) (s1 : Reg) (m : BitVec 5)
  /-- `BARS` (R353): Reads the group's Dusk report into two registers. -/
  | bars (g : Guard) (d : Reg) (m : BitVec 5)
  /-- `LD` (R116): Loads 1 to 8 bytes, extended by the op field. -/
  | ld (op : BitVec 3) (la : BitVec 4) (x base : Reg) (off : BitVec 8)
  /-- `ST` (R117): Stores 1 to 8 bytes, leaving full/empty bits unchanged. -/
  | st (op : BitVec 2) (la : BitVec 4) (x base : Reg) (off : BitVec 8)
  /-- `LDF` (R121): Loads when the word is full, parking while empty. -/
  | ldf (dbl : Bool) (la : BitVec 4) (x base : Reg) (off : BitVec 8)
  /-- `LDE` (R121): Loads when full and sets the word empty. -/
  | lde (dbl : Bool) (la : BitVec 4) (x base : Reg) (off : BitVec 8)
  /-- `STF` (R121): Stores when the word is empty and sets it full. -/
  | stf (dbl : Bool) (la : BitVec 4) (x base : Reg) (off : BitVec 8)
  /-- `STW` (R121): Stores and sets the word full without waiting. -/
  | stw (dbl : Bool) (la : BitVec 4) (x base : Reg) (off : BitVec 8)
  /-- `AMO` (R118): Atomically combines memory with the operand by the op field and returns the old value. -/
  | amo (dbl : Bool) (op : BitVec 3) (la : BitVec 4) (x base : Reg) (off : BitVec 7)
  /-- `CAS` (R119): Compares and swaps a word, returning the old value. -/
  | cas (dbl : Bool) (la : BitVec 4) (x base : Reg) (off : BitVec 7)
  /-- `SEND` (R127): Drains and delivers a value to a continuation's message queue, parking when it is full. -/
  | send (la : BitVec 4) (y c : Reg)
  /-- `CONT` (R126): Builds a continuation id for the executing strand. -/
  | cont (x s1 : Reg)
  /-- `WAITR` (R129): Takes a matching message into its named register, parking until one arrives. -/
  | waitr (x s1 : Reg)
  /-- `PREF` (R123): Fetches a span into the L1 ahead of use, with no trap or order. -/
  | pref (base : Reg) (off : BitVec 8)
  /-- `FESET` (R123): Sets a word's full/empty bit to full and wakes waiters. -/
  | feset (la : BitVec 4) (base : Reg) (off : BitVec 8)
  /-- `FECLR` (R123): Sets a word's full/empty bit to empty and wakes waiters. -/
  | feclr (la : BitVec 4) (base : Reg) (off : BitVec 8)
  /-- `FETEST` (R123): Writes a word's full/empty bit to a predicate. -/
  | fetest (la pd : BitVec 4) (base : Reg) (off : BitVec 8)
  /-- `QUNI` (R144): Writes the canonical union of two regions. -/
  | quni (qd qa qb : BitVec 4)
  /-- `QINT` (R144): Writes the canonical intersection of two regions. -/
  | qint (qd qa qb : BitVec 4)
  /-- `QSUB` (R144): Writes the canonical difference of two regions. -/
  | qsub (qd qa qb : BitVec 4)
  /-- `QDIL` (R145): Dilates every box along its step in one or all dimensions. -/
  | qdil (which : BitVec 3) (qd qa : BitVec 4) (v : Reg)
  /-- `QSHF` (R145): Shifts a region in one dimension. -/
  | qshf (which : BitVec 3) (qd qa : BitVec 4) (v : Reg)
  /-- `QPRJ` (R145): Projects a region onto one coordinate of a dimension. -/
  | qprj (which : BitVec 3) (qd qa : BitVec 4) (v : Reg)
  /-- `QCLIP` (R146): Keeps the points of a region that lie in bounds. -/
  | qclip (qd qa : BitVec 4)
  /-- `QSPL` (R147): Writes one of n parts of a region cut along a dimension. -/
  | qspl (which : BitVec 3) (qd qa : BitVec 4) (v : Reg)
  /-- `QHULL` (R148): Writes the hull of a region as one box. -/
  | qhull (qd qa : BitVec 4)
  /-- `QBOX` (R150): Replaces one dimension of a single-box region. -/
  | qbox (which : BitVec 3) (qd qa : BitVec 4) (v : Reg)
  /-- `QSTR` (R149): Binds a region to a tensor descriptor and sets it to the whole tensor. -/
  | qstr (qd : BitVec 4) (v : Reg)
  /-- `QRAG` (R151): Makes a ragged region from a box and a row-length table. -/
  | qrag (qd qa : BitVec 4) (v : Reg)
  /-- `QLD` (R152): Loads and validates a 320-byte region image. -/
  | qld (qd : BitVec 4) (v : Reg)
  /-- `QST` (R152): Stores a region image to memory. -/
  | qst (qa : BitVec 4) (v : Reg)
  /-- `QCLR` (R153): Makes a region unbound. -/
  | qclr (qd : BitVec 4)
  /-- `QMOV` (R153): Copies a region image. -/
  | qmov (qd qa : BitVec 4)
  /-- `QSIZE` (R154): Writes a region's size in bytes. -/
  | qsize (x : Reg) (qa : BitVec 4)
  /-- `QCNT` (R154): Writes a count selected from a region. -/
  | qcnt (which : BitVec 3) (x : Reg) (qa : BitVec 4)
  /-- `QGET` (R155): Writes one field of a region image. -/
  | qget (which : BitVec 3) (x : Reg) (qa b : BitVec 4)
  /-- `QEQ` (R156): Sets a predicate when two region images are equal. -/
  | qeq (pd qa qb : BitVec 4)
  /-- `QLE` (R156): Sets a predicate when one region is a subset of another. -/
  | qle (pd qa qb : BitVec 4)
  /-- `QEMP` (R156): Sets a predicate when a region is unbound. -/
  | qemp (pd qa : BitVec 4)
  /-- `QOVF` (R156): Sets a predicate when a region is overflowed. -/
  | qovf (pd qa : BitVec 4)
  /-- `VADD` (R228): Adds vectors element by element. -/
  | vadd (z : Bool) (k : BitVec 3) (vd va vb : BitVec 4)
  /-- `VSUB` (R228): Subtracts vectors. -/
  | vsub (z : Bool) (k : BitVec 3) (vd va vb : BitVec 4)
  /-- `VMUL` (R228): Multiplies vectors. -/
  | vmul (z : Bool) (k : BitVec 3) (vd va vb : BitVec 4)
  /-- `VMIN` (R228): Elementwise minimum. -/
  | vmin (z : Bool) (k : BitVec 3) (vd va vb : BitVec 4)
  /-- `VMAX` (R228): Elementwise maximum. -/
  | vmax (z : Bool) (k : BitVec 3) (vd va vb : BitVec 4)
  /-- `VABS` (R228): Elementwise absolute value. -/
  | vabs (z : Bool) (k : BitVec 3) (vd va : BitVec 4)
  /-- `VNEG` (R228): Elementwise negation. -/
  | vneg (z : Bool) (k : BitVec 3) (vd va : BitVec 4)
  /-- `VAND` (R228): Bitwise AND of lanes. -/
  | vand (z : Bool) (k : BitVec 3) (vd va vb : BitVec 4)
  /-- `VOR` (R228): Bitwise OR of lanes. -/
  | vor (z : Bool) (k : BitVec 3) (vd va vb : BitVec 4)
  /-- `VXOR` (R228): Bitwise XOR of lanes. -/
  | vxor (z : Bool) (k : BitVec 3) (vd va vb : BitVec 4)
  /-- `VNOT` (R228): Bitwise NOT of lanes. -/
  | vnot (z : Bool) (k : BitVec 3) (vd va : BitVec 4)
  /-- `VSHL` (R228): Elementwise left shift. -/
  | vshl (z : Bool) (k : BitVec 3) (vd va vb : BitVec 4)
  /-- `VSHR` (R228): Elementwise logical right shift. -/
  | vshr (z : Bool) (k : BitVec 3) (vd va vb : BitVec 4)
  /-- `VSAR` (R228): Elementwise arithmetic right shift. -/
  | vsar (z : Bool) (k : BitVec 3) (vd va vb : BitVec 4)
  /-- `VMOV` (R228): Copies a vector. -/
  | vmov (z : Bool) (k : BitVec 3) (vd va : BitVec 4)
  /-- `VSEL` (R228): Selects lanes of two vectors by a mask. -/
  | vsel (k : BitVec 3) (vd va vb : BitVec 4)
  /-- `VCMP` (R229): Compares vectors into a mask. -/
  | vcmp (z : Bool) (k : BitVec 3) (cc kd va vb : BitVec 4)
  /-- `VBCST` (R230): Broadcasts a d-register into every element, setting the tag. -/
  | vbcst (z : Bool) (k : BitVec 3) (ts vd dn : BitVec 4)
  /-- `VEXTR` (R230): Extracts one element into a d-register. -/
  | vextr (dx va dn : BitVec 4)
  /-- `VFMA` (R231): Fused multiply-add per element. -/
  | vfma (z : Bool) (k : BitVec 3) (vd va vb vc : BitVec 4)
  /-- `VFMS` (R231): Fused multiply-subtract per element. -/
  | vfms (z : Bool) (k : BitVec 3) (vd va vb vc : BitVec 4)
  /-- `VFNMA` (R231): Negated fused multiply-add per element. -/
  | vfnma (z : Bool) (k : BitVec 3) (vd va vb vc : BitVec 4)
  /-- `VDOT4` (R232): Per-lane dot product of packed elements into an accumulator lane. -/
  | vdot4 (z : Bool) (k : BitVec 3) (vd va vb vc : BitVec 4)
  /-- `VRCP` (R233): Correctly rounded reciprocal. -/
  | vrcp (z : Bool) (k : BitVec 3) (vd va : BitVec 4)
  /-- `VRSQ` (R233): Correctly rounded reciprocal square root. -/
  | vrsq (z : Bool) (k : BitVec 3) (vd va : BitVec 4)
  /-- `VSQRT` (R233): Correctly rounded square root. -/
  | vsqrt (z : Bool) (k : BitVec 3) (vd va : BitVec 4)
  /-- `VDIV` (R233): Correctly rounded division. -/
  | vdiv (z : Bool) (k : BitVec 3) (vd va vb : BitVec 4)
  /-- `VEXP2` (R233): Correctly rounded base-2 exponential. -/
  | vexp2 (z : Bool) (k : BitVec 3) (vd va : BitVec 4)
  /-- `VLOG2` (R233): Correctly rounded base-2 logarithm. -/
  | vlog2 (z : Bool) (k : BitVec 3) (vd va : BitVec 4)
  /-- `VTANH` (R233): Correctly rounded hyperbolic tangent. -/
  | vtanh (z : Bool) (k : BitVec 3) (vd va : BitVec 4)
  /-- `VCVT` (R235): Converts elements between tags by part, mode and saturation. -/
  | vcvt (z : Bool) (k : BitVec 3) (rm : BitVec 2) (sat : Bool) (part : BitVec 2) (vd va : BitVec 4)
  /-- `VTAG` (R234): Copies bits and sets the destination tag. -/
  | vtag (t : BitVec 6) (vd va : BitVec 4)
  /-- `VQNT` (R236): Quantises FP32 blocks into binary8 codes and scales. -/
  | vqnt (rm part : BitVec 2) (vd va vs : BitVec 4)
  /-- `VDQNT` (R237): Dequantises binary8 codes under scales. -/
  | vdqnt (part : BitVec 2) (vd va vs : BitVec 4)
  /-- `VRED` (R238): Reduces the contributing lanes by a fixed tree. -/
  | vred (k : BitVec 3) (op vd va : BitVec 4)
  /-- `VSCAN` (R238): Inclusive or exclusive scan over the lanes. -/
  | vscan (z : Bool) (k : BitVec 3) (ex : Bool) (op : BitVec 3) (vd va : BitVec 4)
  /-- `VPERM` (R239): Permutes lanes by an index vector. -/
  | vperm (z : Bool) (k : BitVec 3) (vd va vb : BitVec 4)
  /-- `VSLIDE` (R239): Slides lanes by a signed count. -/
  | vslide (z : Bool) (k : BitVec 3) (vd va dn : BitVec 4)
  /-- `VZIP` (R239): Interleaves halves of two vectors. -/
  | vzip (z : Bool) (k : BitVec 3) (part : Bool) (vd va vb : BitVec 4)
  /-- `VUNZ` (R239): De-interleaves two vectors. -/
  | vunz (z : Bool) (k : BitVec 3) (part : Bool) (vd va vb : BitVec 4)
  /-- `VIOTA` (R239): Writes the count of set mask bits below each lane. -/
  | viota (k : BitVec 3) (vd : BitVec 4)
  /-- `VCOMP` (R239): Compresses the active lanes toward lane 0. -/
  | vcomp (k : BitVec 3) (vd va : BitVec 4)
  /-- `VLD` (R241): Loads consecutive words into a vector and sets its tag. -/
  | vld (ts : BitVec 4) (k : BitVec 3) (la vd : BitVec 4) (base : Reg)
  /-- `VST` (R241): Stores a vector to consecutive words. -/
  | vst (k : BitVec 3) (la vd : BitVec 4) (base : Reg)
  /-- `VLDS` (R241): Strided vector load. -/
  | vlds (ix : BitVec 4) (k : BitVec 3) (la vd : BitVec 4) (base : Reg)
  /-- `VSTS` (R241): Strided vector store. -/
  | vsts (ix : BitVec 4) (k : BitVec 3) (la vd : BitVec 4) (base : Reg)
  /-- `VLDX` (R241): Indexed vector load. -/
  | vldx (ix : BitVec 4) (k : BitVec 3) (la vd : BitVec 4) (base : Reg)
  /-- `VSTX` (R241): Indexed vector store. -/
  | vstx (ix : BitVec 4) (k : BitVec 3) (la vd : BitVec 4) (base : Reg)
  /-- `VLDL` (R243): Loads a word of each lane's own slice. -/
  | vldl (k : BitVec 3) (la vd : BitVec 4) (base : Reg)
  /-- `VSTL` (R243): Stores a word into each lane's own slice. -/
  | vstl (k : BitVec 3) (la vd : BitVec 4) (base : Reg)
  /-- `VCLAIM` (R220): Requests lanes from the cluster arbiter and writes the granted width. -/
  | vclaim (n dx : BitVec 4)
  /-- `VREL` (R222): Returns every lane of the claim. -/
  | vrel
  /-- `VWID` (R222): Writes the granted width. -/
  | vwid (dx : BitVec 4)
  /-- `KAND` (R240): ANDs two masks. -/
  | kand (kd ka kb : BitVec 4)
  /-- `KOR` (R240): ORs two masks. -/
  | kor (kd ka kb : BitVec 4)
  /-- `KXOR` (R240): XORs two masks. -/
  | kxor (kd ka kb : BitVec 4)
  /-- `KNOT` (R240): Inverts a mask within the width. -/
  | knot (kd ka : BitVec 4)
  /-- `KMOV` (R240): Copies a mask. -/
  | kmov (kd ka : BitVec 4)
  /-- `KPOP` (R240): Counts set mask bits. -/
  | kpop (dx ka : BitVec 4)
  /-- `KFIRST` (R240): Finds the lowest set mask bit. -/
  | kfirst (dx ka : BitVec 4)
  /-- `VADD_SHORT` (R45): 16-bit two-address merging VADD. -/
  | vaddShort (k : BitVec 3) (vd vs : BitVec 4)
  /-- `VSUB_SHORT` (R45): 16-bit two-address merging VSUB. -/
  | vsubShort (k : BitVec 3) (vd vs : BitVec 4)
  /-- `VMUL_SHORT` (R45): 16-bit two-address merging VMUL. -/
  | vmulShort (k : BitVec 3) (vd vs : BitVec 4)
  /-- `VMIN_SHORT` (R45): 16-bit two-address merging VMIN. -/
  | vminShort (k : BitVec 3) (vd vs : BitVec 4)
  /-- `VMAX_SHORT` (R45): 16-bit two-address merging VMAX. -/
  | vmaxShort (k : BitVec 3) (vd vs : BitVec 4)
  /-- `VAND_SHORT` (R45): 16-bit two-address merging VAND. -/
  | vandShort (k : BitVec 3) (vd vs : BitVec 4)
  /-- `VOR_SHORT` (R45): 16-bit two-address merging VOR. -/
  | vorShort (k : BitVec 3) (vd vs : BitVec 4)
  /-- `VXOR_SHORT` (R45): 16-bit two-address merging VXOR. -/
  | vxorShort (k : BitVec 3) (vd vs : BitVec 4)
  /-- `VMOV_SHORT` (R45): 16-bit merging VMOV. -/
  | vmovShort (k : BitVec 3) (vd vs : BitVec 4)
  /-- `VNEG_SHORT` (R45): 16-bit merging VNEG. -/
  | vnegShort (k : BitVec 3) (vd vs : BitVec 4)
  /-- `VABS_SHORT` (R45): 16-bit merging VABS. -/
  | vabsShort (k : BitVec 3) (vd vs : BitVec 4)
  /-- `VRCP_SHORT` (R45): 16-bit merging VRCP. -/
  | vrcpShort (k : BitVec 3) (vd vs : BitVec 4)
  /-- `VSEL_SHORT` (R45): 16-bit merging VSEL. -/
  | vselShort (k : BitVec 3) (vd vs : BitVec 4)
  /-- `VEXP2_SHORT` (R45): 16-bit merging VEXP2. -/
  | vexp2Short (k : BitVec 3) (vd vs : BitVec 4)
  /-- `VRSQ_SHORT` (R45): 16-bit merging VRSQ. -/
  | vrsqShort (k : BitVec 3) (vd vs : BitVec 4)
  /-- `VNOT_SHORT` (R45): 16-bit merging VNOT. -/
  | vnotShort (k : BitVec 3) (vd vs : BitVec 4)
  /-- `MMA` (R257): Submits a dense matrix job accumulating A times the latch into a tile. -/
  | mma (h : BitVec 4) (zi : Bool) (la qa : BitVec 4) (z : BitVec 3)
  /-- `MMAS` (R257): Submits a matrix job with a decompressed sparse latch. -/
  | mmas (h : BitVec 4) (zi : Bool) (la qa : BitVec 4) (z : BitVec 3)
  /-- `MMAR` (R260): Submits a ring matrix job across the eight segments. -/
  | mmar (h : BitVec 4) (zi : Bool) (la qa : BitVec 4) (z : BitVec 3)
  /-- `ZCLAIM` (R252): Claims an accumulator tile if free. -/
  | zclaim (pd : BitVec 4) (z : BitVec 3)
  /-- `ZREL` (R253): Frees a claimed tile after its jobs complete. -/
  | zrel (z : BitVec 3)
  /-- `ZZERO` (R253): Sets a tile to +0 with tag F32. -/
  | zzero (z : BitVec 3)
  /-- `ZLD` (R254): Loads a tile from memory through a region. -/
  | zld (int : Bool) (qa : BitVec 4) (z : BitVec 3)
  /-- `ZST` (R254): Stores a tile to memory through a region. -/
  | zst (qa : BitVec 4) (z : BitVec 3)
  /-- `BLD` (R255): Submits a job loading the segment's value latch. -/
  | bld (c : Bool) (la qa : BitVec 4)
  /-- `BROT` (R256): Submits a ring job passing every latch to the next segment. -/
  | brot (h la : BitVec 4)
  /-- `BMETA` (R255): Submits a job loading the sparsity metadata store. -/
  | bmeta (la qa : BitVec 4)
  /-- `JWAIT` (R266): Parks until a matrix job completes, delivering its error once. -/
  | jwait (h : Reg)
  /-- `JPOLL` (R266): Tests whether a matrix job is complete. -/
  | jpoll (pd : BitVec 4) (h : Reg)
  /-- `JSTAT` (R266): Writes a matrix job's status word. -/
  | jstat (x h : Reg)
  /-- `CPY` (R275): Offers a region-to-region copy to the copy unit. -/
  | cpy (pd qd qs : BitVec 4) (c : Reg)
  /-- `CPYG` (R279): Offers a gather of indexed rows. -/
  | cpyg (pd qd qs : BitVec 4) (c : Reg)
  /-- `CPYS` (R279): Offers a scatter of indexed rows. -/
  | cpys (pd qd qs : BitVec 4) (c : Reg)
  /-- `HALO` (R280): Offers a copy into a mesh neighbour's shared memory. -/
  | halo (pd qd qs : BitVec 4) (c : Reg)
  /-- `CFILL` (R281): Offers a fill of a region with a value. -/
  | cfill (pd qd : BitVec 4) (v : Reg)
  /-- `QWAIT` (R290): Parks until every word of a region is full at once. -/
  | qwait (qa : BitVec 4) (aw : Reg)
  /-- `CSEAL` (R283): Seals the current batch and writes its number. -/
  | cseal (x : Reg)
  /-- `CWAIT` (R284): Parks until at most n sealed batches remain unfinished. -/
  | cwait (n : Reg)
  /-- `ARM` (R292): Prepares a copy that fires when a counter reaches a threshold. -/
  | arm (pd qd qs : BitVec 4) (c : Reg)
  /-- `DISARM` (R293): Removes the strand's oldest unfired trigger for a block. -/
  | disarm (pd : BitVec 4) (b : Reg)
  /-- `CNTRD` (R291): Reads a receive, mailbox or copy-unit counter. -/
  | cntrd (x which : Reg)
  /-- `CNTSET` (R291): Sets a counter and recompares its triggers. -/
  | cntset (which v : Reg)
  /-- `AWINIT` (R287): Initialises an arrival word's count, target, generation and watchdog. -/
  | awinit (aw v : Reg)
  /-- `AWWAIT` (R288): Parks until an arrival word's generation passes g. -/
  | awwait (aw gen : Reg)
  /-- `RECORD` (R332): Starts a Dawn pass of the core's recorder over a loop. -/
  | record (pd : BitVec 4) (c : Reg)
  /-- `REPLAY` (R333): Moves the recorder to Daylight. -/
  | replay (pd : BitVec 4)
  /-- `RPSTOP` (R333): Stops the recorder. -/
  | rpstop
  /-- `RPSTAT` (R334): Reads a recorder quantity or table entry. -/
  | rpstat (x which : Reg)
  /-- `ROUTE` (R428): Submits a routing call to the die's routing engine. -/
  | route (x desc : Reg)
  /-- `RTWAIT` (R432): Parks until a routing call completes. -/
  | rtwait (h : Reg)
  /-- `RTINV` (R434): Submits a combine of gated expert outputs in token order. -/
  | rtinv (x desc : Reg)
  /-- `RTSTAT` (R432): Writes a routing call's status word. -/
  | rtstat (x h : Reg)
  /-- `COLL` (R405): Submits a collective call to the cluster's communication master. -/
  | coll (x pb : Reg)
  /-- `COLLW` (R406): Parks until a collective call completes. -/
  | collw (h : Reg)
  /-- `COLLST` (R406): Writes a collective call's status word. -/
  | collst (x h : Reg)
  /-- `MBPUT` (R414): Offers a request word to a master's mailbox. -/
  | mbput (pd : BitVec 4) (w : Reg)
  /-- `MBGET` (R415): Reads a collective, link or session counter or state. -/
  | mbget (x which : Reg)
  /-- `QUEUE_MISUSE_DETECT` (R16): Hardware detects halves held on queues that can never release and raises QueueMisuse. -/
  | queueMisuseDetect (sid : StrandId)
  /-- `MIGRATION_INBOX_ARRIVAL` (R174): The destination accepts or refuses an arriving light image and checks its CRC. -/
  | migrationInboxArrival (sid : StrandId) (crcOk : Bool)
  /-- `MIGRATION_INSTALL` (R174): An accepted image is installed in a free frame and the anchor records the new core. -/
  | migrationInstall (sid : StrandId)
  /-- `MIGRATION_ACK` (R25): The source frees its copy on the destination's acknowledgement. -/
  | migrationAck (sid : StrandId)
  /-- `MIGRATION_REFUSAL` (R25): On refusal or failed CRC the source returns the strand to its rotation and performs the access remotely. -/
  | migrationRefusal (sid : StrandId)
  /-- `MIGRATION_INBOX_TIMEOUT` (R175): An image waiting 4,096 cycles without a frame is spilled as a pre-empted ready strand. -/
  | migrationInboxTimeout (sid : StrandId)
  /-- `ARRIVAL_REPORT` (R23): The birth core learns of the arrival and delivers requests held during the migration. -/
  | arrivalReport (sid : StrandId)
  /-- `MESSAGE_DELIVERY` (R127): A message reaches the receiver's birth core and joins its queue or is dropped. -/
  | messageDelivery (part : Fin 16) (cont value : Word) (sender : StrandId)
  /-- `WORD_WAIT_REPRESENT` (R165): A waiter held for a full word-wait table presents its wait again every 1,024 cycles. -/
  | wordWaitRepresent (sid : StrandId)
  /-- `WAKE` (R166): A woken strand re-enters the rotation and retests or completes. -/
  | wake (sid : StrandId)
  /-- `YIELD_REENTRY` (R93): A yielded strand re-enters the rotation once its yield set has issued. -/
  | yieldReentry (sid : StrandId)
  /-- `FENCE_D_COMPLETION` (R342): A drained FENCE.D completes 400 mesh cycles after its tick edge and raises ts to RW. -/
  | fenceDCompletion (sid : StrandId)
  /-- `PREEMPTION` (R167): A scheduler pre-emption request takes effect at a window-free boundary. -/
  | preemption (sid : StrandId)
  /-- `QUANTUM_EXPIRY` (R173): A strand's time-slice quantum expires and the scheduler may pre-empt it. -/
  | quantumExpiry (sid : StrandId)
  /-- `SPILL` (R169): The spill engine writes a pre-empted context to the context store when its frame is needed. -/
  | spill (sid : StrandId)
  /-- `RESTORE` (R171): The spill engine restores a context, checking both CRCs. -/
  | restore (sid : StrandId)
  /-- `RESUME` (R172): A pre-empted strand is resumed on a core with its frame, lanes and tiles. -/
  | resume (sid : StrandId) (core : Nat)
  /-- `STRAND_CREATE` (R373): A kernel node creates its next strand in a free slot. -/
  | strandCreate (part : Fin 16) (tag : BitVec 16) (node : Nat)
  /-- `QUIESCENT_DEADLOCK` (R183): The detector finds a group parked 2^20 cycles with nothing in flight and delivers the trap. -/
  | quiescentDeadlock (sid : StrandId) (group : BitVec 8)
  /-- `MEMORY_ERROR` (R193): A correctable or uncorrectable error is corrected, poisons a word, discards a line or stops a strand. -/
  | memoryError (place : ErrorPlace) (correctable : Bool)
  /-- `SCRUB_PASS` (R194): A scrub pass over the scratchpad completes. -/
  | scrubPass (core : Nat)
  /-- `MATRIX_JOB_START` (R247): A segment starts its next accepted job once the previous one completes. -/
  | matrixJobStart (core : Nat)
  /-- `MATRIX_JOB_COMPLETE` (R250): A matrix job completes and its status record is written. -/
  | matrixJobComplete (core : Nat)
  /-- `RING_ROUND_START` (R260): A ring round starts when every segment's job is at its head. -/
  | ringRoundStart (cluster : Nat)
  /-- `RING_PHASE_END` (R260): An MMAR phase ends when all eight segments finish it and latches pass on. -/
  | ringPhaseEnd (cluster : Nat)
  /-- `RING_ROUND_TIMEOUT` (R260): A round not started within 2^22 mesh cycles fails its members with ERR 2. -/
  | ringRoundTimeout (cluster : Nat) (round : BitVec 32)
  /-- `COPY_START` (R271): The copy unit starts an accepted command when a running place is free. -/
  | copyStart (id : Nat)
  /-- `COPY_PIECE_WRITE` (R276): The copy unit writes destination bytes and sets each word full in one step. -/
  | copyPieceWrite (id j : Nat)
  /-- `COPY_COMPLETION` (R282): A copy completes, with or without an error. -/
  | copyCompletion (id : Nat)
  /-- `ARRIVAL_PIECE` (R286): A piece of counted bytes is added to an arrival word at its home, advancing GEN. -/
  | arrivalPiece (from_ : PieceSource)
  /-- `COUNTER_PIECE` (R291): A piece is added to a receive or mailbox counter and triggers are compared. -/
  | counterPiece (from_ : PieceSource)
  /-- `ARRIVAL_WATCHDOG_EXPIRY` (R289): An arrival word's watchdog expires, setting STALL and raising ArrivalStall at its waiters. -/
  | arrivalWatchdogExpiry (key : Nat)
  /-- `PAGE_WALK` (R304): A page walker completes a coalesced four-level walk. -/
  | pageWalk (core : Nat) (root va : Word)
  /-- `RECLASSIFICATION` (R308): A private page becomes shared, raising its words' timestamps to the owner's clock. -/
  | reclassification (leaf : Nat)
  /-- `L2_EVICTION` (R313): A line leaving an L2 slice raises the slice's eviction mark. -/
  | l2Eviction (line : Nat)
  /-- `MIDNIGHT_PAUSE` (R319): The package stops, invalidates leases and resets all timestamps to zero. -/
  | midnightPause
  /-- `HEARTBEAT_TICK` (R317): A heartbeat tick edge reaches a core. -/
  | heartbeatTick
  /-- `PUSH_ARRIVAL` (R327): A push reaches the consumer's L1 and is installed, merged or discarded. -/
  | pushArrival
  /-- `AGEING_SAMPLE` (R355): The ageing monitors sample a core's timing margin each tick. -/
  | ageingSample (core : Nat) (margin : Byte)
  /-- `DERATE_STEP` (R355): An hour of low margin derates the core by one code or sets RET. -/
  | derateStep (core : Nat)
  /-- `SUPPLY_SAG` (R356): A detected supply sag stretches the cluster's clocks. -/
  | supplySag (cluster : Nat)
  /-- `SUPPLY_SAG_END` (R356): One tick after a sag ends the stretch is removed. -/
  | supplySagEnd (cluster : Nat)
  /-- `CONFIG_BLOCK_WRITE` (R362): The hypervisor writes a partition configuration block. -/
  | configBlockWrite (part : Fin 16) (off : Byte) (bytes : List Byte)
  /-- `PARTITION_DEFINE` (R363): A STATE request to DEFINED checks the configuration block. -/
  | partitionDefine (part : Fin 16)
  /-- `PARTITION_RUN` (R363): A STATE request to RUNNING zeroes owned words, generates keys and resets tables. -/
  | partitionRun (part : Fin 16)
  /-- `PARTITION_PAUSE` (R375): A STATE request to PAUSED pre-empts and spills every strand. -/
  | partitionPause (part : Fin 16)
  /-- `PARTITION_RESUME` (R363): A STATE request from PAUSED to RUNNING resumes strands. -/
  | partitionResume (part : Fin 16)
  /-- `PARTITION_KILL` (R376): A STATE request to KILLING kills the whole partition. -/
  | partitionKill (part : Fin 16)
  /-- `PARTITION_UNDEFINE` (R363): A STATE request from RELEASED zeroes words, destroys keys and frees the units. -/
  | partitionUndefine (part : Fin 16)
  /-- `WAY_MASK_WRITE` (R365): The hypervisor writes a virtual function's L2 way mask. -/
  | wayMaskWrite (vf : BitVec 7) (v : Word)
  /-- `DOORBELL` (R366): A TAIL write rings a work queue's doorbell, or stops it when too far ahead. -/
  | doorbell (q : BitVec 11) (tail : Word32)
  /-- `REGISTER_WRITE` (R12): A write to a register with no behaviour of its own, such as a work queue descriptor field. -/
  | registerWrite (r : DeviceRegister) (v : Word)
  /-- `LAUNCH_RECORD_FETCH` (R367): A queue fetches its next launch record and validates the graph. -/
  | launchRecordFetch (q : BitVec 11)
  /-- `NODE_START` (R372): The graph engine starts a node whose predecessors are done. -/
  | nodeStart (part : Fin 16) (tag : BitVec 16) (node : Nat)
  /-- `NODE_COMPLETE` (R372): A graph node completes and successors become eligible. -/
  | nodeComplete (part : Fin 16) (tag : BitVec 16) (node : Nat)
  /-- `LOOP_ITERATION` (R371): A loop node tests its condition and resets and starts its body. -/
  | loopIteration (part : Fin 16) (tag : BitVec 16) (node : Nat)
  /-- `GRAPH_COMPLETION` (R369): A graph ends and its completion record and MSI-X are written. -/
  | graphCompletion (part : Fin 16) (tag : BitVec 16)
  /-- `KILL_REQUEST` (R378): The hardware takes a KILLREQ from the control block and starts the kill. -/
  | killRequest (part : Fin 16)
  /-- `INVALIDATION_REQUEST` (R378): The hardware takes an INVREQ and invalidates translation buffers. -/
  | invalidationRequest (part : Fin 16)
  /-- `ENGINE_QUIESCE_ACK` (R376): An engine acknowledges quiesce of a killed context, advancing the kill. -/
  | engineQuiesceAck (part : Fin 16) (tag : BitVec 16)
  /-- `KILL_RELEASED` (R376): A kill reaches RELEASED and writes the completion record and KILLDONE. -/
  | killReleased (part : Fin 16) (tag : BitVec 16)
  /-- `REVOKED_WRITE_REJECT` (R376): A write of a revoked context reaching a destination is rejected and counted. -/
  | revokedWriteReject (part : Fin 16) (tag : BitVec 16) (cluster : Nat)
  /-- `VF_RESET` (R364): A function-level reset of a VF stops its queues. -/
  | vfReset (vf : BitVec 7)
  /-- `HOST_MEM_READ` (R385): A CXL.mem host read is served through a host window or refused. -/
  | hostMemRead (addr : Word) (n : Nat)
  /-- `HOST_MEM_WRITE` (R385): A CXL.mem host write is served through a host window or refused. -/
  | hostMemWrite (addr : Word) (bytes : List Byte)
  /-- `SNP_INV` (R382): A SnpInv invalidates the host line and every L1 span of it. -/
  | snpInv (line : Nat)
  /-- `SNP_DATA` (R382): A SnpData downgrades the host line to S. -/
  | snpData (line : Nat)
  /-- `SNP_CUR` (R382): A SnpCur returns current data without a state change. -/
  | snpCur (line : Nat)
  /-- `HOST_CACHE_FILL` (R381): A RdShared or RdOwn response fills the host coherence cache. -/
  | hostCacheFill (line : Nat) (owned : Bool)
  /-- `CLUSTER_POWER_GATE` (R383): A cluster is power-gated after its L1s are invalidated. -/
  | clusterPowerGate (cluster : Nat)
  /-- `SURPRISE_LINK_LOSS` (R383): The host link drops, discarding dirty lines and counting them. -/
  | surpriseLinkLoss
  /-- `COLD_START` (R391): Power-on or PERST# runs the cold start sequence. -/
  | coldStart
  /-- `WARM_RESET` (R392): A warm reset kills partitions, writes back the cache and reruns bring-up. -/
  | warmReset (cause : Word32)
  /-- `THERMAL_TRIP` (R394): A junction of 115 °C removes every rail but always-on and records CAUSE 4. -/
  | thermalTrip
  /-- `FIRMWARE_IMAGE` (R387): The SC verifies a firmware image, accepting it or recording BOOTERR. -/
  | firmwareImage (image : List Byte)
  /-- `SVN_FUSE_REQUEST` (R387): A PF request raises the fused SVN counter to an accepted SVN. -/
  | svnFuseRequest (svn : Word32)
  /-- `ATTESTATION_REQUEST` (R389): The SC writes a signed attestation report for a nonce. -/
  | attestationRequest (nonce : BitVec 256) (part : Byte)
  /-- `DEBUG_UNLOCK` (R390): A valid debug token kills partitions, zeroes memory, destroys keys and opens the port. -/
  | debugUnlock (token : List Byte)
  /-- `I3C_REQUEST` (R395): A board controller reads status through the I3C target. -/
  | i3cRequest (what : I3cItem)
  /-- `REMOTE_ACCESS_ARRIVAL` (R340): A remote access is performed at its home package. -/
  | remoteAccessArrival (req : RemoteRequest)
  /-- `REMOTE_RESPONSE` (R340): A remote access's response or acknowledgement returns to the issuer. -/
  | remoteResponse (sid : StrandId) (denied : Bool)
  /-- `REMOTE_TIMEOUT` (R398): A remote load without response in 10,000 ticks completes as poison. -/
  | remoteTimeout (sid : StrandId)
  /-- `FLIT_RECEIVE` (R400): A flit is corrected, checked, and accepted or replay-requested. -/
  | flitReceive (port : Fin 24) (flit : List Byte)
  /-- `LANE_RETIRE` (R400): A failing lane is retired, halving the port or taking it down. -/
  | laneRetire (lane : Fin 192)
  /-- `TICK_SOURCE_FAILOVER` (R401): After 1,000 ticks without source ticks the lowest reached package takes over. -/
  | tickSourceFailover (newSource : BitVec 10)
  /-- `COLL_CALL_START` (R402): The master takes a call from its mailbox into a free step context. -/
  | collCallStart (cluster : Nat)
  /-- `CONTRIBUTION_ARRIVAL` (R409): A contribution or start notice reaches the coordinator. -/
  | contributionArrival (handle seq : Word32) (rank : Nat) (agrees : Bool) (data : List Word32)
  /-- `COLL_TIMEOUT` (R409): At T + TIMEOUT the coordinator flushes or opens the Twilight window. -/
  | collTimeout (handle seq : Word32)
  /-- `TWILIGHT_EXPIRY` (R409): The Twilight window ends without quorum and the call fails with ERR 1. -/
  | twilightExpiry (handle seq : Word32)
  /-- `COLL_RESULT_ARRIVAL` (R409): A result reaches a member, which writes DST, RES and status and completes. -/
  | collResultArrival (handle seq : Word32) (rank : Nat) (res : CollResult)
  /-- `COORDINATOR_LOST` (R409): A member without a result by 2 × TIMEOUT + TWILIGHT completes with ERR 2. -/
  | coordinatorLost (handle seq : Word32) (rank : Nat)
  /-- `LATE_MEMBER` (R410): A late member is answered flushed and completes with ERR 5, dropping or folding. -/
  | lateMember (handle seq : Word32) (rank : Nat) (res : CollResult)
  /-- `FLUSH` (R414): A FLUSH request forces a flush if quorum is met. -/
  | flush (handle seq : Word32)
  /-- `CANCEL` (R414): A CANCEL request completes every unfinished member with ERR 8. -/
  | cancel (handle seq : Word32)
  /-- `OPEN_SESSION` (R418): An OPEN request reads a session entry and starts the Zhomer handshake. -/
  | openSession (part : Fin 16) (entry : List Byte)
  /-- `CLOSE_SESSION` (R420): A CLOSE request ends a session and destroys its keys. -/
  | closeSession (part : Fin 16) (sess : BitVec 10)
  /-- `HANDSHAKE_INIT` (R418): The responder checks an INIT and sends RESP. -/
  | handshakeInit (part : Fin 16) (sess : BitVec 10) (msg : List Byte)
  /-- `HANDSHAKE_RESP` (R418): The initiator checks RESP, derives keys and opens the session. -/
  | handshakeResp (part : Fin 16) (sess : BitVec 10) (msg : List Byte)
  /-- `HANDSHAKE_TIMEOUT` (R418): A handshake not done in 10,000,000 ticks fails the session. -/
  | handshakeTimeout (part : Fin 16) (sess : BitVec 10)
  /-- `ZHOMER_DATAGRAM` (R419): A received datagram is authenticated, replay-checked and delivered or dropped. -/
  | zhomerDatagram (part : Fin 16) (sess : BitVec 10) (dgram : List Byte)
  /-- `ZHOMER_RETRANSMIT` (R419): An unacknowledged data packet is retransmitted. -/
  | zhomerRetransmit (part : Fin 16) (sess : BitVec 10)
  /-- `REKEY` (R420): After 2^32 packets or an hour a direction rekeys and flips its key phase. -/
  | rekey (part : Fin 16) (sess : BitVec 10)
  /-- `OLD_KEY_EXPIRY` (R420): Old-phase keys are destroyed 1,000,000 ticks after the new phase authenticates. -/
  | oldKeyExpiry (part : Fin 16) (sess : BitVec 10)
  /-- `NON_ZHOMER_FRAME` (R416): A non-Zhomer Ethernet frame goes to the management plane. -/
  | nonZhomerFrame (port : Fin 4) (frame : List Byte)
  /-- `ROUTE_CALL_START` (R428): The routing engine starts a queued call with its own count. -/
  | routeCallStart (die : Nat)
  /-- `ROUTE_REQUEST` (R429): A home engine grants, holds or answers closed a member's slot request. -/
  | routeRequest (req : RouteRequest)
  /-- `ROUTE_GRANT` (R428): A member receives a grant base and sends or drops its rows. -/
  | routeGrant (die : Nat) (call : BitVec 16) (expert : Nat) (answer : RouteAnswer)
  /-- `ROUTE_ROW_ARRIVAL` (R430): A token row is written at its home and counted in slot order. -/
  | routeRowArrival (row : RouteRow)
  /-- `EXPERT_CLOSE_TIMEOUT` (R430): An expert closes at its own-count tick plus TIMEOUT. -/
  | expertCloseTimeout (die : Nat) (handle seq : Word32) (expert : Nat)
  /-- `ROUTE_GRANT_TIMEOUT` (R429): Choices without a grant in 2 × TIMEOUT are dropped with ERR 2. -/
  | routeGrantTimeout (die : Nat) (call : BitVec 16)
  /-- `ROUTE_CALL_COMPLETE` (R432): A routing call completes after its rows, INV, DROP and status are written. -/
  | routeCallComplete (die : Nat)
  /-- `THERMAL_WARNING` (R395): A thermal warning on the package makes the I3C target raise an in-band interrupt. -/
  | thermalWarning
  /-- `NEST_CANCEL_LEARNED` (R179): A core holding strands of the launch learns, within 512 mesh cycles, that the nest has been cancelled, after which its strands' ITER writes pd = 0. -/
  | nestCancelLearned (core : Nat) (part : Fin 16) (tag : BitVec 16) (node : Nat)
  deriving DecidableEq, Repr

end Sys2Proof
end

