-- ==== Sys2Proof/Machine/StrandTypes.lean ====
section
/-! DEFINITION. The state of one strand (R14): its two halves, queues, system registers, vector and region registers, its place in a core, its park and its held instructions. -/

namespace Sys2Proof.Machine

/-- One dimension of a box (R134, R136): the coordinates start + j × step for j < ext. -/
structure Dim where
  start : Int
  ext : Nat
  step : Nat
  deriving DecidableEq, Repr

/-- A box: one dimension entry for each dimension below the rank, dimension 0 first (R134). -/
abbrev Box := List Dim

/-- A region register (R133). The unbound register (R135) has every field zero or empty. -/
structure Region where
  /-- The address of the tensor descriptor. -/
  tda : Word := 0#64
  rank : Nat := 0
  esz : Nat := 0
  ovf : Bool := false
  /-- The four bounds copied from the descriptor. -/
  bounds : List Nat := []
  boxes : List Box := []
  /-- The row lengths of a ragged region (R141), whose one box is the only entry of `boxes`. -/
  rows : Option (List Nat) := none
  deriving DecidableEq, Repr

/-- The all-zero image (R135). -/
def Region.unbound : Region := {}

/-- The queues between the halves (R16), the oldest entry first. -/
structure Queues where
  lq : List Word := []
  sq : List Word := []
  bqa : List Bool := []
  bqe : List Bool := []
  deriving DecidableEq, Repr

/-- The four queues, numbered as TRAPVAL names them (R16). -/
inductive QueueName where
  | lq
  | sq
  | bqa
  | bqe
  deriving DecidableEq, Repr

/-- A register write that a lookahead window still hides (R49). -/
inductive LateWrite where
  | a (n : Fin 12) (v : Word)
  | d (n : Fin 12) (v : Word)
  | p (n : BitVec 4) (b : Bool)
  | v (n : BitVec 4) (lanes : List Word32) (tag : Tag)
  deriving DecidableEq, Repr

/-- An open lookahead window (R49): opened by the instruction at position `at_`, its writes are seen from the position
after `closeAt` on. -/
structure Window where
  at_ : Nat
  closeAt : Nat
  writes : List LateWrite
  deriving DecidableEq, Repr

/-- The tag of a tile (R245). -/
inductive TileTag where
  | none
  | f32
  | i32
  deriving DecidableEq, Repr

/-- A tile: its elements by row × 64 + column, its tag and who claims it. -/
structure Tile where
  elems : Tab Word32 := []
  tag : TileTag := .none
  holder : Option StrandId := none
  deriving DecidableEq, Repr

/-- An open lookahead window of a matrix job: an instruction in it reads the tile as it was before the job (R49). `job` is the
number of the job in its cluster, `old` the tile as the job found it, once it has started. -/
structure TileWindow where
  at_ : Nat
  closeAt : Nat
  tile : Nat
  job : Nat
  old : Option Tile := none
  deriving DecidableEq, Repr

/-- The access half: a-registers, predicates p0 to p7, region registers, the iteration fetcher (R24), counters of loads
(R101) and the open windows of instructions of the access half. -/
structure AccessHalf where
  a : Vector Word 12 := Vector.replicate 12 0#64
  /-- p0 to p7; bit 0 is 1 (R15). -/
  p : BitVec 8 := 1#8
  q : Vector Region 16 := Vector.replicate 16 Region.unbound
  left : BitVec 32 := 0#32
  idx : Word := 0#64
  last : Word := 0#64
  poisonCnt : Word32 := 0#32
  refused : BitVec 16 := 0#16
  migrated : BitVec 16 := 0#16
  windows : List Window := []
  /-- The open windows of matrix jobs (R49), the oldest first. -/
  tileWindows : List TileWindow := []
  deriving DecidableEq, Repr

/-- The execute half: d-registers, predicates p8 to p15 (bit n is p(8+n)) and the open windows of its instructions. -/
structure ExecuteHalf where
  d : Vector Word 12 := Vector.replicate 12 0#64
  p : BitVec 8 := 0#8
  windows : List Window := []
  deriving DecidableEq, Repr

/-- The vector registers of a lane claim (R217 to R222): `w` lanes, each register a list of `w` lane words. -/
structure VectorFile where
  w : Nat := 0
  v : Vector (List Word32) 16 := Vector.replicate 16 []
  tag : Vector Tag 16 := Vector.replicate 16 0#6
  k : Vector (BitVec 256) 8 := Vector.replicate 8 0#256
  /-- The lane slices: lane × 4096 + offset (R243), with the poison of their words. -/
  slice : Mem := {}
  /-- The open windows of vector loads. -/
  windows : List Window := []
  deriving DecidableEq, Repr

/-- The strand's system registers (R96 to R101). -/
structure SysRegs where
  /-- The status half-word (R18). -/
  status : BitVec 16 := 0x2000#16
  tsave : BitVec 16 := 0#16
  trappc : Word := 0#64
  trapcause : Word := 0#64
  trapval : Word := 0#64
  scratch : Vector Word 4 := Vector.replicate 4 0#64
  tqstat : Word := 0#64
  tqbits : Word := 0#64
  tqlq : Vector Word 16 := Vector.replicate 16 0#64
  tqsq : Vector Word 16 := Vector.replicate 16 0#64
  deriving DecidableEq, Repr

/-- Everything of a strand that a precise trap must be able to bring back (R103). -/
structure Context where
  acc : AccessHalf := {}
  exe : ExecuteHalf := {}
  vec : VectorFile := {}
  queues : Queues := {}
  sys : SysRegs := {}
  deriving DecidableEq, Repr

/-- The instruction now issuing: its address, its word (R54), its length and its place in the dynamic stream (R49, R98). (DESIGN CHOICE, log 91.) -/
structure Issue where
  addr : Word := 0#64
  /-- The address after the instruction and its literal words. -/
  next : Word := 0#64
  word : Word32 := 0#32
  /-- 1 for a 32-bit instruction. -/
  long : Bool := true
  nlit : Nat := 0
  ntab : Nat := 0
  half : Side := .execute
  pos : Nat := 0
  deriving DecidableEq, Repr

/-- What a lagging half still has to do of an instruction that the other half has passed (R16, R48, R84). -/
inductive Held where
  /-- The whole instruction. -/
  | whole (i : Instr)
  /-- The execute part of a load: pop `lq` into d-register n with lookahead `la` (R48). -/
  | popTo (n : Fin 12) (la : Nat)
  /-- The execute part of a store: push d-register n to `sq` (R48). -/
  | pushFrom (n : Fin 12)
  /-- Follow an outcome: pop the other half's branch queue (R84). -/
  | follow
  /-- Write the link register of a `JAL` that the other half has passed (R86). -/
  | link (r : Reg) (v : Word)
  /-- The access part of a two-part memory instruction of R48. -/
  | part (i : Instr)
  /-- An instruction of the half that is ahead, which has issued and whose effects outside the strand's context are withheld
  (R104). `bar` is the position after which nothing younger issues until they are performed (R49), if its format has one. -/
  | withheld (i : Instr) (bar : Option Nat)
  deriving DecidableEq, Repr

/-- What is still to be done of an instruction, with the context before it as the half that is ahead had made it. `lag` is
the half that lags behind that half: the half of a held instruction, and the other half of one whose effects are
withheld. -/
structure Deferred where
  issue : Issue
  work : Held
  lag : Side
  snap : Context
  deriving DecidableEq, Repr

/-- The states of a frame (R160), and where else a strand can be: in the context store (R169), in flight between two
cores (R22) or waiting in an inbox (R174). -/
inductive FrameState where
  | running
  | parked
  | yielded
  | preempted
  | stopped
  | spilled
  | flight
  | inbox
  deriving DecidableEq, Repr

/-- Where the value of a memory instruction goes: a data register of format M, a predicate (`FETEST`), or nowhere. -/
inductive Dest where
  | reg (x : Reg)
  | pred (p : BitVec 4)
  | none
  deriving DecidableEq, Repr

/-- What a park waits for (R164). -/
inductive Wait where
  /-- An operation of R121 on the word with this key and address: its minor (`LDF`, `LDE`, `STF`), whether it is `.D`, the
  data register and lookahead, and the value a store would write. `order` is the order in which waiters were accepted at homes (R122); `none` while the
  word-wait table of the home is full (R165). -/
  | word (key : Nat) (va : Word) (minor : BitVec 2) (dbl : Bool) (x : Reg) (la : Nat) (v : Word) (order : Option Nat)
  /-- `SEND`: the continuation, the value, the entries it pops from `sq`, and the order of the offer (R127). -/
  | send (cont value : Word) (pops : Nat) (order : Nat)
  /-- `WAITR`: the selector, the destination and the entries it pops from `sq` (R129). -/
  | message (sel : Word) (x : Reg) (pops : Nat)
  /-- `FENCE.D`: parked since this tick (R92). -/
  | fenceD (since : Nat)
  /-- `EXIT` (R94). -/
  | exit
  /-- `JWAIT`: a job identifier (R266). -/
  | job (id : Word)
  /-- The wait form of a matrix job (R259): the job, and its instruction's handle register. -/
  | jobForm (id : Word)
  /-- `CWAIT` (R284): the number of batches that may remain. -/
  | batch (n : Nat)
  /-- `AWWAIT` (R288): the arrival word's key and address, and the generation. -/
  | arrival (key : Nat) (va gen : Word)
  /-- `QWAIT` (R290): the keys of the region's words, and the arrival word's key and address. -/
  | region (words : List Nat) (aw : Option (Nat × Word))
  /-- `BAR` after its arrival, and `BARW` (R350): the group, the generation waited for, the destination, and whether the
  strand has arrived. -/
  | barrier (group : Nat) (gen : BitVec 16) (x : Reg) (arrived : Bool)
  /-- `COLLW` (R406). -/
  | coll (h : Word)
  /-- `RTWAIT` (R432). -/
  | route (h : Word)
  /-- A remote access whose value has not returned (R340); `waits` where it is an `LDF` or `LDE`, which may be parked at its
  home (R398). -/
  | remote (waits : Bool)
  deriving DecidableEq, Repr

/-- A message in a queue (R127). -/
structure Message where
  value : Word
  tag : Byte
  reg : BitVec 5
  sender : StrandId
  /-- Whether it came from another package (R344). -/
  remote : Bool := false
  /-- The timestamp of its delivery (R309). -/
  stamp : Nat := 0
  deriving DecidableEq, Repr

/-- The offer of a parked sender of another package (R127): its order, partition, continuation and value. -/
structure OutsideOffer where
  order : Nat
  part : Fin 16
  cont : Word
  value : Word
  sender : StrandId
  deriving DecidableEq, Repr

/-- The kernel node that a strand belongs to (R24): partition, launch tag and node. -/
structure LaunchRef where
  part : Fin 16 := 0
  tag : BitVec 16 := 0#16
  node : Nat := 0
  deriving DecidableEq, Repr

/-- How the last attempt to issue an instruction ended. -/
inductive Note where
  | done
  /-- A queue holds the half (R16): the instruction has had no effect. -/
  | held (q : QueueName)
  /-- A trap was taken (R105). -/
  | trapped
  /-- The instruction waits until the other half has done everything older (R92, R95, R129); it has had no effect. -/
  | waits
  /-- The strand left the rotation at the instruction, which has had no effect yet (R164). -/
  | parked
  /-- The instruction is held by something other than a queue or the other half: a barrier phase (R349), an
  acknowledgement (R342), an engine's queue. It has had no effect. -/
  | blocked
  /-- The instruction is held for a pre-emption that is about to take effect (R51). It has had no effect. -/
  | stalled
  /-- The instruction has made some of its accesses and goes on with the others (R143, R242). -/
  | paused
  deriving DecidableEq, Repr

/-- A store of an instruction that makes several, which has passed its checks (R143, R242): its address, key, bytes and value. -/
structure PendingStore where
  va : Word
  key : Nat
  size : Nat
  value : Nat
  deriving DecidableEq, Repr

/-- An anchor record (R26). -/
structure Anchor where
  poisonCnt : Word32
  migrated : BitVec 16
  refused : BitVec 16
  tags : Vector Tag 16
  batchNext : BitVec 16
  scratch : Vector Word 4
  deriving DecidableEq, Repr

/-- A strand (R14). -/
structure Strand where
  sid : StrandId := 0#32
  ctx : Context := {}
  pc : Word := 0#64
  issue : Issue := {}
  /-- The number of the next instruction in the dynamic stream (R49). -/
  pos : Nat := 0
  /-- The logical timestamp (R19). -/
  ts : Nat := 0
  /-- Loads since the last that hit in the L1 without raising `ts` (R315). -/
  hits : Nat := 0
  /-- The model's own: the line of HBM or host memory that its last load has missed, while the reply may be outstanding (R327). -/
  missed : Option Nat := none
  /-- The group memberships (R20). -/
  groups : Vector (BitVec 16) 4 := Vector.replicate 4 0#16
  frame : FrameState := .running
  /-- The core the strand occupies (R23). -/
  core : Nat := 0
  /-- The frame it occupies there (R159). -/
  slot : Nat := 0
  wait : Option Wait := none
  deferred : List Deferred := []
  /-- A pop of `lq` that the execute part of an `AMO` or `CAS` still owes: register, lookahead, position (R48). -/
  owed : Option (Fin 12 × Nat × Nat) := none
  /-- While an instruction of the lagging half runs: the context to which a trap brings the leading half back (R103). -/
  undo : Option Deferred := none
  note : Note := .done
  /-- The model's own (R143, R242): what the accesses made so far gave, of an instruction that has not made all of them; and the
  stores that are still to be performed, of one that has issued. -/
  parts : List Nat := []
  going : List PendingStore := []
  /-- The model's own (R16, R161): the queue that holds the lagging half, as far as its last attempt told, and whether the half
  that leads cannot go on before it does. -/
  heldLag : Option QueueName := none
  heldLead : Bool := false
  /-- The message queue at the birth core (R128), the oldest first. -/
  inbox : List Message := []
  launch : LaunchRef := {}
  rank : Word32 := 0#32
  count : Word32 := 1#32
  /-- The priority level (R373). -/
  prio : Nat := 0
  /-- The tick at which the strand last entered a frame, or was last pre-empted (R173). -/
  since : Nat := 0
  /-- Its place in the resume queue of its level (R173): a number of the counter that orders waiters. -/
  queued : Nat := 0
  /-- A pending pre-emption request (R167). -/
  preempt : Bool := false
  /-- The strands of the yield set that have not issued since, with their halves (R93). -/
  yieldSet : List (StrandId × Side) := []
  /-- The access that a refused migration left to be performed remotely (R22, R25). -/
  stay : Bool := false
  /-- Where the strand migrates to (R22), and whether the image was refused: for a full inbox, or for its CRC (R25). -/
  target : Nat := 0
  refusal : Option Bool := none
  /-- The frame of the source core that still holds a copy (R25). -/
  leaving : Option (Nat × Nat) := none
  /-- Whether the birth core has not learnt of the arrival (R23). -/
  unreported : Bool := false
  /-- The address of its image in the context store, while it is spilled or being restored (R169, R171). -/
  image : Option Nat := none
  /-- The copy batch that the stored image names as the oldest unfinished one. -/
  imageOldest : BitVec 16 := 0#16
  /-- The copy batch being filled and the oldest unfinished one (R283). -/
  batchNext : BitVec 16 := 0#16
  batchOldest : BitVec 16 := 0#16
  /-- Whether the batch being filled holds a copy (R283). -/
  batchUsed : Bool := false
  /-- Errors of batches not delivered yet, by batch number (R284). -/
  batchErr : List (BitVec 16 × Nat) := []
  /-- Stamps of the writes of batches (R314). -/
  batchStamps : List (BitVec 16 × Nat) := []
  /-- A `FENCE.D` that completed while the strand was away (R92, R342). -/
  fencePast : Bool := false
  /-- The moment for which a parked `QWAIT` waits has come (R290). -/
  regionMet : Bool := false
  /-- QuiescentDeadlock, ArrivalStall or EngineError waiting to be raised (R109). -/
  pendingTrap : Option (Nat × Word) := none
  deriving DecidableEq, Repr

end Sys2Proof.Machine
end

