-- ==== Sys2Proof/Machine/EngineTypes.lean ====
section
/-! DEFINITION. The state of the engines beside the strands: matrix segments and jobs (R245 to R250), copies, counters and arrival words (R271 to R292). -/

namespace Sys2Proof.Machine

/-- A tensor descriptor (R131), as an engine read it at acceptance. -/
structure Tensor where
  base : Word
  rank : Nat
  esz : Nat
  bounds : List Nat
  pitches : List Nat
  deriving DecidableEq, Repr

/-- A region operand of an engine command: the region and its descriptor (R131, R157). -/
structure Operand where
  region : Region
  tensor : Tensor
  deriving DecidableEq, Repr

/-- For whom an engine works: the strand, its node, the core at which the command was issued and the root under which its
addresses are translated. -/
structure Origin where
  sid : StrandId
  launch : LaunchRef
  core : Nat
  root : Word
  deriving DecidableEq, Repr

/-! ## The matrix engine -/

inductive LatchMode where
  | empty
  | dense
  | compressed
  deriving DecidableEq, Repr

/-- The shape of a latch (R245): its mode, rows, columns and metadata blocks. -/
structure LatchShape where
  mode : LatchMode := .empty
  k : Nat := 0
  n : Nat := 0
  mb : Nat := 0
  deriving DecidableEq, Repr

/-- What a latch and its metadata store hold: the values by row × 64 + column, and the metadata words (R263). -/
structure Latch where
  shape : LatchShape := {}
  values : Tab (BitVec 16) := []
  blocks : List Word := []
  deriving DecidableEq, Repr

/-- A segment (R245). `shape`, `owner` and `valid` are committed as jobs are accepted (R249); `latch` changes as they run. -/
structure Segment where
  tiles : Tab Tile := []
  latch : Latch := {}
  shape : LatchShape := {}
  owner : StrandId := 0#32
  valid : Bool := false
  rings : Word32 := 0#32
  /-- Poisoned words loaded for the next `MMA` or `MMAS` (R255). -/
  carry : Nat := 0
  deriving DecidableEq, Repr

inductive JobKind where
  | mma
  | mmas
  | mmar
  | bld
  | bmeta
  | brot
  deriving DecidableEq, Repr

/-- What a job has found so far (R250). -/
structure JobFound where
  err : Nat := 0
  nv : Bool := false
  ovf : Bool := false
  malf : Nat := 0
  pois : Nat := 0
  deriving DecidableEq, Repr

/-- A job in the queue of a cluster (R247). -/
structure Job where
  /-- The number of jobs that the cluster accepted before it. -/
  idx : Nat
  kind : JobKind
  origin : Origin
  tile : Nat
  zi : Bool
  /-- The region that it reads; for `BROT` an unbound one. -/
  source : Operand
  /-- What a load commits (R249), or the shape against which a matrix job was checked (R258). -/
  shape : LatchShape
  /-- The ring round of a ring job (R260), and the mesh cycle of its acceptance. -/
  round : Word32 := 0#32
  since : Nat := 0
  running : Bool := false
  /-- The phase of an `MMAR` round that comes next. -/
  phase : Nat := 0
  found : JobFound := {}
  /-- The words of its source that it has read ahead (R269), by key / 4; nothing for a poisoned one. -/
  seen : List (Nat × Option Word32) := []
  deriving DecidableEq, Repr

/-- A status record (R250). -/
structure JobRecord where
  idx : Nat
  sid : StrandId
  /-- STATE: 0 queued, 1 running, 2 complete. -/
  state : Nat := 0
  found : JobFound := {}
  delivered : Bool := false
  deriving DecidableEq, Repr

/-- What a cluster's matrix engine holds beside its segments. -/
structure MatrixQueue where
  jobs : List Job := []
  /-- Records by slot. -/
  records : Tab (Option JobRecord) := []
  accepted : Nat := 0
  /-- Ring rounds that timed out, with the number of their members so far (R260). -/
  dead : List (Word32 × Nat) := []
  deriving DecidableEq, Repr

/-! ## The copy unit -/

/-- A side of a copy: memory, or the issuing strand's lane slices (R277). -/
structure CopySide where
  op : Operand
  lanes : Bool := false
  deriving DecidableEq, Repr

/-- The signal of a copy (R273, R280). -/
inductive Signal where
  | none
  | arrival (va : Nat)
  | counter (pkg : BitVec 10) (n : Nat)
  deriving DecidableEq, Repr

/-- Where a copied byte comes from: a byte of the source side, a constant, or a byte of the BF16 that an element and its
scale expand to (R278). -/
inductive ByteSource where
  | byte (addr : Nat)
  | const (b : Byte)
  | expand (elem scale : Nat) (fmt : Tag) (hi : Bool)
  deriving DecidableEq, Repr

/-- The destination bytes of one word (R276): their addresses, and their sources. -/
abbrev CopyPiece := List (Nat × ByteSource)

inductive CopyState where
  /-- An armed trigger: the block's address, the counter and the threshold (R292). -/
  | armed (block : Word) (counter : Nat) (threshold : Word)
  | queued
  | running
  deriving DecidableEq, Repr

/-- An accepted copy. -/
structure Copy where
  id : Nat
  cluster : Nat
  origin : Origin
  batch : BitVec 16
  state : CopyState
  /-- Whether the source and the destination lie in lane slices. -/
  lss : Bool
  lsd : Bool
  /-- Its memory-side operands, for the checks at firing. -/
  src : Option Operand
  dst : Option Operand
  signal : Signal
  /-- What is still to be written. -/
  todo : List CopyPiece
  /-- Bytes of the source side that no destination byte takes (R279). -/
  unused : List Nat := []
  /-- Source words read, by address div 4 (lane slices from 2^62 on), with their data where they were not poisoned. -/
  seen : List (Nat × Option Word32) := []
  /-- Pieces written whose bytes have not been counted yet, with their stamps, the oldest first. -/
  uncounted : List (Nat × Nat) := []
  stamp : Nat := 0
  err : Nat := 0
  deriving DecidableEq, Repr

/-- What the home of an arrival word keeps beside it (R286, R314): the tick of the last piece and the stamp. -/
structure ArrivalKeep where
  t0 : Nat := 0
  stamp : Nat := 0
  deriving DecidableEq, Repr

/-! ## The routing engine -/

/-- A routing descriptor (R424), with the PKG, DIE and CAP of its map's entries and its members, as read at issue (R426). -/
structure RouteDesc where
  handle : Word32
  nmem : Nat
  nexp : Nat
  ntok : Nat
  k : Nat
  yBf : Bool
  oBf : Bool
  rb : Nat
  yrb : Nat
  thresh : Nat
  timeout : Nat
  choice : Word
  map : Word
  x : Word
  inv : Word
  drop : Word
  dropMax : Nat
  out : Word
  status : Word
  members : List (BitVec 10)
  /-- Home package, die and capacity of each expert. -/
  experts : List (BitVec 10 × Nat × Nat)
  deriving DecidableEq, Repr

/-- What a member knows of its slots of an expert: nothing yet, the base granted, or that it gets none (R429). -/
inductive Grant where
  | waiting
  | base (b : Nat)
  | none
  deriving DecidableEq, Repr

/-- A call of a routing engine (R426 to R434). -/
structure RouteCall where
  die : Nat
  idx : Nat
  /-- `RTINV`. -/
  combine : Bool
  origin : Origin
  desc : RouteDesc
  seq : Word32
  /-- HEARTBEAT at acceptance. -/
  start : Nat
  running : Bool := false
  /-- EXP of every entry, in choice order, once the own count has read them (R428). -/
  choices : List Nat := []
  /-- By expert. -/
  grants : List Grant := []
  /-- The errors met, by code. -/
  errs : List Nat := []
  late : Nat := 0
  pois : Nat := 0
  /-- Whether a page of X has faulted, and the choices whose rows were then dropped (R436). -/
  broken : Bool := false
  unsent : List Nat := []
  /-- The largest stamp of its writes (R432). -/
  stamp : Nat := 0
  /-- The words that it has read ahead (R435), as in a job. -/
  seen : List (Nat × Option Word32) := []
  deriving DecidableEq, Repr

/-- The status of a call (R427). -/
structure RouteRecord where
  idx : Nat
  sid : StrandId
  combine : Bool
  /-- STATE: 0 queued, 1 running, 2 complete. -/
  state : Nat := 0
  err : Nat := 0
  delivered : Bool := false
  ndrop : Nat := 0
  stamp : Nat := 0
  deriving DecidableEq, Repr

/-- An expert homed on a die of this package, from its member's own count on (R428 to R430). -/
structure RouteExpert where
  die : Nat
  handle : Word32
  seq : Word32
  expert : Nat
  origin : Origin
  buf : Word
  ablk : Word
  cap : Nat
  rb : Nat
  nmem : Nat
  timeout : Nat
  /-- The tick of the own count. -/
  start : Nat
  /-- The slots of the home's own member, NEXT, and the requests answered. -/
  own : Nat
  next : Nat
  answered : Nat
  written : List Nat := []
  counted : Nat := 0
  stamp : Nat := 0
  closed : Bool := false
  deriving DecidableEq, Repr

/-- A routing engine of a die. -/
structure RouteEngine where
  calls : List RouteCall := []
  accepted : Nat := 0
  records : Tab (Option RouteRecord) := []
  /-- Requests held until the own count (R429), in arrival order. -/
  held : List RouteRequest := []
  experts : List RouteExpert := []
  /-- Rows of this package's members on their way to this engine. -/
  rows : List RouteRow := []
  /-- The handles and sequence numbers of calls of killed contexts, whose requests are answered "closed" (R429). -/
  killed : List (Word32 × Word32) := []
  deriving DecidableEq, Repr

/-! ## Collectives (R402 to R415) -/

/-- A parameter block (R407), but for HANDLE's sequence number. -/
structure CollBlock where
  op : Nat
  redop : Nat
  fmt : Tag
  cfmt : Tag
  alg : Nat
  fold : Bool
  scale : Nat
  handle : Word32
  nrank : Nat
  rank : Nat
  coord : Nat
  root : Nat
  quorum : Nat
  timeout : Nat
  twilight : Nat
  count : Nat
  members : Word
  src : Word
  dst : Word
  res : Word
  status : Word
  deriving DecidableEq, Repr

/-- What a member has read and formed (R411): the residual as it stood, the contribution c, and what it sends. -/
structure Contribution where
  old : List Word32
  c : List Word32
  sent : List Word32
  deriving DecidableEq, Repr

/-- A call that a communication master has accepted (R404) and that has not completed. -/
structure CollCall where
  idx : Nat
  origin : Origin
  block : CollBlock
  /-- The member table, by rank. -/
  table : List Word32
  seq : Word32
  /-- HEARTBEAT at acceptance. -/
  since : Nat
  running : Bool := false
  formed : Option Contribution := none
  /-- Whether its contribution has reached a coordinator of this package. -/
  arrived : Bool := false
  /-- The largest stamp of its writes (R314). -/
  stamp : Nat := 0
  /-- The words that it has read ahead (R412), as in a job. -/
  seen : List (Nat × Option Word32) := []
  deriving DecidableEq, Repr

/-- A status record (R404). -/
structure CollRecord where
  idx : Nat
  sid : StrandId
  /-- STATE: 0 queued, 1 running, 2 complete. -/
  state : Nat := 0
  err : Nat := 0
  delivered : Bool := false
  present : Nat := 0
  lost : Nat := 0
  stamp : Nat := 0
  deriving DecidableEq, Repr

/-- What a mailbox holds (R402, R414). -/
inductive MailEntry where
  | call (idx : Nat)
  | flush (call : BitVec 16)
  | cancel (call : BitVec 16)
  | openSession (part : Fin 16) (entry : List Byte)
  | closeSession (part : Fin 16) (sess : BitVec 10)
  deriving DecidableEq, Repr

/-- The communication master of a cluster (R402). -/
structure CollMaster where
  mailbox : List MailEntry := []
  calls : List CollCall := []
  accepted : Nat := 0
  records : Tab (Option CollRecord) := []
  lateDrop : Nat := 0
  lateFold : Nat := 0
  lostMembers : Nat := 0
  deriving DecidableEq, Repr

/-- A contribution that has reached its coordinator: the rank, the block of a member of this package, what the block of
another agrees in, and the data. -/
structure Arrived where
  rank : Nat
  block : Option CollBlock
  agrees : Bool
  data : List Word32
  deriving DecidableEq, Repr

/-- The stages of a call at its coordinator (R409). -/
inductive CollStage where
  /-- The coordinator has not accepted its own call. -/
  | held
  | open_
  | twilight
  | flushed
  | failed
  deriving DecidableEq, Repr

/-- A call at its coordinator (R409): the coordinator's own block, member table and cluster, T, and what has arrived. -/
structure Coordinator where
  handle : Word32
  seq : Word32
  stage : CollStage := .held
  cluster : Nat := 0
  origin : Option LaunchRef := none
  block : Option CollBlock := none
  table : List Word32 := []
  tstart : Nat := 0
  arrived : List Arrived := []
  tflush : Nat := 0
  twilight : Bool := false
  byRequest : Bool := false
  /-- The reduction over the present members (R411), element by element. -/
  reduced : List Word32 := []
  deriving DecidableEq, Repr

/-! ## Zhomer sessions (R416 to R420) -/

/-- A direction's keys (R418, R420): the key and salt of a phase. -/
structure SessionKey where
  key : BitVec 256
  salt : Word32
  deriving DecidableEq, Repr

/-- What a receiver keeps of a direction and key phase (R419): its keys, the highest packet number and those received
within the window below it. -/
structure Receiving where
  keys : SessionKey
  high : Option Nat := none
  seen : List Nat := []
  deriving DecidableEq, Repr

/-- A session that is not closed. State 1 is handshaking, 2 open, 3 failed (R415). -/
structure Session where
  state : Nat
  entry : List Byte
  initiator : Bool := false
  /-- The tick at which the handshake started. -/
  since : Nat := 0
  /-- The handshake messages so far, and the secret of this side (the decapsulation key). -/
  transcript : List Byte := []
  secret : List Byte := []
  /-- The keys to the peer, their phase, tick and next packet number. -/
  keysOut : Option SessionKey := none
  phaseOut : Bool := false
  keyed : Nat := 0
  pnOut : Nat := 0
  /-- The keys from the peer: of the present phase, of the next one, and of the old one with the tick at which the present
  phase first authenticated. -/
  phaseIn : Bool := false
  receiving : Option Receiving := none
  nextIn : Option SessionKey := none
  oldIn : Option (Receiving × Nat) := none
  /-- The session ids of the handshake: this side's and the peer's. -/
  rid : Word32 := 0#32
  peerRid : Word32 := 0#32
  /-- Data packets sent and not acknowledged, with the handle and sequence number of the call that they serve. -/
  unacked : List (Nat × Word32 × Word32) := []
  sent : Nat := 0
  dropped : Nat := 0
  rekeys : Nat := 0
  deriving DecidableEq, Repr

end Sys2Proof.Machine
end

