-- ==== Sys2Proof/Machine/DieTypes.lean ====
section
/-! DEFINITION. The state of a core and of the die's coherence: L1 spans, translation buffers, the field-layout table, the recorder and the speed entry. -/

namespace Sys2Proof.Machine

/-- Words of a line that one push delivered, by first word and number, and whether a load has hit one of them (R329). -/
structure PushedWords where
  first : Nat
  len : Nat
  used : Bool := false
  deriving DecidableEq, Repr

/-- A span that an L1 holds (R312): consecutive words of one line with their lease. A line of a private page is held without
one (R310). -/
structure Span where
  /-- The line: key div 128. -/
  line : Nat
  first : Nat
  words : List Word32
  wts : Nat
  rts : Nat
  /-- The home's wts of each word as the span was fetched, for its renewal (R312). -/
  homes : List Nat := []
  /-- What pushes delivered of it (R327), with whether a load has hit a word of it since (R329). -/
  pushed : List PushedWords := []
  priv : Bool := false
  deriving DecidableEq, Repr

/-- A line that an instruction cache holds (R184): key div 64, and its 64 bytes. -/
structure InstrLine where
  line : Nat
  bytes : List Byte
  deriving DecidableEq, Repr

/-- A line in a set of an L2 slice (R301): key div 128, and the way in which it stands. -/
structure L2Line where
  line : Nat
  way : Nat
  deriving DecidableEq, Repr

/-- A buffered translation (R306): one page under one root. -/
structure TlbEntry where
  root : Word
  /-- The page's first virtual address and its size in bytes. -/
  base : Nat
  size : Nat
  leaf : Word
  /-- Where the leaf entry stands. -/
  entry : Nat
  deriving DecidableEq, Repr

/-- The states of a recorder (R323). -/
inductive RecState where
  | idle
  | dawn
  | daylight
  | stopped
  deriving DecidableEq, Repr

/-- An entry of a recorder's table (R325). -/
structure RecEntry where
  pc : BitVec 48
  line : Nat
  first : Nat
  len : Nat
  cons : Nat
  count : Nat
  deriving DecidableEq, Repr

/-- The recorder of a core (R322), with the counters of R334. -/
structure Recorder where
  state : RecState := .idle
  serves : Option LaunchRef := none
  loop : Word := 0#64
  entries : List RecEntry := []
  notes : Nat := 0
  noteOvf : Nat := 0
  pushes : Nat := 0
  pushUsed : Nat := 0
  pushDrop : Nat := 0
  depMiss : Nat := 0
  depStore : Nat := 0
  depEvict : Nat := 0
  /-- The model's own: which pass this is, among all that recorders have begun. -/
  epoch : Nat := 0
  auto : Bool := false
  deriving DecidableEq, Repr

/-- A push on its way to its consumer (R327). -/
structure Push where
  producer : Nat
  consumer : Nat
  launch : LaunchRef
  span : Span
  deriving DecidableEq, Repr

/-- Who last wrote a word of a shared page while its core recorded or replayed, and in which pass (R324, R329). -/
structure Writer where
  core : Nat
  launch : LaunchRef
  pc : BitVec 48
  pass : RecState
  epoch : Nat
  inLoop : Bool
  deriving DecidableEq, Repr

/-- The speed entry of a core (R354), but for the tested code, which is the part's own. -/
structure Speed where
  derate : Nat := 0
  /-- The steps that the code in use takes off: it follows `derate` at the next tick edge (R355). -/
  inUse : Nat := 0
  ret : Bool := false
  margin : Byte := 0#8
  eol : BitVec 16 := 0xFFFF#16
  sagTk : Nat := 0
  sagCnt : Nat := 0
  /-- Consecutive ticks below 16 ps, and the tick of the last sample (R355). -/
  low : Nat := 0
  sampled : Option Nat := none
  /-- Ticks of the derate steps made, the latest first. -/
  steps : List Nat := []
  deriving DecidableEq, Repr

/-- What a core holds beside its strands. -/
structure CoreState where
  /-- The rotation pointers of the access and the execute pipe (R162). -/
  rotA : Nat := 0
  rotE : Nat := 0
  /-- Core cycles since the reset, as the rotation counts them (R162). -/
  cycle : Nat := 0
  /-- The slot that the pipe with priority took in this cycle, once it has chosen. -/
  taken : Option (Option Nat) := none
  /-- The private clock (R310). -/
  pclk : Nat := 0
  /-- The L1 (R184), the latest fetched first. -/
  spans : List Span := []
  /-- The instruction cache (R184, R186), the latest fetched first. -/
  icache : List InstrLine := []
  tlb : List TlbEntry := []
  /-- The field-layout table (R187). -/
  layouts : Vector Word 64 := Vector.replicate 64 0#64
  /-- System register RECCTL (R335). -/
  recctl : Word := 0x400001#64
  recorder : Recorder := {}
  /-- R355: the core had passed its rated life when it was last assigned, so that it is offered to no partition. -/
  barred : Bool := false
  speed : Speed := {}
  deriving DecidableEq, Repr

end Sys2Proof.Machine
end

