-- ==== Sys2Proof/Machine/PackageTypes.lean ====
section
/-! DEFINITION. Partitions, launches, graphs, nest counters and group tables. -/

namespace Sys2Proof.Machine

/-- The states of a partition (R363). -/
inductive PartState where
  | undefined
  | defined
  | running
  | paused
  | killing
  | released
  deriving DecidableEq, Repr

/-- A partition (R362): its configuration block and STATE word. -/
structure Partition where
  /-- The bytes of the configuration block at offsets 0x08 to 0xFF (R362), by offset. LEASE is 16 at reset (R311). -/
  block : Tab Byte := [(0x9A, 16#8)]
  state : PartState := .undefined
  err : Nat := 0
  /-- Strands that entered the Stopped state and were reported to the partition (R108). -/
  notified : Nat := 0
  /-- The tick of the last request that resumed it (R363). -/
  resumedAt : Nat := 0
  /-- A request to PAUSED that has not been completed (R375). -/
  pausing : Bool := false
  /-- The data and tweak key of its memory (R388), as draws from the SC's entropy source. -/
  keys : Option (Nat × Nat) := none
  deriving DecidableEq, Repr

/-- What a node of a graph does (R370). -/
inductive NodeKind where
  | kernel (entry a0 memb : Word) (bounds : List Nat) (count minchunk ndim : Nat)
  | copy (qd qs ctl : Word) (cluster : Nat)
  | collective (pb : Word) (cluster : Nat)
  | route (desc : Word)
  | conditional (addr value : Word) (cond : BitVec 4)
  | loop (addr : Word) (count first last : Nat)
  | switch (addr : Word)
  | join
  deriving DecidableEq, Repr

/-- The states of a node (R372). -/
inductive NodeState where
  | waiting
  | running
  | completed
  | skipped
  deriving DecidableEq, Repr

/-- An arrival that a barrier holds because its strand has arrived in this phase (R349): the strand, whether the
instruction is `BAR`, and its destination. -/
structure HeldArrival where
  sid : StrandId
  bar : Bool
  x : Reg
  deriving DecidableEq, Repr

/-- An entry of a group table (R346). -/
structure Group where
  gen : BitVec 16 := 0#16
  live : Nat := 0
  arr : Nat := 0
  /-- The arrived set, in the order of arrival. -/
  arrived : List StrandId := []
  stamp : Nat := 0
  t0 : Nat := 0
  t0tk : Nat := 0
  dusk0 : Word := 0#64
  dusk1 : Word := 0#64
  /-- Held arrivals, the earliest first. -/
  held : List HeldArrival := []
  deriving DecidableEq, Repr

/-- A nest counter (R176). -/
structure Nest where
  bounds : List Nat
  ndim : Nat
  minchunk : Nat
  rem : Nat
  next : Nat
  cancelled : Bool := false
  /-- The cores that know of the cancellation (R179). -/
  known : List Nat := []
  deriving DecidableEq, Repr

/-- The engine command of a node: a copy, or the handle of a collective or routing call. -/
inductive EngineRef where
  | copy (id : Nat)
  | coll (h : Word)
  | route (h : Word)
  deriving DecidableEq, Repr

/-- A node of a running graph. -/
structure Node where
  kind : NodeKind
  npred : Nat
  succ : List Nat
  state : NodeState := .waiting
  /-- Strands created and exited so far (R373), or iterations begun of a loop (R371). -/
  created : Nat := 0
  ended : Nat := 0
  groups : Tab Group := []
  nest : Option Nest := none
  /-- Abandoned iterations (R180). -/
  abandoned : Nat := 0
  /-- The chosen successor of a conditional or switch (R370). -/
  chosen : Option Nat := none
  /-- The engine command that the node waits for, and the error with which its copy has ended. -/
  command : Option EngineRef := none
  result : Option Nat := none
  /-- The membership words of a kernel node, as read when it started (R370). -/
  memb : List Word := []
  /-- The largest stamp of the node's engine writes (R373). -/
  stamp : Nat := 0
  deriving DecidableEq, Repr

/-- The steps of a kill (R376). -/
inductive KillStep where
  | none
  | requested
  | revoked
  | quiesced
  deriving DecidableEq, Repr

/-- A launch (R367) whose record has been fetched and whose graph runs (R368). -/
structure Launch where
  part : Fin 16
  tag : BitVec 16
  queue : Nat
  vf : Nat
  root : Word
  compl : Word
  prio : Nat
  flags : Byte
  vec : BitVec 16
  nodes : List Node
  start : Nat
  /-- The tick at which it last started a node (R374), and the order of its doorbell. -/
  lastStart : Nat
  order : Nat := 0
  /-- Why the launch ends other than by running to its end (R369). -/
  status : Nat := 0
  failing : BitVec 16 := 0xFFFF#16
  firstStopped : StrandId := 0#32
  stoppedCount : Nat := 0
  kill : KillStep := .none
  /-- Whether KILLREQ asked for the kill (R376 step 6). -/
  byRequest : Bool := false
  /-- The cores on which it has placed a strand (R186). -/
  placed : List Nat := []
  deriving DecidableEq, Repr

/-- A work queue (R366). -/
structure WorkQueue where
  ring : Word := 0#64
  ondev : Bool := false
  logn : BitVec 5 := 0#5
  head : Word32 := 0#32
  tail : Word32 := 0#32
  en : Bool := false
  bind : BitVec 7 := 0#7
  /-- The doorbells that cover records not fetched yet, the earliest first: TAIL and order (R374). -/
  bells : List (Word32 × Nat) := []
  deriving DecidableEq, Repr

/-- R366: a TAIL more than 2^LOGN ahead of HEAD stops the queue. -/
def WorkQueue.checked (w : WorkQueue) : WorkQueue := { w with en := w.en && !(2 ^ w.logn.toNat < (w.tail - w.head).toNat) }

/-- R366, R374: the order of the doorbell that covers the record at HEAD. -/
def WorkQueue.order (w : WorkQueue) : Nat := (w.bells.head?.map (·.2)).getD 0

/-- R366: HEAD moves past a fetched record; the doorbells that cover nothing beyond it are over. -/
def WorkQueue.next (w : WorkQueue) : WorkQueue :=
  { w with head := w.head + 1, bells := w.bells.filter fun b => 0 < (b.1 - (w.head + 1)).toInt }

/-- What the always-on domain holds (R386 to R395), beside the host port's own counters. -/
structure AlwaysOn where
  /-- CAUSE, WARM, LINKLOSS and BOOTERR of the reset record (R393); EXCLUDED follows from the self-test. -/
  cause : Nat := 1
  warm : Nat := 0
  linkLoss : Nat := 0
  bootErr : Nat := 0
  /-- The fused SVN counter, and the image that runs (R387): `none` for that of the flash. -/
  fusedSvn : Nat := 0
  firmware : Option (List Byte) := none
  /-- Only the PF mailbox works (R387). -/
  recovery : Bool := false
  /-- The debug port is open, and has been since cold reset (R389, R390). -/
  debugOpen : Bool := false
  debugged : Bool := false
  /-- The number of the nonce that the SC has out for a debug token (R390). -/
  nonce : Nat := 0
  /-- A thermal trip has removed the rails (R394). -/
  railsOff : Bool := false
  /-- DEVRDY (R391). -/
  ready : Bool := true
  /-- The last attestation report (R389), and the last answer to the board controller (R395). -/
  report : List Byte := []
  i3c : List Byte := []
  /-- In-band interrupts raised to the board controller (R395). -/
  interrupts : Nat := 1
  deriving DecidableEq, Repr

/-- The receiving end of a Denvos Link port (R400): the SEQ expected and the lanes retired. -/
structure PortState where
  expect : Nat := 0
  retired : List Nat := []
  down : Bool := false
  /-- Replays requested in the present tick, by lane. -/
  replays : Tab Nat := []
  deriving DecidableEq, Repr

end Sys2Proof.Machine
end

