-- ==== Sys2Proof/Machine/State.lean ====
section
/-! DEFINITION. The state of the machine: one package of the CN-1536, seen from the strand that issues, with `State.reset`. -/

namespace Sys2Proof.Machine

/-- Why the machine stops. -/
inductive Fault where
  /-- Raised by `step` alone, while the rails are off after a thermal trip (R394): nothing issues until a cold start.
  Safe: the model goes no further than the hardware. -/
  | railsOff
  deriving DecidableEq, Repr

/-- Why the model gives no meaning. -/
inductive Refusal where
  /-- Raised by `exec` for an instruction whose meaning is not written. Safe: no claim can be made about it. -/
  | notModelled (mnemonic : String)
  deriving DecidableEq, Repr

/-- The two timestamps of a word at its home (R311). -/
structure Stamps where
  wts : Nat := 0
  rts : Nat := 0
  deriving DecidableEq, Repr

/-- The states of a line in the host coherence cache (R381). -/
inductive HostState where
  | invalid
  | shared
  | exclusive
  | modified
  deriving DecidableEq, Repr

/-- A line of the host coherence cache: its state, and what host memory holds while the line is dirty. -/
structure HostLine where
  state : HostState := .invalid
  old : List Byte := []
  deriving DecidableEq, Repr

/-- A remote access on its way to its home package, or a store not acknowledged yet (R340, R342). (DEDUCED, log 18.) -/
structure RemoteAccess where
  sid : StrandId
  va : Word
  key : Nat
  size : Nat
  op : RemoteOp
  /-- Where its value goes, and the lookahead. -/
  dest : Dest
  la : Nat
  signed : Bool := true
  /-- The launch of the strand: its writes stop before RELEASED (R377). -/
  launch : LaunchRef := {}
  /-- The tick at which it was issued (R398), and whether a port that went down has dropped it (R400). -/
  since : Nat := 0
  lost : Bool := false
  deriving DecidableEq, Repr

/-- What the host's last read or snoop was answered with: bytes, and whether they are marked poisoned (R385). -/
structure HostAnswer where
  bytes : List Byte
  poisoned : Bool := false
  deriving DecidableEq, Repr

/-- The host port's own state (R383, R393): whether the link is lost, its counters, and the MSI-X messages sent to the
host (R369): virtual function and vector, the latest last. -/
structure HostPort where
  linkDown : Bool := false
  msix : List (Nat × BitVec 16) := []
  lostLines : Nat := 0
  dropSt : Nat := 0
  hostDeny : Nat := 0
  deriving DecidableEq, Repr

/-- How an instruction that makes several accesses fares in the turn of its strand (R143, R242): how many it still may make, if
it is broken off at all; what those of earlier turns gave; and what all have given. -/
structure Burst where
  cut : Option Nat := none
  replay : List Nat := []
  made : List Nat := []
  deriving DecidableEq, Repr

/-- A word that an engine event writes: for whom, at which address and place, its bytes, and the stamp that its write has taken. -/
structure AheadWord where
  origin : Origin
  va : Word
  key : Nat
  bytes : List (Nat × Byte)
  stamp : Nat := 0
  deriving DecidableEq, Repr

/-- An engine event that is in progress (R115): whether its words are only being found, and its words, found or written. -/
structure Ahead where
  event : Instr
  finding : Bool
  words : List AheadWord
  deriving DecidableEq, Repr

structure State where
  /-- The strand whose turn it is. -/
  me : Strand
  /-- Every other strand of the package, resident or not. -/
  others : List Strand
  /-- Storage: scratchpads, cluster-shared memory, chip scratchpads, HBM, host memory and other packages' memory. -/
  mem : Mem
  /-- Home timestamps by word, or by 128-byte granule for uncached homes (R311). -/
  stamps : Tab Stamps
  /-- Timestamps that a reclassification gave every word of a page (R308 step 3): first key, size, timestamp; the latest
  first. A word listed in `stamps` has been touched since. -/
  floors : List (Nat × Nat × Nat)
  /-- The eviction marks of the L2 slices (R313). -/
  marks : Tab Nat
  /-- The sets of the L2 slices (R301), by slice × 1,024 + set, the most recently used line first. -/
  l2 : Tab (List L2Line)
  /-- The model's own: the way mask (R316) under which the engine access that a step makes allocates. -/
  fillMask : BitVec 16
  /-- The clusters' translation buffers (R306). -/
  clusterTlb : Tab (List TlbEntry)
  /-- The host coherence cache (R381), by line. -/
  hostCache : Tab HostLine
  host : HostPort
  /-- Pushes on their way (R327), the oldest first. -/
  pushes : List Push
  /-- The largest timestamp that a step has given since the last Midnight pause (R318). -/
  latest : Nat
  /-- Remote accesses that have not been answered, the oldest first. -/
  remoteOps : List RemoteAccess
  /-- Accesses of other packages that wait at their homes here (R122), with their order. -/
  outsideWaits : List (Nat × RemoteRequest)
  /-- Offers of other packages' parked senders to full queues here (R127), the oldest first. -/
  outsideOffers : List OutsideOffer
  /-- Last writers of words of shared pages, for the recorders (R324). -/
  writers : Tab (Option Writer)
  cores : Tab CoreState
  /-- The shortfalls that the lane arbiters record, by cluster, the oldest first (R220). -/
  shorts : Tab (List (StrandId × Nat))
  /-- Resumptions waiting for lanes, with the core each resumes on, the oldest first (R172, R220). -/
  resuming : List (StrandId × Nat)
  /-- The matrix segments, by core, and the matrix queues, by cluster (R245, R247). -/
  segments : Tab Segment
  matrix : Tab MatrixQueue
  /-- The accepted copies (R271), in the order of acceptance. -/
  copies : List Copy
  /-- The counters of R291: core × 16 + i, and from 24,576 on cluster × 8 + (selector − 16). -/
  counters : Tab Word
  /-- What arrival words' homes keep, by key. -/
  arrivals : Tab ArrivalKeep
  /-- The routing engines, by die (R426), the sequence numbers of handles, and the call that serves Y for a handle (R434). -/
  routers : Tab RouteEngine
  routeSeqs : Tab Nat
  routeHomes : Tab (Option RouteCall)
  /-- The communication masters, by cluster (R402), the sequence numbers of handles (R408) and the calls at their
  coordinators (R409). -/
  masters : Tab CollMaster
  collSeqs : Tab Nat
  coords : List Coordinator
  /-- The Zhomer sessions that are not closed, by partition × 1,024 + number (R417), and the addresses of the Ethernet
  ports (R416): MAC, then the low and high half of the IPv6 address, by port × 4 + word. -/
  sessions : Tab (Option Session)
  portAddrs : Tab Word
  /-- The counters of the fabric lanes (R415): flits corrected, replays and DROPPED, by lane × 4 + item. -/
  laneCounts : Tab Nat
  remTimeout : Nat
  remDeny : Nat
  /-- The generation of every slot, and the anchor records (R26), by core × 16 + slot (R8). -/
  gens : Tab Nat
  anchors : Tab (Option Anchor)
  /-- The tiles of spilled strands (R170). -/
  savedTiles : List (StrandId × Nat × Tile)
  /-- The work queues (R366) and the way-mask table (R365). -/
  queues : Tab WorkQueue
  wayMasks : Tab Word
  /-- HDMBASE (R380). -/
  hdmBase : Word
  always : AlwaysOn
  /-- The clusters whose power gate is closed (R383). -/
  gated : List Nat
  /-- The Denvos Link ports (R400), the tick source of the domain and the tick of its last tick flit (R401). -/
  ports : Tab PortState
  tickSource : BitVec 10
  lastTickFlit : Nat
  /-- The answer to the host's last read or snoop; nothing where a snoop met no data (R382). -/
  hostAnswer : Option HostAnswer
  parts : Vector Partition 16
  launches : List Launch
  /-- The contexts whose TAG is marked revoked (R376 step 2). -/
  revoked : List (Fin 16 × BitVec 16)
  /-- The clusters whose clock is stretched for a supply sag (R356), with the tick of the last sag. -/
  sags : Tab (Option Nat)
  /-- HEARTBEAT (R317). -/
  tick : Nat
  /-- The mesh cycle of the last reading of the mesh clock. -/
  mesh : Nat
  /-- The remote watermark (R342). -/
  rw : Nat
  /-- The model's own: the largest timestamp of a strand whose `FENCE.D` has completed (R343). -/
  fences : Nat
  /-- The number of this package in its domain (R8). -/
  pkg : BitVec 10
  /-- The package routing table (R397), by die × 1,024 + package: the port of each entry that the management plane wrote. -/
  routes : Tab Word
  /-- The model's own: events that occur next, the earliest first. -/
  pending : List Instr
  /-- The model's own: the strands that issue next; when it is empty the rotation of R162 decides. -/
  turns : List StrandId
  /-- The model's own: how an instruction that makes several accesses fares in this turn. -/
  burst : Burst
  /-- The model's own: the engine event that has written some of its words, and not yet the rest (R115). -/
  ahead : Option Ahead
  /-- The model's own: how many free values have been drawn. -/
  free : Nat
  /-- The model's own: a counter that orders waiters, offers and commands. -/
  clock : Nat
  deriving DecidableEq, Repr

/-- The strand that stands for "no strand": its id names no core (R8) and it issues nothing. (DESIGN CHOICE, log 1.) -/
def Strand.absent : Strand := { sid := 0xFFFFFFFF#32, frame := .stopped, count := 0#32 }

/-- The machine right after cold start (R391): no partition is defined, no strand exists. (DESIGN CHOICE, log 1.) -/
def State.reset : State where
  me := Strand.absent
  others := []
  mem := {}
  stamps := []
  floors := []
  marks := []
  l2 := []
  fillMask := 0xFFFF#16
  clusterTlb := []
  hostCache := []
  host := {}
  pushes := []
  latest := 0
  remoteOps := []
  outsideWaits := []
  outsideOffers := []
  writers := []
  cores := []
  shorts := []
  resuming := []
  segments := []
  matrix := []
  copies := []
  counters := []
  arrivals := []
  routers := []
  routeSeqs := []
  routeHomes := []
  masters := []
  collSeqs := []
  coords := []
  sessions := []
  portAddrs := []
  laneCounts := []
  remTimeout := 0
  remDeny := 0
  gens := []
  anchors := []
  savedTiles := []
  queues := []
  wayMasks := []
  hdmBase := 0#64
  always := {}
  gated := []
  ports := []
  tickSource := 0#10
  lastTickFlit := 0
  hostAnswer := none
  parts := Vector.replicate 16 {}
  launches := []
  revoked := []
  sags := []
  tick := 0
  mesh := 0
  rw := 0
  fences := 0
  pkg := 0#10
  routes := []
  pending := []
  turns := []
  burst := {}
  ahead := none
  free := 0
  clock := 0

end Sys2Proof.Machine
end

