-- ==== Sys2Proof/Machine/Flags.lean ====
section
/-! DEFINITION. The status half-word (R18): its bits, and the sticky flags of scalar floating point (R76). -/

namespace Sys2Proof.Machine

/-- A word with one bit replaced. -/
def putBit {w : Nat} (x : BitVec w) (i : Nat) (b : Bool) : BitVec w :=
  if b then x ||| BitVec.twoPow w i else x &&& ~~~(BitVec.twoPow w i)

/-- The bits of the status half-word (R18). -/
def supBit : Nat := 15
def roamBit : Nat := 14
def lightBit : Nat := 13
def nvBit : Nat := 10
def dzBit : Nat := 9
def ofBit : Nat := 8
def ufBit : Nat := 7
def nxBit : Nat := 6
def vecBit : Nat := 2
def migBit : Nat := 1

/-- The sticky flags that an operation raises (R76). -/
structure FpFlags where
  nv : Bool := false
  dz : Bool := false
  of : Bool := false
  uf : Bool := false
  nx : Bool := false
  deriving DecidableEq, Repr

/-- Both operations' flags. -/
def FpFlags.or (a b : FpFlags) : FpFlags :=
  ⟨a.nv || b.nv, a.dz || b.dz, a.of || b.of, a.uf || b.uf, a.nx || b.nx⟩

/-- The flags in their places in the status half-word. -/
def FpFlags.bits (f : FpFlags) : BitVec 16 :=
  putBit (putBit (putBit (putBit (putBit 0#16 nvBit f.nv) dzBit f.dz) ofBit f.of) ufBit f.uf) nxBit f.nx

/-- R76: flags are only ever set. -/
def raise (f : FpFlags) (status : BitVec 16) : BitVec 16 := status ||| f.bits

/-- The rounding modes of FRM and FCVT (R18, R80). -/
inductive Rounding where
  | rne
  | rz
  | rdn
  | rup
  deriving DecidableEq, Repr

def Rounding.of (b : BitVec 2) : Rounding :=
  match b with
  | 0#2 => .rne
  | 1#2 => .rz
  | 2#2 => .rdn
  | _ => .rup

/-- FRM (R18). -/
def frm (status : BitVec 16) : Rounding := Rounding.of (status.extractLsb' 11 2)

/-- SUP, ROAM and the number of memberships (R18). -/
def Strand.sup (m : Strand) : Bool := m.ctx.sys.status.getLsbD supBit
def Strand.roam (m : Strand) : Bool := m.ctx.sys.status.getLsbD roamBit
def Strand.ngrp (m : Strand) : Nat := (m.ctx.sys.status.extractLsb' 3 3).toNat

end Sys2Proof.Machine
end

