-- ==== Sys2Proof/Machine/Ops.lean ====
section
/-! DEFINITION. The named operations over registers, windows, queues, cores and partitions, and taking a trap (R105). -/

namespace Sys2Proof.Machine

/-! ## The strand at large -/

/-- The state with a changed strand in turn. -/
def State.setMe (s : State) (m : Strand) : State := { s with me := m }
/-- The state with a changed context of the strand in turn. -/
def State.setCtx (s : State) (c : Context) : State := { s with me := { s.me with ctx := c } }

/-- The instruction's effect is complete. -/
def State.done (s : State) (c : Context) : State := { s with me := { s.me with ctx := c, note := .done } }

/-- The state with the outcome of the attempt recorded. -/
def State.setNote (s : State) (n : Note) : State := { s with me := { s.me with note := n } }

/-- The strand stands again before the instruction now issuing: the program counter and position return to it, or the
held instruction of the lagging half returns to the head of its list. -/
def Strand.rollback (m : Strand) : Strand :=
  match m.undo with
  | none => { m with pc := m.issue.addr, pos := m.issue.pos }
  | some d => { m with deferred := d :: m.deferred, undo := none }

/-- R16: a queue holds the half. The instruction has had no effect and issues again. (DEDUCED, log 70.) -/
def State.hold (s : State) (q : QueueName) : State := { s with me := { s.me.rollback with note := .held q } }

/-- R95: the instruction waits for the other half and has had no effect. -/
def State.waitOther (s : State) : State := { s with me := { s.me.rollback with note := .waits } }

/-- Runs an instruction at which both halves must stand (R90, R95): no older instruction is held. -/
def State.together (s : State) (f : State → State) : State := if s.me.deferred.isEmpty then f s else s.waitOther

/-- The instruction is held otherwise than on a queue and has had no effect. -/
def State.block (s : State) : State := { s with me := { s.me.rollback with note := .blocked } }

/-- R164: the strand leaves the rotation at the instruction, which has had no effect (R124). -/
def State.park (s : State) (w : Wait) : State :=
  { s with me := { s.me.rollback with undo := s.me.undo, frame := .parked, wait := some w, note := .parked } }

/-- The queues with what a lagging half has popped and pushed since `b` carried over to a snapshot made before (R103). -/
def Queues.rebase (lag : Side) (b a q : Queues) : Queues :=
  match lag with
  | .access =>
    { lq := q.lq ++ a.lq.drop b.lq.length
      sq := q.sq.drop (b.sq.length - a.sq.length)
      bqa := q.bqa ++ a.bqa.drop b.bqa.length
      bqe := q.bqe.drop (b.bqe.length - a.bqe.length) }
  | _ =>
    { lq := q.lq.drop (b.lq.length - a.lq.length)
      sq := q.sq ++ a.sq.drop b.sq.length
      bqa := q.bqa.drop (b.bqa.length - a.bqa.length)
      bqe := q.bqe ++ a.bqe.drop b.bqe.length }

/-- The vector registers and masks that an instruction has changed, carried over to a snapshot made before. -/
def VectorFile.rebase (b a q : VectorFile) : VectorFile :=
  if a.w ≠ b.w then { a with slice := q.slice }
  else
    { q with
      v := Vector.ofFn fun i => if a.v[i] = b.v[i] then q.v[i] else a.v[i]
      tag := Vector.ofFn fun i => if a.tag[i] = b.tag[i] then q.tag[i] else a.tag[i]
      k := Vector.ofFn fun i => if a.k[i] = b.k[i] then q.k[i] else a.k[i] }

/-- A snapshot after an older held instruction has run: it took the context from `b` to `a`. -/
def Deferred.rebase (b a : Context) (d : Deferred) : Deferred :=
  { d with snap := { d.snap with
      queues := Queues.rebase d.lag b.queues a.queues d.snap.queues
      vec := VectorFile.rebase b.vec a.vec d.snap.vec } }

/-- A held instruction has had its effect, which took the context from `b` to the present one: it leaves the list. (DEDUCED, log 7.) -/
def Strand.retire (m : Strand) (b : Context) : Strand :=
  { m with deferred := m.deferred.map (Deferred.rebase b m.ctx), undo := none }

/-- A parked instruction has its effect: the strand stands behind it. `b` is the context before. -/
def Strand.leavePark (m : Strand) (b : Context) : Strand :=
  match m.undo with
  | none => { m with pc := m.issue.next, pos := m.issue.pos + 1, frame := .running, wait := none, note := .done }
  | some _ => { ({ m with deferred := m.deferred.tail } : Strand).retire b with
      frame := .running, wait := none, note := .done }

/-- The strand issues again, in its own half, the instruction at which it is held: the instruction of the leading half,
or the oldest held one of the lagging access half. -/
def Strand.reissue (m : Strand) : Strand :=
  match m.deferred with
  | d :: ds =>
    if d.lag = .access then { m with issue := d.issue, undo := some d, deferred := ds }
    else { m with pc := m.issue.next, pos := m.issue.pos + 1 }
  | [] => { m with pc := m.issue.next, pos := m.issue.pos + 1 }

/-- Runs, as the strand in turn, an instruction of a held half to its end: an instruction of the lagging half leaves the
list of held ones. -/
def State.runHeld (s : State) (f : State → State) : State :=
  let old := s.me
  let t := f { s with me := s.me.reissue }
  match t.me.undo, t.me.note with
  | some _, .done =>
    { t with me := { t.me.retire old.ctx with pc := old.pc, pos := old.pos, issue := old.issue } }
  | _, _ => t

/-- A parked strand re-enters the rotation and tests its condition again (R166). -/
def Strand.retry (m : Strand) : Strand := { m with frame := .running, wait := none, undo := none, note := .done }

/-- A fresh value of the model's counter of choices. (DESIGN CHOICE, log 4.) -/
def State.draw (s : State) : Nat × State := (Config.choice s.free, { s with free := s.free + 1 })

/-- A reading of the mesh clock, which never runs backwards. (DESIGN CHOICE, log 12.) -/
def State.meshNow (s : State) : Nat × State :=
  let v := s.mesh + Config.meshCycle s.free
  (v, { s with mesh := v, free := s.free + 1 })

/-- The next number of the counter that orders waiters, offers and commands. -/
def State.stampOrder (s : State) : Nat × State := (s.clock, { s with clock := s.clock + 1 })

/-- Every strand of the package but "no strand". -/
def State.strands (s : State) : List Strand := (s.me :: s.others).filter fun m => m.sid != Strand.absent.sid

/-- A strand by its id. -/
def State.strand? (s : State) (sid : StrandId) : Option Strand := s.strands.find? fun m => m.sid == sid

/-- Applies a change to the strand with an id. -/
def State.modify (s : State) (sid : StrandId) (f : Strand → Strand) : State :=
  if s.me.sid = sid then { s with me := f s.me }
  else { s with others := s.others.map fun m => if m.sid = sid then f m else m }

/-- Makes the strand with an id the strand in turn; the strand that was takes its place in the list. -/
def State.focus (s : State) (sid : StrandId) : State :=
  if s.me.sid = sid then s
  else
    match s.others.find? (fun m => m.sid == sid) with
    | none => s
    | some m => { s with me := m, others := s.others.map fun t => if t.sid = sid then s.me else t }

/-- Runs a change as the strand with an id, and gives the turn back; without such a strand nothing happens. -/
def State.as (s : State) (sid : StrandId) (f : State → State) : State :=
  if (s.strand? sid).isSome then (f (s.focus sid)).focus s.me.sid else s

/-! ## Identifiers (R7, R8) -/

def sidPkg (i : StrandId) : BitVec 10 := i.extractLsb' 22 10
def sidDie (i : StrandId) : Nat := (i.extractLsb' 20 2).toNat
def sidLocal (i : StrandId) : Nat := (i.extractLsb' 11 9).toNat
def sidSlot (i : StrandId) : Nat := (i.extractLsb' 7 4).toNat
def sidGen (i : StrandId) : Nat := (i.extractLsb' 0 7).toNat
/-- The core id of a strand's birth core. -/
def sidCore (i : StrandId) : Nat := sidDie i * 384 + sidLocal i
/-- The id of a strand of a slot. -/
def mkSid (pkg : BitVec 10) (core slot gen : Nat) : StrandId :=
  pkg ++ BitVec.ofNat 2 (core / 384) ++ BitVec.ofNat 9 (core % 384) ++ BitVec.ofNat 4 slot ++ BitVec.ofNat 7 gen

def clusterOfCore (core : Nat) : Nat := core / 8
def dieOfCore (core : Nat) : Nat := core / 384

/-! ## Cores and partitions -/

def State.core (s : State) (c : Nat) : CoreState := Tab.get {} s.cores c
def State.setCore (s : State) (c : Nat) (v : CoreState) : State := { s with cores := Tab.put {} s.cores c v }
def State.modifyCore (s : State) (c : Nat) (f : CoreState → CoreState) : State := s.setCore c (f (s.core c))

/-- The core that the strand in turn occupies. -/
def State.myCore (s : State) : CoreState := s.core s.me.core

/-- The cluster of the strand in turn. -/
def State.myCluster (s : State) : Nat := clusterOfCore s.me.core

/-- The number in `n` bytes of a configuration block from an offset (R362). -/
def Partition.field (p : Partition) (off : Nat) : Nat → Nat
  | 0 => 0
  | n + 1 => (Tab.get 0#8 p.block off).toNat + 256 * Partition.field p (off + 1) n

/-- Bit i of a field of the block. -/
def Partition.bit (p : Partition) (off i : Nat) : Bool := (Tab.get 0#8 p.block (off + i / 8)).getLsbD (i % 8)

/-- Whether the block assigns units: a block not checked yet does not (R363). -/
def Partition.active (p : Partition) : Bool := p.state != .undefined

/-- What a partition owns (R359, R362). -/
def Partition.ownsCluster (p : Partition) (i : Nat) : Bool := p.active && i < 192 && p.bit 0x08 i
def Partition.ownsSlice (p : Partition) (i : Nat) : Bool := p.active && i < 256 && p.bit 0x20 i
def Partition.ownsRange (p : Partition) (i : Nat) : Bool := p.active && i < 256 && p.bit 0x40 i
def Partition.ownsChannel (p : Partition) (i : Nat) : Bool := p.active && i < 256 && p.bit 0x60 i
def Partition.ownsLane (p : Partition) (i : Nat) : Bool := p.active && i < 192 && p.bit 0x80 i
def Partition.ownsPort (p : Partition) (i : Nat) : Bool := p.active && i < 4 && p.bit 0x98 i
def Partition.ownsQueue (p : Partition) (q : Nat) : Bool :=
  let w := p.field 0x9C 4
  p.active && w % 2048 ≤ q && q ≤ w % 2048 + w / 65536 % 2048
def Partition.quantum (p : Partition) : Nat := p.field 0x99 1
def Partition.lease (p : Partition) : Nat := p.field 0x9A 1
def Partition.poisonTrap (p : Partition) : Bool := p.bit 0x9B 0
def Partition.frbase (p : Partition) (die : Nat) : Nat := p.field (0xA0 + 8 * die) 8
def Partition.trapvec (p : Partition) : Word := BitVec.ofNat 64 (p.field 0xC0 8) &&& ~~~1#64
def Partition.storeBase (p : Partition) : Nat := p.field 0xC8 8
def Partition.storeSize (p : Partition) : Nat := p.field 0xD0 8
def Partition.ownsVf (p : Partition) (v : Nat) : Bool :=
  let w := p.field 0xD8 4
  p.active && w % 128 ≤ v && v < w % 128 + w / 256 % 256

def State.part (s : State) (n : Fin 16) : Partition := s.parts[n]
def State.modifyPart (s : State) (n : Fin 16) (f : Partition → Partition) : State :=
  { s with parts := s.parts.set n (f s.parts[n]) }

/-- The partition of the strand in turn. -/
def State.myPart (s : State) : Partition := s.part s.me.launch.part

/-- The partition that owns a cluster. -/
def State.ownerOfCluster (s : State) (i : Nat) : Option (Fin 16) :=
  (List.finRange 16).find? fun n => (s.part n).ownsCluster i

/-- The launch with a tag in a partition. -/
def State.launch? (s : State) (part : Fin 16) (tag : BitVec 16) : Option Launch :=
  s.launches.find? fun l => l.part == part && l.tag == tag
def State.modifyLaunch (s : State) (part : Fin 16) (tag : BitVec 16) (f : Launch → Launch) : State :=
  { s with launches := s.launches.map fun l => if l.part = part ∧ l.tag = tag then f l else l }
/-- The node that a strand belongs to. -/
def State.node? (s : State) (r : LaunchRef) : Option Node := (s.launch? r.part r.tag).bind fun l => l.nodes[r.node]?
def State.modifyNode (s : State) (r : LaunchRef) (f : Node → Node) : State :=
  s.modifyLaunch r.part r.tag fun l => { l with nodes := l.nodes.modify r.node f }

/-- R370, R373: work of an engine is over: its node keeps the stamp, and the error where the node itself gave the command. -/
def State.engineDone (s : State) (o : Origin) (err stamp : Nat) : State :=
  s.modifyNode o.launch fun n =>
    { n with stamp := max n.stamp stamp, result := if o.sid = Strand.absent.sid then some err else n.result }

/-- R186: a launch places a strand on a core: the first time, the core's instruction cache is invalidated. (DEDUCED, log 80.) -/
def State.placeOn (s : State) (r : LaunchRef) (core : Nat) : State :=
  match s.launch? r.part r.tag with
  | none => s
  | some l =>
    if l.placed.contains core then s
    else (s.modifyCore core fun c => { c with icache := [] }).modifyLaunch r.part r.tag fun l => { l with placed := core :: l.placed }

/-- The root of the translations of the strand in turn (R304, R367). -/
def State.root (s : State) : Word :=
  match s.launch? s.me.launch.part s.me.launch.tag with
  | some l => l.root
  | none => 0#64

/-! ## Homes and their timestamps (R301, R302, R311 to R316) -/

/-- R302: the position in a list of slices that an HBM line hashes to. -/
def lineHash (line : Nat) : Nat :=
  (line % 2 ^ 16) ^^^ (line / 2 ^ 16 % 2 ^ 16) ^^^ (line / 2 ^ 32 % 2 ^ 11)

/-- R302: the L2 slice of a line of this package's HBM. -/
def State.sliceOf (s : State) (pa : Nat) : Nat :=
  match (List.finRange 16).find? (fun n => (s.part n).ownsChannel (pa / 2 ^ 32)) with
  | none => 0
  | some n =>
    let slices := (List.range 256).filter (s.part n).ownsSlice
    slices.getD (lineHash (pa / 128) % slices.length) 0

/-- The die of the slice that is the home of a physical address (R301, R302). -/
def State.sliceDie (s : State) (pa : Nat) : Nat := s.sliceOf pa / 64

/-- The die of a physical address's channel (R359). -/
def dieOfPa (pa : Nat) : Nat := pa / 2 ^ 32 / 64

/-- The table index of the timestamps of the word of a key: one for each 128-byte granule of uncached homes (R311), for
each line of the host coherence cache (R381), and for each word of HBM. (DEDUCED, log 79.) -/
def stampIdx (key : Nat) : Nat :=
  match storageOf key with
  | .core _ | .shared _ | .chip _ => key / 128 * 32
  | .host _ => key / 64 * 16
  | _ => key / 4

/-- R308 step 3: what a word that no access has touched since reads. -/
def State.floorAt (s : State) (key : Nat) : Nat :=
  match s.floors.find? (fun f => f.1 ≤ key && key < f.1 + f.2.1) with
  | some f => f.2.2
  | none => 0

/-- The timestamps of the word of a key. (DEDUCED, log 79.) -/
def State.stampAt (s : State) (key : Nat) : Stamps :=
  let e := Tab.get {} s.stamps (stampIdx key)
  if e = {} then ⟨s.floorAt key, s.floorAt key⟩ else e

/-- A step gives a timestamp. -/
def State.sawStamp (s : State) (t : Nat) : State := { s with latest := max s.latest t }

/-- R318: a timestamp of 0xF0_0000 or more asks for the Midnight pause. -/
def State.midnight (s : State) : Bool := 0xF00000 ≤ s.latest

def State.setStamp (s : State) (key : Nat) (x : Stamps) : State :=
  ({ s with stamps := Tab.put {} s.stamps (stampIdx key) x }).sawStamp (max x.wts x.rts)

/-- The keys of the words of an access. -/
def wordKeys (key n : Nat) : List Nat := (List.range ((key % 4 + n + 3) / 4)).map fun i => (key / 4 + i) * 4

/-- R365: the way mask of a virtual function; the table of the state stores it inverted, so that an unlisted one is 0xFFFF. -/
def wayMask (s : State) (vf : Nat) : Word := 0xFFFF#64 ^^^ Tab.get 0#64 s.wayMasks vf

/-- R316: the mask of the virtual function of a launch. -/
def State.launchMask (s : State) (part : Fin 16) (tag : BitVec 16) : BitVec 16 :=
  match s.launch? part tag with
  | some l => (wayMask s l.vf).setWidth 16
  | none => 0xFFFF#16

/-- R301: the set of a slice in which a line stands. (DESIGN CHOICE, log 94.) -/
def l2Set (slice line : Nat) : Nat := slice * 1024 + line % 1024

/-- R316: the way that a line takes in a set: a free one of the mask, or that of the least recently used line among its
ways, which is the last in the list. -/
def chooseWay (mask : BitVec 16) (set : List L2Line) : Nat × List L2Line :=
  match (List.range 16).find? fun w => mask.getLsbD w && set.all fun x => x.way != w with
  | some w => (w, set)
  | none =>
    match set.reverse.find? fun x => mask.getLsbD x.way with
    | some v => (v.way, set.erase v)
    | none => (0, set)

/-- R313: the largest rts among the words of a line. -/
def State.lineRts (s : State) (line : Nat) : Nat :=
  (List.range 32).foldl (fun m i => max m (s.stampAt (128 * line + 4 * i)).rts) 0

/-- R313: a line leaves its slice: the mark rises to its largest rts. -/
def State.leaveSlice (s : State) (slice line : Nat) : State :=
  { s with marks := Tab.put 0 s.marks slice (max (Tab.get 0 s.marks slice) (s.lineRts line)) }

/-- R313: a line enters its slice: its words take the mark. -/
def State.enterSlice (s : State) (slice line : Nat) : State :=
  let m := Tab.get 0 s.marks slice
  if m = 0 then s
  else (List.range 32).foldl (fun s i =>
    let k := 128 * line + 4 * i
    s.setStamp k ⟨max m (s.floorAt k), max m (s.floorAt k)⟩) s

/-- R301, R313, R316: an access of this package's HBM at its slice, which a line that is not there enters under a way mask. (DEDUCED, log 79.) -/
def State.touchUnder (s : State) (mask : BitVec 16) (key : Nat) : State :=
  match storageOf key with
  | .hbm pa =>
    let line := key / 128
    let slice := s.sliceOf pa
    let i := l2Set slice line
    let set := Tab.get [] s.l2 i
    match set.find? fun x => x.line == line with
    | some x => { s with l2 := Tab.put [] s.l2 i (x :: set.erase x) }
    | none =>
      let r := chooseWay mask set
      let gone := set.filter fun x => !r.2.contains x
      let s := gone.foldl (fun s x => s.leaveSlice slice x.line) s
      ({ s with l2 := Tab.put [] s.l2 i (⟨line, r.1⟩ :: r.2) } : State).enterSlice slice line
  | _ => s

/-- R316: an access of the strand in turn. -/
def State.touchLine (s : State) (key : Nat) : State := s.touchUnder (s.launchMask s.me.launch.part s.me.launch.tag) key

/-- R314: an engine write of a word: w ← max(w, r + 1), r ← w. The result is the new timestamp. -/
def State.stampUnder (s : State) (mask : BitVec 16) (key : Nat) : State × Nat :=
  let s := s.touchUnder mask key
  let x := s.stampAt key
  let w := max x.wts (x.rts + 1)
  (s.setStamp key ⟨w, w⟩, w)

/-- R314: an engine write, under the mask of the strand for which the engine works. -/
def State.engineStamp (s : State) (key : Nat) : State × Nat := s.stampUnder s.fillMask key

/-- R316: the engine access that follows allocates in all sixteen ways. (DESIGN CHOICE, log 94.) -/
def State.allWays (s : State) : State := { s with fillMask := 0xFFFF#16 }

/-- R198, R314: the stamps of a write of the hardware's own, of `n` bytes: it allocates in all sixteen ways (R316). -/
def State.hardwareStamp (s : State) (key n : Nat) : State :=
  (wordKeys key n).foldl (fun s k => (s.stampUnder 0xFFFF#16 k).1) s

/-! ## Lookahead windows (R49) -/

/-- Whether two late writes name the same register. -/
def LateWrite.same : LateWrite → LateWrite → Bool
  | .a m _, .a n _ => m == n
  | .d m _, .d n _ => m == n
  | .p m _, .p n _ => m == n
  | .v m _ _, .v n _ _ => m == n
  | _, _ => false

/-- Drops the late writes to a register: a younger write in the window stands (R49). -/
def dropLate (w : LateWrite) (ws : List Window) : List Window :=
  (ws.map fun x => { x with writes := x.writes.filter fun y => !w.same y }).filter fun x => !x.writes.isEmpty

/-- The writes of the windows that are closed at position `p`, in program order, and the windows that stay open; a write
of an older window that is still open is dropped where a closed one has written the register (R49). (DEDUCED, log 10.) -/
def closeAtPos (p : Nat) (ws : List Window) : List LateWrite × List Window :=
  let closed := ws.filter fun x => x.closeAt < p
  let still := ws.filter fun x => !(x.closeAt < p)
  let covered (x : Window) (y : LateWrite) : Bool :=
    closed.any fun c => x.at_ < c.at_ && c.writes.any fun z => z.same y
  (closed.flatMap (·.writes),
    (still.map fun x => { x with writes := x.writes.filter fun y => !covered x y }).filter fun x => !x.writes.isEmpty)

/-! ## Registers -/

/-- p0 to p15 as one word; bit 0 reads 1 (R69). -/
def Context.preds (c : Context) : BitVec 16 := c.exe.p ++ (c.acc.p ||| 1#8)
/-- A predicate; p0 reads 1 (R15). -/
def Context.pred (c : Context) (n : BitVec 4) : Bool := c.preds.getLsbD n.toNat

/-- Stores a value into a register at once, leaving windows alone. -/
def Context.put (c : Context) : LateWrite → Context
  | .a n v => { c with acc := { c.acc with a := c.acc.a.set n v } }
  | .d n v => { c with exe := { c.exe with d := c.exe.d.set n v } }
  | .p n b =>
    if n = 0#4 then c
    else if n.toNat < 8 then { c with acc := { c.acc with p := putBit c.acc.p n.toNat b } }
    else { c with exe := { c.exe with p := putBit c.exe.p (n.toNat - 8) b } }
  | .v n ls t => { c with vec := { c.vec with v := c.vec.v.set n.toNat ls, tag := c.vec.tag.set n.toNat t } }

/-- Drops the late writes to a register in every open window. -/
def Context.cancel (c : Context) (w : LateWrite) : Context :=
  { c with
    acc := { c.acc with windows := dropLate w c.acc.windows }
    exe := { c.exe with windows := dropLate w c.exe.windows }
    vec := { c.vec with windows := dropLate w c.vec.windows } }

/-- A register write seen by every younger instruction (R50). -/
def Context.write (c : Context) (w : LateWrite) : Context := (c.cancel w).put w

/-- A register write of an instruction with lookahead `la` at position `pos`: seen once its window has closed (R49). (DEDUCED, log 10.) -/
def Context.writeLate (c : Context) (pos la : Nat) (w : LateWrite) : Context :=
  if la = 0 then c.write w
  else
    let win : Window := ⟨pos, pos + la, [w]⟩
    match w with
    | .a .. => { c with acc := { c.acc with windows := c.acc.windows ++ [win] } }
    | .d .. => { c with exe := { c.exe with windows := c.exe.windows ++ [win] } }
    | .p n _ =>
      if n = 0#4 then c
      else if n.toNat < 8 then { c with acc := { c.acc with windows := c.acc.windows ++ [win] } }
      else { c with exe := { c.exe with windows := c.exe.windows ++ [win] } }
    | .v .. => { c with vec := { c.vec with windows := c.vec.windows ++ [win] } }

/-- Closes the windows of the access half that end before position `p`. -/
def Context.closeAccess (c : Context) (p : Nat) : Context :=
  let r := closeAtPos p c.acc.windows
  r.1.foldl Context.put { c with acc := { c.acc with
    windows := r.2, tileWindows := c.acc.tileWindows.filter fun x => p ≤ x.closeAt } }
/-- Closes the windows of the execute half that end before position `p`. -/
def Context.closeExecute (c : Context) (p : Nat) : Context :=
  let r := closeAtPos p c.exe.windows
  r.1.foldl Context.put { c with exe := { c.exe with windows := r.2 } }
/-- Closes the windows of vector loads that end before position `p`. -/
def Context.closeVector (c : Context) (p : Nat) : Context :=
  let r := closeAtPos p c.vec.windows
  r.1.foldl Context.put { c with vec := { c.vec with windows := r.2 } }
/-- Closes every window that ends before position `p`. -/
def Context.close (c : Context) (p : Nat) : Context := ((c.closeAccess p).closeExecute p).closeVector p
/-- Closes every window (R51). -/
def Context.closeAll (c : Context) : Context :=
  let latest (ws : List Window) : Nat := ws.foldl (fun n w => max n (w.closeAt + 1)) 0
  let tiles := c.acc.tileWindows.foldl (fun n w => max n (w.closeAt + 1)) 0
  c.close (max tiles (max (latest c.acc.windows) (max (latest c.exe.windows) (latest c.vec.windows))))
/-- Whether a window is open. -/
def Context.windowOpen (c : Context) : Bool :=
  !(c.acc.windows.isEmpty && c.acc.tileWindows.isEmpty && c.exe.windows.isEmpty && c.vec.windows.isEmpty)

/-! ## Queues (R16) -/

def Queues.empty (q : Queues) : Bool := q.lq.isEmpty && q.sq.isEmpty && q.bqa.isEmpty && q.bqe.isEmpty
/-- The first non-empty queue, in the order of R94. -/
def Queues.first (q : Queues) : Option QueueName :=
  if !q.lq.isEmpty then some .lq else if !q.sq.isEmpty then some .sq
  else if !q.bqa.isEmpty then some .bqa else if !q.bqe.isEmpty then some .bqe else none
/-- The numbers of R16. -/
def QueueName.code : QueueName → Word
  | .lq => 0#64
  | .sq => 1#64
  | .bqa => 2#64
  | .bqe => 3#64

/-- TQSTAT's layout of the counts (R100). -/
def Queues.stat (q : Queues) : Word :=
  BitVec.ofNat 64 (q.lq.length + 0x100 * q.sq.length + 0x10000 * q.bqa.length + 0x100000 * q.bqe.length)
/-- Eight outcomes, the oldest in bit 0. -/
def outcomeBits : List Bool → Nat
  | [] => 0
  | b :: bs => b.toNat + 2 * outcomeBits bs
/-- TQBITS's layout of the outcomes (R100). -/
def Queues.bits (q : Queues) : Word := BitVec.ofNat 64 (outcomeBits q.bqa + 0x100 * outcomeBits q.bqe)

/-! ## Taking a trap (R103 to R108) -/

/-- The trap causes (R106). -/
inductive Cause where
  | illegalInstruction
  | illegalCombination
  | tagMismatch
  | queueMisuse
  | misaligned
  | translationFault
  | protectionFault
  | privilegeFault
  | breakpoint
  | trapInstruction
  | regionOverflowUse
  | noVectorWidth
  | accumulatorNotClaimed
  | poisonConsumed
  | quiescentDeadlock
  | arrivalStall
  | engineError
  deriving DecidableEq, Repr

def Cause.code : Cause → Byte
  | .illegalInstruction => 0x01#8
  | .illegalCombination => 0x02#8
  | .tagMismatch => 0x03#8
  | .queueMisuse => 0x04#8
  | .misaligned => 0x05#8
  | .translationFault => 0x06#8
  | .protectionFault => 0x07#8
  | .privilegeFault => 0x08#8
  | .breakpoint => 0x09#8
  | .trapInstruction => 0x0A#8
  | .regionOverflowUse => 0x0B#8
  | .noVectorWidth => 0x0C#8
  | .accumulatorNotClaimed => 0x0D#8
  | .poisonConsumed => 0x0E#8
  | .quiescentDeadlock => 0x10#8
  | .arrivalStall => 0x11#8
  | .engineError => 0x12#8

/-- A trap that an instruction raises: the cause and what TRAPVAL receives (R106). -/
structure Trap where
  cause : Cause
  val : Word
  deriving DecidableEq, Repr

/-- R98: HALF as TRAPCAUSE names it. -/
def halfCode : Side → BitVec 2
  | .access => 0#2
  | .execute => 1#2
  | .both => 2#2

/-- R98, R448: what TRAPCAUSE receives. -/
def trapCause (c : Cause) (i : Issue) : Word :=
  0#37 ++ BitVec.ofNat 14 i.ntab ++ BitVec.ofNat 2 i.nlit ++ BitVec.ofBool i.long ++ halfCode i.half ++ c.code

/-- The half that is ahead brought back to an instruction that is still to be done: the half that lags stands there. (DEDUCED, log 7.) -/
def Strand.backTo (m : Strand) (d : Deferred) : Context :=
  match d.lag with
  | .access => { d.snap with acc := m.ctx.acc }
  | _ => { d.snap with exe := m.ctx.exe, sys := m.ctx.sys }

/-- R103: brings the half that has run ahead back to the instruction at which the trap is taken, and closes every window
of older instructions (R51). -/
def Strand.precise (m : Strand) : Context :=
  match m.undo with
  | none => m.ctx.closeAll
  | some d => (m.backTo d).closeAll

/-- Both halves stand at the oldest instruction that is still to be done; whatever is younger has had no effect (R104). (DEDUCED, log 7.) -/
def Strand.regroup (m : Strand) : Strand :=
  match m.deferred with
  | [] => m
  | d :: _ =>
    { m with ctx := m.backTo d, pc := d.issue.addr, pos := d.issue.pos, issue := d.issue, deferred := [], undo := none }

/-- The first sixteen entries of a queue, as the save area holds them. -/
def saved (q : List Word) : Vector Word 16 := Vector.ofFn fun i => q.getD i.val 0#64

/-- R105 steps 2 to 4: the save area, TSAVE, SUP and the trap registers. -/
def enterSys (c : Context) (t : Trap) (i : Issue) (ret : Word) : SysRegs :=
  { c.sys with
    tqstat := c.queues.stat
    tqbits := c.queues.bits
    tqlq := saved c.queues.lq
    tqsq := saved c.queues.sq
    tsave := c.sys.status
    status := putBit c.sys.status supBit true
    trappc := ret
    trapcause := trapCause t.cause i
    trapval := t.val }

/-- R105: trap entry in user mode. `ret` is what TRAPPC receives. A trap that waits for a wait (R109) is found there again. -/
def State.enterTrap (s : State) (t : Trap) (ret : Word) : State :=
  let c := s.me.precise
  { s with me := { s.me with
      ctx := { c with sys := enterSys c t s.me.issue ret, queues := {} }
      pc := s.myPart.trapvec
      deferred := []
      undo := none
      frame := .running
      wait := none
      fencePast := false
      regionMet := false
      stay := false
      pendingTrap := none
      heldLag := none
      heldLead := false
      note := .trapped } }

/-! ## The fault record (R196 to R198) -/

/-- The value of a 32-bit counter after one more event, saturating (R196, R198). -/
def counterSucc (v : Nat) : Nat := if v = 0xFFFFFFFF then v else v + 1

/-- R198: a 32-bit counter of a record rises by one, as one step at its home. -/
def State.bump32 (s : State) (a : Nat) : State :=
  ({ s with mem := s.mem.write a 4 (counterSucc (s.mem.read a 4)) } : State).hardwareStamp a 4

/-- R198: a store of the hardware into a record. -/
def State.recordStore (s : State) (a n v : Nat) : State :=
  ({ s with mem := s.mem.write a n v } : State).hardwareStamp a n

/-- The address of a core's fault record, if its partition has one. -/
def State.faultRecord (s : State) (core : Nat) : Option Nat :=
  (s.ownerOfCluster (clusterOfCore core)).bind fun n =>
    let b := (s.part n).frbase (dieOfCore core)
    if b = 0 then none else some (b + 256 * (core % 384))

/-- Counts an event in a core's fault record. -/
def State.count (s : State) (core off : Nat) : State :=
  match s.faultRecord core with
  | none => s
  | some a => s.bump32 (a + off)

/-- The offsets of the counters of R196. -/
def ceSpad : Nat := 0x08
def ceCache : Nat := 0x0C
def ueSpad : Nat := 0x10
def ueCache : Nat := 0x14
def poisonLoad : Nat := 0x18
def poisonTrapCount : Nat := 0x1C
def poisonPart : Nat := 0x20
def migCrc : Nat := 0x24
def restoreCrc : Nat := 0x28
def msgDrop : Nat := 0x2C
def stoppedCount : Nat := 0x30
def scrubCount : Nat := 0x34

/-- The address of a partition's die record (R321), if it has one. -/
def State.dieRecord (s : State) (n : Fin 16) (die : Nat) : Option Nat :=
  let b := (s.part n).frbase die
  if b = 0 then none else some (b + 0x18000)
/-- Counts an event in a die record. -/
def State.countDie (s : State) (n : Fin 16) (die off : Nat) : State :=
  match s.dieRecord n die with
  | none => s
  | some a => s.bump32 (a + off)

/-- R197, R198: the log entry of a strand that becomes Stopped: its four stores precede the increment of SEQ. -/
def State.logStop (s : State) (core : Nat) (sid : StrandId) (cause : Nat) (val pc : Word) : State :=
  match s.faultRecord core with
  | none => s
  | some a =>
    let seq := s.mem.read (a + 4) 4
    let e := a + 0x80 + 32 * (seq % 4)
    ((((s.recordStore e 8 (sid.toNat + 2 ^ 32 * cause)).recordStore (e + 8) 8 val.toNat).recordStore (e + 16) 8
      pc.toNat).recordStore (e + 24) 8 s.tick).recordStore (a + 4) 4 (seq + 1)

/-- R108, R171, R193: the strand with an id leaves the rotation for good, the stop is recorded, the partition is notified
and the kill of its launch begins with STATUS 1. -/
def State.stopStrand (s : State) (sid : StrandId) (cause : Nat) (val pc : Word) : State :=
  match s.strand? sid with
  | none => s
  | some m =>
    let s := (s.logStop m.core sid cause val pc).count m.core stoppedCount
    let s := s.modifyPart m.launch.part fun p => { p with notified := p.notified + 1 }
    let s := s.modifyLaunch m.launch.part m.launch.tag fun l =>
      { l with
        status := if l.status = 0 then 1 else l.status
        failing := if l.failing = 0xFFFF#16 then BitVec.ofNat 16 m.launch.node else l.failing
        firstStopped := if l.stoppedCount = 0 then sid else l.firstStopped
        stoppedCount := l.stoppedCount + 1
        kill := if l.kill = .none then .requested else l.kill }
    s.modify sid fun m => { m with frame := .stopped, wait := none }

/-- Raises a trap at the instruction now issuing: trap entry (R105), or the stop of R108 in supervisor mode. `ret` is
what TRAPPC receives. -/
def State.trapAt (s0 : State) (t : Trap) (ret : Word) : State :=
  let s := if t.cause = .poisonConsumed then s0.count s0.me.core poisonTrapCount else s0
  if s.me.sup then
    ({ s with me := { s.me with note := .trapped, pc := s.me.issue.addr } } : State).stopStrand s.me.sid
      t.cause.code.toNat t.val ret
  else s.enterTrap t ret

/-- Raises a trap whose TRAPPC is the address of the instruction. -/
def State.trap (s : State) (t : Trap) : State := s.trapAt t s.me.issue.addr

/-- A trap with the instruction word in TRAPVAL (R106). -/
def State.wordTrap (s : State) (c : Cause) : Trap := ⟨c, s.me.issue.word.setWidth 64⟩

end Sys2Proof.Machine
end

