-- ==== Sys2Proof/Machine/Translate.lean ====
section
/-! DEFINITION. Where an address leads: the windows of R5 and R6, the page walk (R304 to R308) and the checks of R114 and R446. -/

namespace Sys2Proof.Machine

/-! ## Leaves and walks -/

def leafCls (l : Word) : Nat := (l.extractLsb' 62 2).toNat
def leafOwner (l : Word) : Nat := (l.extractLsb' 51 11).toNat
def leafPa (l : Word) : Nat := (l.extractLsb' 16 34).toNat * 0x10000
def leafPkg (l : Word) : Nat := (l.extractLsb' 6 10).toNat
def leafFab (l : Word) : Bool := l.getLsbD 5
def leafHost (l : Word) : Bool := l.getLsbD 4
def leafX (l : Word) : Bool := l.getLsbD 3
def leafW (l : Word) : Bool := l.getLsbD 2
def leafR (l : Word) : Bool := l.getLsbD 1

/-- R304: the size of the page that a leaf of a level maps. -/
def pageSize (level : Nat) : Nat := if level = 1 then 0x40000000 else if level = 2 then 0x200000 else 0x10000
/-- R304: the index of an address into a table of a level. -/
def tableIndex (va level : Nat) : Nat := if level = 3 then va / 0x10000 % 32 else va / 2 ^ (39 - 9 * level) % 512

/-- R304, R305: whether an entry of a level with any of R, W or X set is a leaf that a walk accepts. -/
def leafOk (l : Word) (level : Nat) : Bool :=
  level != 0 && leafCls l != 3 && leafPa l % pageSize level == 0 && !(leafHost l && leafFab l) &&
    (!(leafHost l || leafFab l) || leafCls l == 2)

/-- R360: whether a partition owns the channel of a physical address, and the address lies in its used part. -/
def Partition.ownsPa (p : Partition) (pa : Nat) : Bool :=
  pa / 2 ^ 32 < 256 && pa % 2 ^ 32 ≤ 1499999999 && p.ownsChannel (pa / 2 ^ 32)

/-- R304: the walk from a table of a level, with `n` levels left: the leaf, where it stands and its level. A table outside the
partition's channels, which no engine of the partition reaches (R361), gives no translation. (DEDUCED, log 37.) -/
def walkFrom (p : Partition) (m : Mem) (va : Nat) : Nat → Nat → Nat → Option (Word × Nat × Nat)
  | 0, _, _ => none
  | n + 1, level, table =>
    let at_ := hbmKey (table + 8 * tableIndex va level)
    let e := BitVec.ofNat 64 (m.read at_ 8)
    if !e.getLsbD 0 || !p.ownsPa (table + 8 * tableIndex va level) then none
    else if e.extractLsb' 1 3 = 0#3 then
      if level = 3 ∨ e.extractLsb' 1 11 ≠ 0#11 then none
      else walkFrom p m va n (level + 1) ((e.extractLsb' 12 38).toNat * 4096)
    else if leafOk e level then some (e, at_, level) else none

/-- R304: the four-level walk from a root. -/
def walk (p : Partition) (m : Mem) (root : Word) (va : Nat) : Option TlbEntry :=
  match walkFrom p m va 4 0 root.toNat with
  | none => none
  | some (l, at_, level) => some ⟨root, va - va % pageSize level, pageSize level, l, at_⟩

def TlbEntry.covers (e : TlbEntry) (root : Word) (va : Nat) : Bool := e.root == root && e.base ≤ va && va < e.base + e.size

/-- R306: the buffered translation of an address, from the core's buffer or its cluster's. (DESIGN CHOICE, log 77.) -/
def State.buffered (s : State) (core : Nat) (root : Word) (va : Nat) : Option TlbEntry :=
  match (s.core core).tlb.find? (·.covers root va) with
  | some e => some e
  | none => (Tab.get [] s.clusterTlb (clusterOfCore core)).find? (·.covers root va)

/-! ## Places -/

/-- What an access needs of its page (R446, R447). -/
structure Need where
  r : Bool := false
  w : Bool := false
  x : Bool := false
  deriving DecidableEq, Repr

def needR : Need := { r := true }
def needW : Need := { w := true }
def needRW : Need := { r := true, w := true }
def needX : Need := { x := true }

/-- Where an access goes: the key of its first byte, and its page if it is translated. -/
structure Place where
  key : Nat
  page : Option TlbEntry := none
  /-- Whether the page was found by a walk, whose effects on the leaf are still to be made (R305 to R307). -/
  walked : Bool := false
  deriving DecidableEq, Repr

/-- The two ways a lookup fails (R114 steps 3 and 4). -/
inductive NoPlace where
  | translation
  | protection
  deriving DecidableEq, Repr

/-- R4: bits [63:47] all equal. -/
def canonical (va : Word) : Bool := va.extractLsb' 47 17 == 0#17 || va.extractLsb' 47 17 == BitVec.allOnes 17

/-- The first address of the on-chip range of R6 and the first beyond it. -/
def onChipLo : Nat := 0x7F0000000000
def onChipHi : Nat := 0x800000000000

/-- R354: whether an address lies in a speed-table mirror of the partition, which strands do not store to. -/
def Partition.inMirror (p : Partition) (va : Nat) : Bool :=
  (List.range 4).any fun d =>
    let b := p.frbase d
    b != 0 && b + 0x18080 ≤ va && va < b + 0x18080 + 16 * 384

/-- R5, R6: an address of the on-chip range, seen by a strand of a core and partition. -/
def windowPlace (p : Partition) (core va : Nat) (need : Need) : Except NoPlace Place :=
  if va < coreWindow + 1536 * 0x40000 then
    let c := (va - coreWindow) / 0x40000
    if p.ownsCluster (clusterOfCore c) then .ok { key := va } else .error .protection
  else if sharedWindow ≤ va ∧ va < sharedWindow + 192 * 0x200000 then
    if p.ownsCluster ((va - sharedWindow) / 0x200000) then .ok { key := va } else .error .protection
  else if chipWindow ≤ va ∧ va < chipWindow + 4 * 0x4000000 then
    if !p.ownsRange ((va - chipWindow) / 0x100000) then .error .protection
    else if need.w && p.inMirror va then .error .protection
    else .ok { key := va }
  else if aliasWindow ≤ va ∧ va < aliasWindow + 0x40000 then .ok { key := coreWindow + core * 0x40000 + (va - aliasWindow) }
  else .error .translation

/-- The key of a byte of a page (R305). -/
def pageKey (e : TlbEntry) (va : Nat) : Nat :=
  let pa := leafPa e.leaf + (va - e.base)
  if leafHost e.leaf then hostKey pa else if leafFab e.leaf then remoteKey (leafPkg e.leaf) pa else hbmKey pa

/-- R446, R186, R360: whether a page's permissions and its owner allow an access. A strand's writes to an executable
page are refused. -/
def pageAllows (p : Partition) (e : TlbEntry) (va : Nat) (need : Need) : Bool :=
  (!need.r || leafR e.leaf) && (!need.w || (leafW e.leaf && !leafX e.leaf)) && (!need.x || leafX e.leaf) &&
    (leafHost e.leaf || leafFab e.leaf || p.ownsPa (leafPa e.leaf + (va - e.base)))

/-- The place of an address under a root, for a strand or engine of a core and partition (R6, R114 steps 3 and 4). -/
def State.locate (s : State) (part : Fin 16) (core : Nat) (root : Word) (va : Nat) (need : Need) : Except NoPlace Place :=
  if onChipLo ≤ va ∧ va < onChipHi then
    if need.x then
      match windowPlace (s.part part) core va need with
      | .error .translation => .error .translation
      | _ => .error .protection
    else windowPlace (s.part part) core va need
  else
    let found := s.buffered core root va
    match (match found with | some e => some e | none => walk (s.part part) s.mem root va) with
    | none => .error .translation
    | some e =>
      if pageAllows (s.part part) e va need then .ok { key := pageKey e va, page := some e, walked := found.isNone }
      else .error .protection

/-- R114: the checks of a scalar access, in order. -/
def State.check (s : State) (va : Word) (size : Nat) (need : Need) : Except Trap Place :=
  if !canonical va then .error ⟨.translationFault, va⟩
  else if va.toNat % size ≠ 0 then .error ⟨.misaligned, va⟩
  else
    match s.locate s.me.launch.part s.me.core s.root va.toNat need with
    | .error .translation => .error ⟨.translationFault, va⟩
    | .error .protection => .error ⟨.protectionFault, va⟩
    | .ok p => .ok p

/-- R447: the checks of a fetch, in order. -/
def State.checkFetch (s : State) (va : Word) : Except Trap Place :=
  if !canonical va then .error ⟨.translationFault, va⟩
  else
    match s.locate s.me.launch.part s.me.core s.root va.toNat needX with
    | .error .translation => .error ⟨.translationFault, va⟩
    | .error .protection => .error ⟨.protectionFault, va⟩
    | .ok p => .ok p

/-! ## Homes -/

/-- R110: the core that a word is homed on, if one is. -/
def homeCore (key : Nat) : Option Nat :=
  match storageOf key with
  | .core c => some c
  | .shared k => some (k * 8 + (key - sharedWindow) % 0x200000 / 0x40000)
  | _ => none

/-- Whether a home is one that no L1 caches (R311). -/
def uncached (key : Nat) : Bool :=
  match storageOf key with
  | .core _ | .shared _ | .chip _ => true
  | _ => false

end Sys2Proof.Machine
end

