-- ==== Sys2Proof/Machine/Recorder.lean ====
section
/-! DEFINITION. What the recorders of the cores see of loads and stores: notes, pushes and departures (R322 to R330). -/

namespace Sys2Proof.Machine

/-- R332: whether a program counter lies inside the loop of a loop word. -/
def inLoop (loop pc : Word) : Bool :=
  decide ((pc - (loop.extractLsb' 0 48).signExtend 64).toNat < 2 * (loop.extractLsb' 48 16).toNat)

/-- Saturation of the recorder's counters (R334). -/
def sat32 (n : Nat) : Nat := min n 0xFFFFFFFF

/-- Whether a core's recorder is in a state for a launch. -/
def State.recording (s : State) (core : Nat) (l : LaunchRef) (st : RecState) : Bool :=
  (s.core core).recorder.state == st && (s.core core).recorder.serves == some l

def State.modifyRecorder (s : State) (core : Nat) (f : Recorder → Recorder) : State :=
  s.modifyCore core fun k => { k with recorder := f k.recorder }

/-- R330: the recorder stops once its departures exceed THRESH. -/
def stopPast (thresh : Nat) (r : Recorder) : Recorder :=
  if thresh < r.depMiss + r.depStore + r.depEvict then { r with state := .stopped, auto := true } else r

/-- A departure counted at a core (R329). -/
def State.depart (s : State) (core : Nat) (f : Recorder → Recorder) : State :=
  s.modifyRecorder core fun r => stopPast ((s.core core).recctl.extractLsb' 16 16).toNat (f r)

/-- R324: adds a note with a key to a recorder's table. -/
def addNote (e : RecEntry) (r : Recorder) : Recorder :=
  let same (x : RecEntry) : Bool :=
    x.pc == e.pc && x.line == e.line && x.first == e.first && x.len == e.len && x.cons == e.cons
  let r := { r with notes := sat32 (r.notes + 1) }
  if r.entries.any same then
    { r with entries := r.entries.map fun x => if same x then { x with count := min 255 (x.count + 1) } else x }
  else if r.entries.length < 256 then { r with entries := r.entries ++ [{ e with count := 1 }] }
  else { r with noteOvf := sat32 (r.noteOvf + 1) }

/-- The last writer of a word, if a recorder saw it. -/
def State.writer (s : State) (word : Nat) : Option Writer := Tab.get none s.writers word

/-- Whether a write was made in the pass that its core's recorder makes now, for the launch that it serves. -/
def State.inPass (s : State) (x : Writer) (st : RecState) : Bool :=
  x.pass == st && s.recording x.core x.launch st && (s.core x.core).recorder.epoch == x.epoch

/-- R324: groups consecutive words by producer and program counter, from word `w` on: first word, length, writer. -/
def writerRuns (f : Nat → Option Writer) : Nat → Nat → List (Nat × Nat × Writer)
  | 0, _ => []
  | n + 1, w =>
    let rest := writerRuns f n (w + 1)
    match f w with
    | none => rest
    | some x =>
      match rest with
      | (w', k, y) :: more => if w' = w + 1 ∧ y = x then (w, k + 1, x) :: more else (w, 1, x) :: rest
      | [] => [(w, 1, x)]

/-- The line number of an HBM key (R302). -/
def hbmLine (key : Nat) : Nat := (key - 2 ^ 50) / 128

/-- R324, R329: a load of the strand in turn misses, requesting a span of `len` words from `key`. -/
def State.noteMiss (s : State) (key len : Nat) (words : List Nat) : State :=
  let m := s.me
  let c := m.core
  let rec_ := (s.core c).recorder
  if !inLoop rec_.loop m.issue.addr then s
  else if s.recording c m.launch .dawn then
    let f (w : Nat) : Option Writer :=
      match s.writer w with
      | some x => if x.core ≠ c ∧ x.launch = m.launch ∧ x.inLoop ∧ s.inPass x .dawn then some x else none
      | none => none
    (writerRuns f len (key / 4)).foldl (fun s r =>
      s.modifyRecorder r.2.2.core (addNote ⟨r.2.2.pc, hbmLine key, r.1 % 32, r.2.1, c, 1⟩)) s
  else if s.recording c m.launch .daylight then
    let strays (w : Nat) : Bool :=
      match s.writer w with
      | some x =>
        x.core != c && x.launch == m.launch && s.inPass x .daylight &&
          !((s.core x.core).recorder.entries.any fun e =>
            e.cons == c && e.line == hbmLine key && e.first ≤ w % 32 && w % 32 < e.first + e.len)
      | none => false
    if words.any strays then s.depart c fun r => { r with depMiss := sat32 (r.depMiss + 1) } else s
  else s

/-- Whether pushed words hold one of `n` bytes from a key of their line. -/
def PushedWords.meets (x : PushedWords) (key n : Nat) : Bool :=
  4 * x.first < key % 128 + n && key % 128 < 4 * (x.first + x.len)

/-- R329: a load of the strand in turn hits a span of which pushes delivered words. -/
def State.noteHit (s : State) (key n : Nat) : State :=
  let c := s.me.core
  let fresh (x : PushedWords) : Bool := !x.used && x.meets key n
  match (s.core c).spans.find? (fun x => x.line == key / 128) with
  | none => s
  | some x =>
    let k := (x.pushed.filter fresh).length
    if k = 0 then s
    else
      s.modifyCore c fun r =>
        { r with
          spans := r.spans.map fun y =>
            if y.line = key / 128 then
              { y with pushed := y.pushed.map fun p => if fresh p then { p with used := true } else p }
            else y
          recorder := { r.recorder with pushUsed := sat32 (r.recorder.pushUsed + k) } }

/-- R329: pushed words that leave an L1, replaced before any load has hit them. -/
def State.evictPushed (s : State) (core : Nat) (gone : Span → Bool) : State :=
  let lost := ((s.core core).spans.filter gone).flatMap fun x => x.pushed.filter fun p => !p.used
  lost.foldl (fun s _ =>
    if (s.core core).recorder.state = .daylight then s.depart core fun r => { r with depEvict := sat32 (r.depEvict + 1) }
    else s) s

/-! ## The L1 (R184, R312) -/

/-- The set of an L1 in which a line stands: 64 sets of 8 ways. (DESIGN CHOICE, log 94.) -/
def l1Set (line : Nat) : Nat := line % 64

/-- R184, R312: a span enters an L1 in the place of that of its line, if one is held; in a full set it replaces any other. (DESIGN CHOICE, log 94.) -/
def State.installSpan (s : State) (core : Nat) (x : Span) : State :=
  let others := (s.core core).spans.filter fun y => y.line != x.line
  let set := others.filter fun y => l1Set y.line == l1Set x.line
  if set.length < 8 then s.modifyCore core fun k => { k with spans := x :: others }
  else
    let d := s.draw
    let v := set.getD (d.1 % set.length) x
    (d.2.evictPushed core fun y => y == v).modifyCore core fun k => { k with spans := x :: others.filter fun y => y != v }

/-- R326, R327: a recorded span is pushed: its words and their lease as the home then gives them. -/
def State.push (s : State) (p : Nat) (l : LaunchRef) (lease : Nat) (line : Nat) (e : RecEntry) : State :=
  let ks := (List.range e.len).map fun i => 128 * line + 4 * (e.first + i)
  let t := ks.foldl (fun t k => max t (s.stampAt k).wts) 0
  let rts := ks.foldl (fun x k => max x (max (s.stampAt k).rts ((s.stampAt k).wts + lease))) 0
  let span : Span :=
    { line := line, first := e.first, words := ks.map fun k => BitVec.ofNat 32 (s.mem.read k 4), wts := t, rts := rts
      homes := ks.map fun k => (s.stampAt k).wts, pushed := [⟨e.first, e.len, false⟩] }
  let s := s.modifyRecorder p fun r => { r with pushes := sat32 (r.pushes + 1) }
  let s := ks.foldl (fun s k => s.setStamp k ⟨(s.stampAt k).wts, rts⟩) s
  { s with pushes := s.pushes ++ [⟨p, e.cons, l, span⟩] }

/-- R324, R326, R329: the strand in turn has written words of a shared HBM page. -/
def State.noteStore (s : State) (key n : Nat) (lease : Nat) : State :=
  let m := s.me
  let p := m.core
  let r := (s.core p).recorder
  let words := (List.range ((key % 4 + n + 3) / 4)).map fun i => key / 4 + i
  let served := r.serves = some m.launch ∧ (r.state = .dawn ∨ r.state = .daylight)
  let pc := m.issue.addr.extractLsb' 0 48
  let who : Option Writer :=
    if served then some ⟨p, m.launch, pc, r.state, r.epoch, inLoop r.loop m.issue.addr⟩ else none
  let s := { s with writers := words.foldl (fun t w => Tab.put none t w who) s.writers }
  if s.recording p m.launch .daylight then
    let line := hbmLine key
    let mine (e : RecEntry) (w : Nat) : Bool :=
      e.pc == pc && e.line == line && e.first ≤ w % 32 && w % 32 < e.first + e.len
    let s :=
      if inLoop r.loop m.issue.addr && words.any (fun w => !(r.entries.any fun e => mine e w)) then
        s.depart p fun r => { r with depStore := sat32 (r.depStore + 1) }
      else s
    let ext := ((s.core p).recctl.extractLsb' 8 8).toNat
    let fired := r.entries.filter fun e =>
      e.pc == pc && e.line == line && words.any fun w => w % 32 == e.first + e.len - 1
    fired.foldl (fun s e => s.push p m.launch (lease + ext) (key / 128) e) s
  else s

end Sys2Proof.Machine
end

