-- ==== Sys2Proof/Machine/Coherence.lean ====
section
/-! DEFINITION. Timestamps, leases and the L1 (R309 to R315), page classes (R307, R308), poison (R125), and what a load and a store do at their homes. -/

namespace Sys2Proof.Machine

/-! ## The strand's own timestamp -/

/-- Raises the timestamp of the strand in turn. -/
def State.raiseTs (s : State) (t : Nat) : State :=
  ({ s with me := { s.me with ts := max s.me.ts t } }).sawStamp (max s.me.ts t)

/-- R315: counts a load that hit in the L1; the 256th in a row that does not raise `ts` raises it by one. -/
def State.countHit (s : State) (raised : Bool) : State :=
  if raised then { s with me := { s.me with hits := 0 } }
  else if 255 ≤ s.me.hits then ({ s with me := { s.me with hits := 0 } }).raiseTs (s.me.ts + 1)
  else { s with me := { s.me with hits := s.me.hits + 1 } }

/-- LEASE of the partition of the strand in turn (R311). -/
def State.lease (s : State) : Nat := s.myPart.lease

/-! ## Page classes (R307, R308) -/

/-- Buffers a translation in a core's buffer, and a shared one in its cluster's (R306). (DESIGN CHOICE, log 77.) -/
def State.buffer (s : State) (core : Nat) (e : TlbEntry) : State :=
  let s := s.modifyCore core fun k => { k with tlb := (e :: k.tlb).take 64 }
  if leafCls e.leaf = 1 then s
  else
    let old := Tab.get [] s.clusterTlb (clusterOfCore core)
    { s with clusterTlb := Tab.put [] s.clusterTlb (clusterOfCore core) ((e :: old).take 2048) }

/-- An entry with its CLS, OWNER and A set. -/
def leafWith (l : Word) (cls owner : Nat) : Word := BitVec.ofNat 2 cls ++ BitVec.ofNat 11 owner ++ 1#1 ++ l.extractLsb' 0 50

/-- R306, R314: the walker writes CLS, OWNER and A of an entry by a compare-and-swap at its home, an engine write: no full/empty
bit changes. Where the entry is no longer what the walker holds, the swap fails, is counted (R321) and is retried with the
entry as found, if that is still a leaf. -/
def State.writeLeaf (s : State) (part : Fin 16) (die : Nat) (e : TlbEntry) (cls owner : Nat) : State × TlbEntry :=
  let found : Word := BitVec.ofNat 64 (s.mem.read e.entry 8)
  let s := if found = e.leaf then s else s.countDie part die 0x1C
  if found = e.leaf ∨ (found.getLsbD 0 && found.extractLsb' 1 3 != 0#3) then
    let l := leafWith found cls owner
    (({ s with mem := s.mem.write e.entry 8 l.toNat } : State).hardwareStamp e.entry 8, { e with leaf := l })
  else (s, { e with leaf := leafWith e.leaf cls owner })

/-- R308: the page of an entry becomes shared. `key` is the key of its first byte. -/
def State.reclassify (s : State) (part : Fin 16) (die : Nat) (e : TlbEntry) (key : Nat) : State × TlbEntry :=
  let o := leafOwner e.leaf
  let clock := (s.core o).pclk
  let inPage (k : Nat) : Bool := key ≤ k && k < key + e.size
  let s := s.modifyCore o fun k =>
    { k with
      spans := k.spans.filter fun x => !inPage (x.line * 128)
      tlb := k.tlb.filter fun t => !(t.root == e.root && t.base == e.base) }
  let s := { s with
    stamps := s.stamps.map fun (x : Nat × Stamps) => if inPage (x.1 * 4) then (x.1, ⟨max x.2.rts clock, max x.2.rts clock⟩) else x
    floors := if clock = 0 then s.floors else (key, e.size, max clock (s.floorAt key)) :: s.floors }
  let s := if clock = 0 then s else s.sawStamp clock
  let r := s.writeLeaf part die e 2 0
  (match s.ownerOfCluster (clusterOfCore o) with
    | some n => r.1.countDie n (s.sliceDie (leafPa e.leaf)) 0x08
    | none => r.1, r.2)

/-- The effects on its leaf of an access that needs it (R304 to R307): the walk is counted, A is set, an unclaimed page is
claimed by the core, and a page private to another core, or met by an engine, becomes shared. The second result says
whether the access is private (R310). (DEDUCED, log 37.) -/
def State.usePage (s : State) (part : Fin 16) (core : Nat) (engine : Bool) (p : Place) : State × Bool :=
  match p.page with
  | none => (s, false)
  | some e =>
    if !p.walked then
      if engine && leafCls e.leaf == 1 then
        let r := s.reclassify part (dieOfCore core) e (hbmKey (leafPa e.leaf))
        (r.1.buffer core r.2, false)
      else (s, leafCls e.leaf == 1)
    else
      let s := s.countDie part (dieOfCore core) 0x18
      let cls := leafCls e.leaf
      if cls = 2 ∨ leafHost e.leaf ∨ leafFab e.leaf then
        let r := s.writeLeaf part (dieOfCore core) e cls (leafOwner e.leaf)
        (r.1.buffer core r.2, false)
      else if cls = 0 then
        if engine then ((s.writeLeaf part (dieOfCore core) e 0 0).1, false)
        else
          let r := s.writeLeaf part (dieOfCore core) e 1 core
          (r.1.buffer core r.2, true)
      else if leafOwner e.leaf = core ∧ !engine then
        let r := s.writeLeaf part (dieOfCore core) e 1 core
        (r.1.buffer core r.2, true)
      else
        let r := s.reclassify part (dieOfCore core) e (hbmKey (leafPa e.leaf))
        (r.1.buffer core r.2, false)

/-! ## Poison (R125) -/

/-- The poisoned words among the words of an access, as offsets in words from the first. (DESIGN CHOICE, log 83.) -/
def State.poisonedWords (s : State) (key n : Nat) : List Nat :=
  (List.range ((key % 4 + n + 3) / 4)).filter fun i => s.mem.poisoned ((key / 4 + i) * 4)

/-- R125, R195: under the trap policy a load that reads poison traps at the lowest poisoned word. -/
def State.poisonTrap (s : State) (va : Word) (key n : Nat) : Option Trap :=
  match s.poisonedWords key n with
  | [] => none
  | i :: _ =>
    if s.myPart.poisonTrap then some ⟨.poisonConsumed, (va &&& ~~~3#64) + BitVec.ofNat 64 (4 * i)⟩ else none

/-- R101, R196: counts poisoned words that a load received as zero. -/
def State.countPoison (s : State) (k : Nat) : State :=
  if k = 0 then s
  else
    let c := s.me.ctx
    let s := s.setCtx { c with acc := { c.acc with
      poisonCnt := BitVec.ofNat 32 (min 0xFFFFFFFF (c.acc.poisonCnt.toNat + k)) } }
    (List.range k).foldl (fun s _ => s.count s.me.core poisonLoad) s

/-- The bytes of an access with poisoned words read as zero, as a number. (DESIGN CHOICE, log 83.) -/
def State.readZeroed (s : State) (key : Nat) : Nat → Nat
  | 0 => 0
  | n + 1 => (if s.mem.poisoned key then 0 else (s.mem.byte key).toNat) + 256 * State.readZeroed s (key + 1) n

/-- Mem's part of a store: its bytes, the end of poison, and the zeroes that a partial store puts beside its bytes in a
poisoned word (R125). -/
def storeMem (m : Mem) (key n v : Nat) : Mem :=
  let bad := (wordKeys key n).filter m.poisoned
  let m := if n < 4 then bad.foldl (fun m k => m.write k 4 0) m else m
  let m := bad.foldl (fun m k => m.setPoison k false) m
  m.write key n v

/-! ## The host coherence cache (R381) -/

/-- The bytes of a host line as memory holds them. (DESIGN CHOICE, log 19.) -/
def hostLineBytes (m : Mem) (line : Nat) : List Byte := m.readBytes (line * 64) 64

/-- The 64 bytes that the n-th choice stands for. (DESIGN CHOICE, log 19.) -/
def drawnLine (n : Nat) : List Byte := (List.range 64).map fun i => BitVec.ofNat 8 (Config.choice n / 256 ^ i)

/-- A line leaves the host cache (R380, R382): no L1 keeps a span of it, and filled again it takes its rts. -/
def State.hostDrop (s : State) (line : Nat) : State :=
  let r := (s.stampAt (line * 64)).rts
  let gone (x : Span) : Bool := x.line == line / 2 && x.first / 16 == line % 2
  { s with
    stamps := Tab.put {} s.stamps (stampIdx (line * 64)) ⟨r, r⟩
    hostCache := Tab.put {} s.hostCache line {}
    cores := (s.cores.map fun (c : Nat × CoreState) =>
      (c.1, { c.2 with spans := c.2.spans.filter fun x => !gone x })).filter fun c => c.2 != {} }

/-- R381: the sets and ways of the host cache: 8 MiB of 64-byte lines. -/
def hostSets : Nat := 8192
def hostWays : Nat := 16

/-- The lines that stand in the set of a line. Which set a line has the spec does not say. (DESIGN CHOICE, log 19.) -/
def State.hostSet (s : State) (line : Nat) : List Nat := (s.hostCache.map (·.1)).filter fun l => l % hostSets = line % hostSets

/-- A line that enters the host cache, in a full set in the place of any other of the set: it brings what host memory holds,
which the host writes as it likes. (DESIGN CHOICE, log 19.) -/
def State.hostFill (s : State) (line : Nat) : State :=
  if (Tab.get {} s.hostCache line).state = .invalid then
    let set := s.hostSet line
    let s := if set.length < hostWays then s else
      ({ s with free := s.free + 1 } : State).hostDrop (set.getD (Config.choice s.free % set.length) 0)
    { s with mem := s.mem.writeBytes (line * 64) (drawnLine s.free), free := s.free + 1 }
  else s

/-- A device access to a host line: a load fills it at least in S, a store brings it to M, keeping what host memory holds. (DESIGN CHOICE, log 19.) -/
def State.hostTouch (s0 : State) (key : Nat) (store : Bool) : State :=
  match storageOf key with
  | .host _ =>
    let line := key / 64
    let s := s0.hostFill line
    let h := Tab.get {} s.hostCache line
    let h' : HostLine :=
      if store then (if h.state = .modified then h else ⟨.modified, hostLineBytes s.mem line⟩)
      else if h.state = .invalid then ⟨.shared, []⟩ else h
    { s with hostCache := Tab.put {} s.hostCache line h' }
  | _ => s0

/-- R381: a miss of a store, `AMO` or `CAS` issues RdOwn: the line is in E or M before the operation is performed. (DESIGN CHOICE, log 19.) -/
def State.hostOwn (s0 : State) (key : Nat) : State :=
  match storageOf key with
  | .host _ =>
    let line := key / 64
    let s := s0.hostFill line
    let h := Tab.get {} s.hostCache line
    if h.state = .modified ∨ h.state = .exclusive then s
    else { s with hostCache := Tab.put {} s.hostCache line ⟨.exclusive, []⟩ }
  | _ => s0

def isHost (key : Nat) : Bool :=
  match storageOf key with
  | .host _ => true
  | _ => false

/-! ## Loads -/

/-- The bytes of words, the lowest first. -/
def wordBytes (ws : List Word32) : List Byte :=
  ws.flatMap fun w => [w.extractLsb' 0 8, w.extractLsb' 8 8, w.extractLsb' 16 8, w.extractLsb' 24 8]
/-- A little-endian number. -/
def leNat : List Byte → Nat
  | [] => 0
  | b :: bs => b.toNat + 256 * leNat bs

/-- Whether a span holds the bytes of an access (R312). -/
def Span.holds (x : Span) (key n : Nat) : Bool :=
  x.line == key / 128 && 4 * x.first ≤ key % 128 && key % 128 + n ≤ 4 * (x.first + x.words.length)

/-- The bytes of an access that a span holds. -/
def Span.read (x : Span) (key n : Nat) : Nat := leNat (((wordBytes x.words).drop (key % 128 - 4 * x.first)).take n)

def State.wordAt (s : State) (w : Nat) : Word32 := BitVec.ofNat 32 (s.mem.read (4 * w) 4)

/-- R312: the first word and length of the span that a miss requests: the words of the access, or their union with the
span that the L1 holds of the line where the two are contiguous. (DESIGN CHOICE, log 78.) -/
def missSpan (held : Option Span) (key n : Nat) : Nat × Nat :=
  let a := key % 128 / 4
  let b := (key % 128 + n + 3) / 4
  match held with
  | some x =>
    if x.first ≤ b ∧ a ≤ x.first + x.words.length then
      (min a x.first, max b (x.first + x.words.length) - min a x.first)
    else (a, b - a)
  | none => (a, b - a)

/-- The span that a miss requests. An L1 holds no mark of R125, so a union that would take in a poisoned word is not made;
a span of host memory lies within one 64-byte line (R381). (DESIGN CHOICE, log 78.) -/
def State.request (s : State) (held : Option Span) (key n : Nat) : Nat × Nat :=
  let r := missSpan held key n
  if isHost key && r.1 / 16 != (r.1 + r.2 - 1) / 16 then missSpan none key n
  else if (List.range r.2).any fun i => s.mem.poisoned (key / 128 * 128 + 4 * (r.1 + i)) then missSpan none key n else r

/-- R311: the timestamps of a load that misses, at the home: every word of the span takes the lease. The largest wts, and the end
of the lease. -/
def State.leaseSpan (s : State) (ks : List Nat) : State × Nat × Nat :=
  let t := s.me.ts
  let wts := ks.foldl (fun a k => max a (s.stampAt k).wts) 0
  let rts := ks.foldl (fun a k => max a (max (s.stampAt k).rts ((s.stampAt k).wts + s.lease))) (t + s.lease)
  (ks.foldl (fun s k => s.setStamp k ⟨(s.stampAt k).wts, rts⟩) s, wts, rts)

/-- The keys of the words of a span of a key's line. -/
def spanKeys (key : Nat) (r : Nat × Nat) : List Nat := (List.range r.2).map fun i => key / 128 * 128 + 4 * (r.1 + i)


/-- R312: whether a held span is renewed without data: it holds what is asked for, and no word has been written since. -/
def State.renews (s : State) (x : Span) (key n : Nat) : Bool :=
  !x.priv && x.holds key n &&
    ((List.range x.words.length).map fun i => (s.stampAt (128 * x.line + 4 * (x.first + i))).wts) == x.homes

/-- R311, R312: a load of the strand in turn that misses in the L1, at the home: the span is fetched, or renewed. (DESIGN CHOICE, log 78.) -/
def State.fetchSpan (s : State) (key n : Nat) : State :=
  let c := s.me.core
  let held := (s.core c).spans.find? (fun x => x.line == key / 128)
  let r := s.request held key n
  let ks := spanKeys key r
  let renewed := (held.map fun x => s.renews x key n).getD false
  let covered := (held.map fun x => !x.priv && r.1 ≤ x.first && x.first + x.words.length ≤ r.1 + r.2).getD false
  let q := s.leaseSpan ks
  let s := if covered then q.1 else q.1.evictPushed c fun x => x.line == key / 128
  let fresh : Span :=
    { line := key / 128, first := r.1, words := ks.map (fun k => s.wordAt (k / 4)), wts := q.2.1, rts := q.2.2
      homes := ks.map fun k => (s.stampAt k).wts
      pushed := if covered then (held.map (·.pushed)).getD [] else [] }
  let s := s.installSpan c fresh
  let s := if renewed then
      match storageOf key with
      | .hbm pa => s.countDie s.me.launch.part (s.sliceDie pa) 0x0C
      | _ => s
    else s
  ({ s with me := { s.me with missed := some (key / 128) } } : State).raiseTs q.2.1

/-- R310, R315: a private load, which the L1 serves as an ordinary cache: whether it hit there. -/
def State.privateLoad (s : State) (key n : Nat) : Bool × State :=
  let c := s.me.core
  let hit := (s.core c).spans.any fun x => x.priv && x.holds key n
  if hit then (true, s)
  else
    let ks := spanKeys key (0, 32)
    (false, (s.evictPushed c fun x => x.line == key / 128).installSpan c
      { line := key / 128, first := 0, words := ks.map (fun k => s.wordAt (k / 4)), wts := 0, rts := 0, priv := true })

/-- R311: a load of `n` bytes by the strand in turn at a place whose page class is known. The value and the state, or the
trap of R125. `priv` says that the page is private (R310). -/
def State.loadAt (s : State) (va : Word) (key n : Nat) (priv : Bool) : Except Trap (Nat × State) :=
  let s := s.touchLine key
  if isHost key && s.host.linkDown then
    if s.myPart.poisonTrap then .error ⟨.poisonConsumed, va &&& ~~~3#64⟩
    else .ok (0, s.countPoison ((key % 4 + n + 3) / 4))
  else
    let hit := !priv && !uncached key &&
      (s.core s.me.core).spans.any fun x => !x.priv && x.holds key n && s.me.ts ≤ x.rts
    if hit then
      match (s.core s.me.core).spans.find? (fun x => x.holds key n) with
      | some x =>
        let raised := s.me.ts < x.wts
        .ok (x.read key n, ((s.raiseTs x.wts).countHit raised).noteHit key n)
      | none => .ok (0, s)
    else
      let s := s.hostTouch key false
      match s.poisonTrap va key n with
      | some t => .error t
      | none =>
        let bad := (s.poisonedWords key n).length
        let v := s.readZeroed key n
        let missed : State := { s with me := { s.me with hits := 0 } }
        if priv then
          let t := max s.me.ts (s.core s.me.core).pclk
          let p := if bad = 0 then s.privateLoad key n else (false, s)
          let s := if p.1 then p.2.countHit (s.me.ts < t) else { p.2 with me := { p.2.me with hits := 0 } }
          let t := max t s.me.ts
          .ok (v, ((s.raiseTs t).modifyCore s.me.core fun k => { k with pclk := t }).countPoison bad)
        else if uncached key then
          let s := missed
          let x := s.stampAt key
          let s := s.raiseTs x.wts
          .ok (v, (s.setStamp key ⟨x.wts, max x.rts s.me.ts⟩).countPoison bad)
        else
          let s := missed
          let held := (s.core s.me.core).spans.find? (fun x => x.line == key / 128)
          let r := s.request held key n
          let s := if isHost key then s else
            s.noteMiss (key / 128 * 128 + 4 * r.1) r.2 ((wordKeys key n).map (· / 4))
          if bad != 0 then
            let q := s.leaseSpan (spanKeys key r)
            .ok (v, (q.1.raiseTs q.2.1).countPoison bad)
          else .ok (v, s.fetchSpan key n)

/-! ## Stores -/

/-- The timestamps of a write at its home, and the writer's timestamp (R311). -/
def State.stampWrite (s : State) (key n : Nat) : State × Nat :=
  let ks := wordKeys key n
  let w := ks.foldl (fun a k => max a ((s.stampAt k).rts + 1)) s.me.ts
  ((ks.foldl (fun s k => s.setStamp k ⟨w, w⟩) s).raiseTs w, w)

/-- R309, R311: the writer's own span takes the new data and timestamps. What it held beside the words written goes: no lease
of theirs reaches to the new timestamp. A line of a private page is kept whole (R310). (DESIGN CHOICE, log 78.) -/
def State.updateSpan (s : State) (core key n w : Nat) (priv : Bool) : State :=
  s.modifyCore core fun k =>
    { k with spans := k.spans.map fun x =>
        let ks := (wordKeys key n).filter fun a => x.holds a 4
        if x.line = key / 128 ∧ !ks.isEmpty then
          if priv then
            { x with words := (List.range x.words.length).map fun i => s.wordAt (x.line * 32 + x.first + i) }
          else
            let first := (ks.headD 0) % 128 / 4
            { x with
              first := first
              words := ks.map fun a => s.wordAt (a / 4)
              wts := w, rts := w, homes := ks.map fun _ => w
              pushed := x.pushed.filterMap fun p =>
                let lo := max p.first first
                let hi := min (p.first + p.len) (first + ks.length)
                if lo < hi then some { p with first := lo, len := hi - lo } else none }
        else x }

/-- R196: counts stores of 1 or 2 bytes that end poison. -/
def State.countPartial (s : State) (key n : Nat) : State :=
  if n < 4 ∧ s.mem.poisoned key then s.count s.me.core poisonPart else s

/-- R311, R310: a write of `n` bytes by the strand in turn at its home: `f` changes memory there. -/
def State.writeAt (s : State) (key n : Nat) (priv : Bool) (f : Mem → Mem) : State :=
  let s := s.touchLine key
  if isHost key && s.host.linkDown then { s with host := { s.host with dropSt := s.host.dropSt + 1 } }
  else
    let s := s.hostTouch key true
    let s := s.countPartial key n
    let s := { s with mem := f s.mem }
    if priv then
      let t := max s.me.ts (s.core s.me.core).pclk
      ((s.raiseTs t).modifyCore s.me.core fun k => { k with pclk := t }).updateSpan s.me.core key n t true
    else
      let r := s.stampWrite key n
      let s := r.1.updateSpan s.me.core key n r.2 false
      match storageOf key with
      | .hbm _ => s.noteStore key n s.lease
      | _ => s

/-- A plain store (R117). -/
def State.storeAt (s : State) (key n v : Nat) (priv : Bool) : State := s.writeAt key n priv fun m => storeMem m key n v

/-- A read of full/empty bits at the home (`LDF`, `FETEST`, a failing `CAS`): the uncached row of R311. -/
def State.stampRead (s : State) (key n : Nat) (priv : Bool) : State :=
  let s := s.touchLine key
  if priv then
    let t := max s.me.ts (s.core s.me.core).pclk
    (s.raiseTs t).modifyCore s.me.core fun k => { k with pclk := t }
  else
    let ks := wordKeys key n
    let s := s.raiseTs (ks.foldl (fun a k => max a (s.stampAt k).wts) 0)
    ks.foldl (fun s k => s.setStamp k ⟨(s.stampAt k).wts, max (s.stampAt k).rts s.me.ts⟩) s

end Sys2Proof.Machine
end

