-- ==== Sys2Proof/WellFormed.lean ====
section
/-! DEFINITION. Which instructions are well formed: the positions of registers, the halves, the owners of predicates and the values that R15, R17, R29 to R31, R41, R47 and R54 allow. -/

namespace Sys2Proof

/-- The outcome of the checks of R54, steps 2 to 6: IllegalInstruction comes before QueueMisuse. -/
inductive Verdict where
  | legal
  | misuse
  | illegal
  deriving DecidableEq, Repr

/-- The earlier step of R54 decides. -/
def Verdict.join : Verdict → Verdict → Verdict
  | .illegal, _ => .illegal
  | _, .illegal => .illegal
  | .misuse, _ => .misuse
  | .legal, v => v

/-- Where a scalar register field stands (R30 and the chapters of the units). -/
inductive Pos where
  /-- A destination of the majors whose half is decided by class. -/
  | dst
  /-- A source of those majors. -/
  | src
  /-- S1 of `TRAP` and `BRK`. -/
  | sysSrc
  /-- The link register of `JAL` and `JALR`. -/
  | link
  /-- S1 of `JALR` and `SWITCH`. -/
  | jump
  /-- The destination of majors 0x15 and 0x16. -/
  | iterDst
  /-- S1 of `BARW` and `BART`. -/
  | barSrc
  /-- The base of formats M and VM. -/
  | base
  /-- The data register of format M. -/
  | data
  /-- The data register of `CAS`. -/
  | casData
  /-- A scalar operand of formats Q and E. -/
  | accSrc
  /-- A scalar result of formats Q and E, and the value that `SEND`, `CNTSET`, `AWINIT` and `AWWAIT` read there. -/
  | accDst
  /-- A source of majors 0x04 and 0x05. -/
  | exeSrc
  /-- A destination of majors 0x04 and 0x05. -/
  | exeDst
  deriving DecidableEq, Repr

/-- R30 and R47: what each position allows. (DEDUCED, log 81.) -/
def Pos.allows : Pos → Reg → Verdict
  | .dst, .lit _ => .illegal
  | .dst, _ => .legal
  | .src, _ => .legal
  | .sysSrc, .queue => .misuse
  | .sysSrc, _ => .legal
  | .link, .lit _ => .illegal
  | .link, .queue => .misuse
  | .link, _ => .legal
  | .jump, .a _ => .legal
  | .jump, .d _ => .legal
  | .jump, .queue => .misuse
  | .jump, _ => .illegal
  | .iterDst, .a _ => .legal
  | .iterDst, .zero => .legal
  | .iterDst, .queue => .misuse
  | .iterDst, _ => .illegal
  | .barSrc, .a _ => .legal
  | .barSrc, .queue => .misuse
  | .barSrc, _ => .illegal
  | .base, .a _ => .legal
  | .base, .zero => .legal
  | .base, .queue => .misuse
  | .base, _ => .illegal
  | .data, .lit _ => .illegal
  | .data, _ => .legal
  | .casData, .a n => if n.val < 11 then .legal else .illegal
  | .casData, .d n => if n.val < 11 then .legal else .illegal
  | .casData, .queue => .misuse
  | .casData, _ => .illegal
  | .accSrc, .d _ => .illegal
  | .accSrc, _ => .legal
  | .accDst, .d _ => .illegal
  | .accDst, .lit _ => .illegal
  | .accDst, _ => .legal
  | .exeSrc, .a _ => .illegal
  | .exeSrc, _ => .legal
  | .exeDst, .a _ => .illegal
  | .exeDst, .lit _ => .illegal
  | .exeDst, _ => .legal

/-- How R47 gives an instruction its half. -/
inductive Unit where
  /-- Rules 2 to 4. -/
  | classed
  | access
  | execute
  | both
  /-- An event of the device, which has no encoding. -/
  | event
  deriving DecidableEq, Repr

/-- What the checks need of an instruction: its unit, its scalar registers (sources first, in the order of their
literal words), the predicates that must belong to its half, its guard, and whether its other fields hold legal values. -/
structure Shape where
  unit : Unit
  regs : List (Pos × Reg) := []
  preds : List (BitVec 4) := []
  guard : Guard := ⟨false, 0#4⟩
  fits : Bool := true
  deriving DecidableEq, Repr

/-- The system registers of R96. -/
def sysregExists (n : BitVec 12) : Bool :=
  n.toNat < 8 || (0x10 ≤ n.toNat && n.toNat < 0x1A) || (0x20 ≤ n.toNat && n.toNat < 0x40)

/-- The tag selectors that R223 allows. -/
def tagSelectorOk (t : BitVec 4) : Bool :=
  !(t == 7#4 || t == 11#4 || t == 13#4 || t == 14#4 || t == 15#4)

/-- Zeroing needs a mask (R41). -/
def maskOk (z : Bool) (k : BitVec 3) : Bool := !(z && k == 0#3)

/-- The shape of each instruction, from the tables of R30, R36 to R44, R142, R227, R241, R251, R272, R331, R348, R403 and R423. -/
def Instr.shape : Instr → Shape
  | .add g d s1 s2 => { unit := .classed, regs := [(.src, s1), (.src, s2), (.dst, d)], preds := [g.p], guard := g }
  | .sub g d s1 s2 => { unit := .classed, regs := [(.src, s1), (.src, s2), (.dst, d)], preds := [g.p], guard := g }
  | .and g d s1 s2 => { unit := .classed, regs := [(.src, s1), (.src, s2), (.dst, d)], preds := [g.p], guard := g }
  | .or g d s1 s2 => { unit := .classed, regs := [(.src, s1), (.src, s2), (.dst, d)], preds := [g.p], guard := g }
  | .xor g d s1 s2 => { unit := .classed, regs := [(.src, s1), (.src, s2), (.dst, d)], preds := [g.p], guard := g }
  | .andn g d s1 s2 => { unit := .classed, regs := [(.src, s1), (.src, s2), (.dst, d)], preds := [g.p], guard := g }
  | .orn g d s1 s2 => { unit := .classed, regs := [(.src, s1), (.src, s2), (.dst, d)], preds := [g.p], guard := g }
  | .shl g d s1 s2 => { unit := .classed, regs := [(.src, s1), (.src, s2), (.dst, d)], preds := [g.p], guard := g }
  | .shr g d s1 s2 => { unit := .classed, regs := [(.src, s1), (.src, s2), (.dst, d)], preds := [g.p], guard := g }
  | .sar g d s1 s2 => { unit := .classed, regs := [(.src, s1), (.src, s2), (.dst, d)], preds := [g.p], guard := g }
  | .ror g d s1 s2 => { unit := .classed, regs := [(.src, s1), (.src, s2), (.dst, d)], preds := [g.p], guard := g }
  | .addsc2 g d s1 s2 => { unit := .classed, regs := [(.src, s1), (.src, s2), (.dst, d)], preds := [g.p], guard := g }
  | .addsc4 g d s1 s2 => { unit := .classed, regs := [(.src, s1), (.src, s2), (.dst, d)], preds := [g.p], guard := g }
  | .addsc8 g d s1 s2 => { unit := .classed, regs := [(.src, s1), (.src, s2), (.dst, d)], preds := [g.p], guard := g }
  | .addsc16 g d s1 s2 => { unit := .classed, regs := [(.src, s1), (.src, s2), (.dst, d)], preds := [g.p], guard := g }
  | .sel g d s1 s2 => { unit := .classed, regs := [(.src, s1), (.src, s2), (.dst, d)], preds := [g.p], guard := g }
  | .mul g d s1 s2 => { unit := .classed, regs := [(.src, s1), (.src, s2), (.dst, d)], preds := [g.p], guard := g }
  | .mulh g d s1 s2 => { unit := .classed, regs := [(.src, s1), (.src, s2), (.dst, d)], preds := [g.p], guard := g }
  | .mulhu g d s1 s2 => { unit := .classed, regs := [(.src, s1), (.src, s2), (.dst, d)], preds := [g.p], guard := g }
  | .div g d s1 s2 => { unit := .classed, regs := [(.src, s1), (.src, s2), (.dst, d)], preds := [g.p], guard := g }
  | .divu g d s1 s2 => { unit := .classed, regs := [(.src, s1), (.src, s2), (.dst, d)], preds := [g.p], guard := g }
  | .rem g d s1 s2 => { unit := .classed, regs := [(.src, s1), (.src, s2), (.dst, d)], preds := [g.p], guard := g }
  | .remu g d s1 s2 => { unit := .classed, regs := [(.src, s1), (.src, s2), (.dst, d)], preds := [g.p], guard := g }
  | .min g d s1 s2 => { unit := .classed, regs := [(.src, s1), (.src, s2), (.dst, d)], preds := [g.p], guard := g }
  | .max g d s1 s2 => { unit := .classed, regs := [(.src, s1), (.src, s2), (.dst, d)], preds := [g.p], guard := g }
  | .minu g d s1 s2 => { unit := .classed, regs := [(.src, s1), (.src, s2), (.dst, d)], preds := [g.p], guard := g }
  | .maxu g d s1 s2 => { unit := .classed, regs := [(.src, s1), (.src, s2), (.dst, d)], preds := [g.p], guard := g }
  | .clz g d s1 => { unit := .classed, regs := [(.src, s1), (.dst, d)], preds := [g.p], guard := g }
  | .ctz g d s1 => { unit := .classed, regs := [(.src, s1), (.dst, d)], preds := [g.p], guard := g }
  | .popc g d s1 => { unit := .classed, regs := [(.src, s1), (.dst, d)], preds := [g.p], guard := g }
  | .brev g d s1 => { unit := .classed, regs := [(.src, s1), (.dst, d)], preds := [g.p], guard := g }
  | .bswap g d s1 => { unit := .classed, regs := [(.src, s1), (.dst, d)], preds := [g.p], guard := g }
  | .sext g d s1 s2 => { unit := .classed, regs := [(.src, s1), (.src, s2), (.dst, d)], preds := [g.p], guard := g }
  | .zext g d s1 s2 => { unit := .classed, regs := [(.src, s1), (.src, s2), (.dst, d)], preds := [g.p], guard := g }
  | .bext g d s1 s2 => { unit := .classed, regs := [(.src, s1), (.src, s2), (.dst, d)], preds := [g.p], guard := g }
  | .bins g d s1 s2 => { unit := .classed, regs := [(.src, s1), (.src, s2), (.dst, d)], preds := [g.p], guard := g }
  | .bset g d s1 s2 => { unit := .classed, regs := [(.src, s1), (.src, s2), (.dst, d)], preds := [g.p], guard := g }
  | .bclr g d s1 s2 => { unit := .classed, regs := [(.src, s1), (.src, s2), (.dst, d)], preds := [g.p], guard := g }
  | .btst g pd s1 s2 => { unit := .classed, regs := [(.src, s1), (.src, s2)], preds := [pd, g.p], guard := g }
  | .cmp g cc pd s1 s2 => { unit := .classed, regs := [(.src, s1), (.src, s2)], preds := [pd, g.p], guard := g, fits := cc.toNat < 12 }
  | .plog g _ pd pa pb => { unit := .classed, preds := [pd, pa, pb, g.p], guard := g }
  | .pget g d => { unit := .classed, regs := [(.dst, d)], preds := [g.p], guard := g }
  | .pput g s1 s2 => { unit := .classed, regs := [(.src, s1), (.src, s2)], preds := [g.p], guard := g }
  | .fadd g _ d s1 s2 => { unit := .execute, regs := [(.exeSrc, s1), (.exeSrc, s2), (.exeDst, d)], preds := [g.p], guard := g }
  | .fsub g _ d s1 s2 => { unit := .execute, regs := [(.exeSrc, s1), (.exeSrc, s2), (.exeDst, d)], preds := [g.p], guard := g }
  | .fmul g _ d s1 s2 => { unit := .execute, regs := [(.exeSrc, s1), (.exeSrc, s2), (.exeDst, d)], preds := [g.p], guard := g }
  | .ffma g _ d s1 s2 => { unit := .execute, regs := [(.exeSrc, s1), (.exeSrc, s2), (.exeDst, d)], preds := [g.p], guard := g }
  | .fdiv g _ d s1 s2 => { unit := .execute, regs := [(.exeSrc, s1), (.exeSrc, s2), (.exeDst, d)], preds := [g.p], guard := g }
  | .fsqrt g _ d s1 => { unit := .execute, regs := [(.exeSrc, s1), (.exeDst, d)], preds := [g.p], guard := g }
  | .fmin g _ d s1 s2 => { unit := .execute, regs := [(.exeSrc, s1), (.exeSrc, s2), (.exeDst, d)], preds := [g.p], guard := g }
  | .fmax g _ d s1 s2 => { unit := .execute, regs := [(.exeSrc, s1), (.exeSrc, s2), (.exeDst, d)], preds := [g.p], guard := g }
  | .fcmpEq g _ pd s1 s2 => { unit := .execute, regs := [(.exeSrc, s1), (.exeSrc, s2)], preds := [pd, g.p], guard := g }
  | .fcmpLt g _ pd s1 s2 => { unit := .execute, regs := [(.exeSrc, s1), (.exeSrc, s2)], preds := [pd, g.p], guard := g }
  | .fcmpLe g _ pd s1 s2 => { unit := .execute, regs := [(.exeSrc, s1), (.exeSrc, s2)], preds := [pd, g.p], guard := g }
  | .fcmpUn g _ pd s1 s2 => { unit := .execute, regs := [(.exeSrc, s1), (.exeSrc, s2)], preds := [pd, g.p], guard := g }
  | .fcvt g dbl rm kind d s1 => { unit := .execute, regs := [(.exeSrc, s1), (.exeDst, d)], preds := [g.p], guard := g, fits := dbl || kind != 0#3 || rm == 0#2 }
  | .fclass g _ d s1 => { unit := .execute, regs := [(.exeSrc, s1), (.exeDst, d)], preds := [g.p], guard := g }
  | .hpack g d s1 s2 => { unit := .execute, regs := [(.exeSrc, s1), (.exeSrc, s2), (.exeDst, d)], preds := [g.p], guard := g }
  | .hparse g d s1 s2 => { unit := .execute, regs := [(.exeSrc, s1), (.exeSrc, s2), (.exeDst, d)], preds := [g.p], guard := g }
  | .hlayout g d s1 s2 => { unit := .execute, regs := [(.exeSrc, s1), (.exeSrc, s2), (.exeDst, d)], preds := [g.p], guard := g }
  | .sysrd d n => { unit := .classed, regs := [(.dst, d)], fits := sysregExists n }
  | .syswr n s1 => { unit := .classed, regs := [(.src, s1)], fits := sysregExists n }
  | .addi d s1 _ => { unit := .classed, regs := [(.src, s1), (.dst, d)] }
  | .andi d s1 _ => { unit := .classed, regs := [(.src, s1), (.dst, d)] }
  | .ori d s1 _ => { unit := .classed, regs := [(.src, s1), (.dst, d)] }
  | .xori d s1 _ => { unit := .classed, regs := [(.src, s1), (.dst, d)] }
  | .shli d s1 _ => { unit := .classed, regs := [(.src, s1), (.dst, d)] }
  | .shri d s1 _ => { unit := .classed, regs := [(.src, s1), (.dst, d)] }
  | .sari d s1 _ => { unit := .classed, regs := [(.src, s1), (.dst, d)] }
  | .rori d s1 _ => { unit := .classed, regs := [(.src, s1), (.dst, d)] }
  | .cmpi cc pd s1 _ => { unit := .classed, regs := [(.src, s1)], preds := [pd], fits := cc.toNat < 12 }
  | .lih d _ => { unit := .classed, regs := [(.dst, d)] }
  | .br neg p _ => { unit := .both, fits := !(neg && p == 0#4) }
  | .jal d _ => { unit := .both, regs := [(.link, d)] }
  | .jalr d s1 _ => { unit := .both, regs := [(.jump, s1), (.link, d)] }
  | .switch s1 n => { unit := .both, regs := [(.jump, s1)], fits := n != 0#15 && !n.msb }
  | .nop g => { unit := .both, guard := g }
  | .trap g s1 => { unit := .both, regs := [(.sysSrc, s1)], guard := g }
  | .eret g => { unit := .both, guard := g }
  | .fence g => { unit := .both, guard := g }
  | .fenceD g => { unit := .both, guard := g }
  | .yield g => { unit := .both, guard := g }
  | .exit g => { unit := .both, guard := g }
  | .brk g s1 => { unit := .both, regs := [(.sysSrc, s1)], guard := g }
  | .iter g d pd => { unit := .access, regs := [(.iterDst, d)], preds := [pd, g.p], guard := g }
  | .iterS g d pd => { unit := .access, regs := [(.iterDst, d)], preds := [pd, g.p], guard := g }
  | .iterq g d which => { unit := .access, regs := [(.iterDst, d)], preds := [g.p], guard := g, fits := which.toNat < 4 }
  | .iterx g d => { unit := .access, regs := [(.iterDst, d)], preds := [g.p], guard := g }
  | .bar g d m => { unit := .access, regs := [(.iterDst, d)], preds := [g.p], guard := g, fits := m.toNat < 4 }
  | .bara g d m => { unit := .access, regs := [(.iterDst, d)], preds := [g.p], guard := g, fits := m.toNat < 4 }
  | .barw g d s1 m => { unit := .access, regs := [(.barSrc, s1), (.iterDst, d)], preds := [g.p], guard := g, fits := m.toNat < 4 }
  | .bart g pd s1 m => { unit := .access, regs := [(.barSrc, s1)], preds := [pd, g.p], guard := g, fits := m.toNat < 4 }
  | .bars g d m => { unit := .access, regs := [(.iterDst, d)], preds := [g.p], guard := g, fits := m.toNat < 4 }
  | .ld op _ x base _ => { unit := .access, regs := [(.base, base), (.data, x)], fits := op != 7#3 }
  | .st _ _ x base _ => { unit := .access, regs := [(.base, base), (.data, x)] }
  | .ldf _ _ x base _ => { unit := .access, regs := [(.base, base), (.data, x)] }
  | .lde _ _ x base _ => { unit := .access, regs := [(.base, base), (.data, x)] }
  | .stf _ _ x base _ => { unit := .access, regs := [(.base, base), (.data, x)] }
  | .stw _ _ x base _ => { unit := .access, regs := [(.base, base), (.data, x)] }
  | .amo _ _ _ x base _ => { unit := .access, regs := [(.base, base), (.data, x)] }
  | .cas _ _ x base _ => { unit := .access, regs := [(.base, base), (.casData, x)] }
  | .send _ y c => { unit := .access, regs := [(.accSrc, c), (.accDst, y)] }
  | .cont x s1 => { unit := .access, regs := [(.accSrc, s1), (.accDst, x)] }
  | .waitr x s1 => { unit := .access, regs := [(.accSrc, s1), (.accDst, x)] }
  | .pref base _ => { unit := .access, regs := [(.base, base)] }
  | .feset _ base _ => { unit := .access, regs := [(.base, base)] }
  | .feclr _ base _ => { unit := .access, regs := [(.base, base)] }
  | .fetest _ pd base _ => { unit := .access, regs := [(.base, base)], preds := [pd] }
  | .quni _ _ _ => { unit := .access }
  | .qint _ _ _ => { unit := .access }
  | .qsub _ _ _ => { unit := .access }
  | .qdil which _ _ v => { unit := .access, regs := [(.accSrc, v)], fits := which.toNat < 5 }
  | .qshf which _ _ v => { unit := .access, regs := [(.accSrc, v)], fits := which.toNat < 4 }
  | .qprj which _ _ v => { unit := .access, regs := [(.accSrc, v)], fits := which.toNat < 4 }
  | .qclip _ _ => { unit := .access }
  | .qspl which _ _ v => { unit := .access, regs := [(.accSrc, v)], fits := which.toNat < 4 }
  | .qhull _ _ => { unit := .access }
  | .qbox which _ _ v => { unit := .access, regs := [(.accSrc, v)], fits := which.toNat < 4 }
  | .qstr _ v => { unit := .access, regs := [(.accSrc, v)] }
  | .qrag _ _ v => { unit := .access, regs := [(.accSrc, v)] }
  | .qld _ v => { unit := .access, regs := [(.accSrc, v)] }
  | .qst _ v => { unit := .access, regs := [(.accSrc, v)] }
  | .qclr _ => { unit := .access }
  | .qmov _ _ => { unit := .access }
  | .qsize x _ => { unit := .access, regs := [(.accDst, x)] }
  | .qcnt which x _ => { unit := .access, regs := [(.accDst, x)], fits := which.toNat < 4 }
  | .qget which x _ b => { unit := .access, regs := [(.accDst, x)], fits := which.toNat < 6 && b.toNat < 8 }
  | .qeq pd _ _ => { unit := .access, preds := [pd] }
  | .qle pd _ _ => { unit := .access, preds := [pd] }
  | .qemp pd _ => { unit := .access, preds := [pd] }
  | .qovf pd _ => { unit := .access, preds := [pd] }
  | .vadd z k _ _ _ => { unit := .execute, fits := maskOk z k }
  | .vsub z k _ _ _ => { unit := .execute, fits := maskOk z k }
  | .vmul z k _ _ _ => { unit := .execute, fits := maskOk z k }
  | .vmin z k _ _ _ => { unit := .execute, fits := maskOk z k }
  | .vmax z k _ _ _ => { unit := .execute, fits := maskOk z k }
  | .vabs z k _ _ => { unit := .execute, fits := maskOk z k }
  | .vneg z k _ _ => { unit := .execute, fits := maskOk z k }
  | .vand z k _ _ _ => { unit := .execute, fits := maskOk z k }
  | .vor z k _ _ _ => { unit := .execute, fits := maskOk z k }
  | .vxor z k _ _ _ => { unit := .execute, fits := maskOk z k }
  | .vnot z k _ _ => { unit := .execute, fits := maskOk z k }
  | .vshl z k _ _ _ => { unit := .execute, fits := maskOk z k }
  | .vshr z k _ _ _ => { unit := .execute, fits := maskOk z k }
  | .vsar z k _ _ _ => { unit := .execute, fits := maskOk z k }
  | .vmov z k _ _ => { unit := .execute, fits := maskOk z k }
  | .vsel _ _ _ _ => { unit := .execute }
  | .vcmp z k cc kd _ _ => { unit := .execute, fits := maskOk z k && cc.toNat < 13 && kd.toNat < 8 }
  | .vbcst z k ts _ dn => { unit := .execute, fits := maskOk z k && tagSelectorOk ts && dn.toNat < 12 }
  | .vextr dx _ dn => { unit := .execute, fits := dx.toNat < 12 && dn.toNat < 12 }
  | .vfma z k _ _ _ _ => { unit := .execute, fits := maskOk z k }
  | .vfms z k _ _ _ _ => { unit := .execute, fits := maskOk z k }
  | .vfnma z k _ _ _ _ => { unit := .execute, fits := maskOk z k }
  | .vdot4 z k _ _ _ _ => { unit := .execute, fits := maskOk z k }
  | .vrcp z k _ _ => { unit := .execute, fits := maskOk z k }
  | .vrsq z k _ _ => { unit := .execute, fits := maskOk z k }
  | .vsqrt z k _ _ => { unit := .execute, fits := maskOk z k }
  | .vdiv z k _ _ _ => { unit := .execute, fits := maskOk z k }
  | .vexp2 z k _ _ => { unit := .execute, fits := maskOk z k }
  | .vlog2 z k _ _ => { unit := .execute, fits := maskOk z k }
  | .vtanh z k _ _ => { unit := .execute, fits := maskOk z k }
  | .vcvt z k _ _ _ _ _ => { unit := .execute, fits := maskOk z k }
  | .vtag _ _ _ => { unit := .execute }
  | .vqnt _ _ _ _ _ => { unit := .execute }
  | .vdqnt _ _ _ _ => { unit := .execute }
  | .vred _ op _ _ => { unit := .execute, fits := op.toNat < 6 }
  | .vscan z k _ op _ _ => { unit := .execute, fits := maskOk z k && op.toNat < 6 }
  | .vperm z k _ _ _ => { unit := .execute, fits := maskOk z k }
  | .vslide z k _ _ dn => { unit := .execute, fits := maskOk z k && dn.toNat < 12 }
  | .vzip z k _ _ _ _ => { unit := .execute, fits := maskOk z k }
  | .vunz z k _ _ _ _ => { unit := .execute, fits := maskOk z k }
  | .viota _ _ => { unit := .execute }
  | .vcomp _ _ _ => { unit := .execute }
  | .vld ts _ _ _ base => { unit := .access, regs := [(.base, base)], fits := tagSelectorOk ts }
  | .vst _ _ _ base => { unit := .access, regs := [(.base, base)] }
  | .vlds ix _ _ _ base => { unit := .access, regs := [(.base, base)], fits := ix.toNat < 12 }
  | .vsts ix _ _ _ base => { unit := .access, regs := [(.base, base)], fits := ix.toNat < 12 }
  | .vldx _ _ _ _ base => { unit := .access, regs := [(.base, base)] }
  | .vstx _ _ _ _ base => { unit := .access, regs := [(.base, base)] }
  | .vldl _ _ _ base => { unit := .access, regs := [(.base, base)] }
  | .vstl _ _ _ base => { unit := .access, regs := [(.base, base)] }
  | .vclaim _ dx => { unit := .execute, fits := dx.toNat < 12 }
  | .vrel => { unit := .execute }
  | .vwid dx => { unit := .execute, fits := dx.toNat < 12 }
  | .kand kd ka kb => { unit := .execute, fits := kd.toNat < 8 && ka.toNat < 8 && kb.toNat < 8 }
  | .kor kd ka kb => { unit := .execute, fits := kd.toNat < 8 && ka.toNat < 8 && kb.toNat < 8 }
  | .kxor kd ka kb => { unit := .execute, fits := kd.toNat < 8 && ka.toNat < 8 && kb.toNat < 8 }
  | .knot kd ka => { unit := .execute, fits := kd.toNat < 8 && ka.toNat < 8 }
  | .kmov kd ka => { unit := .execute, fits := kd.toNat < 8 && ka.toNat < 8 }
  | .kpop dx ka => { unit := .execute, fits := dx.toNat < 12 && ka.toNat < 8 }
  | .kfirst dx ka => { unit := .execute, fits := dx.toNat < 12 && ka.toNat < 8 }
  | .mma h _ _ _ _ => { unit := .access, fits := h.toNat < 13 }
  | .mmas h _ _ _ _ => { unit := .access, fits := h.toNat < 13 }
  | .mmar h _ _ _ _ => { unit := .access, fits := h.toNat < 13 }
  | .zclaim pd _ => { unit := .access, preds := [pd] }
  | .zrel _ => { unit := .access }
  | .zzero _ => { unit := .access }
  | .zld _ _ _ => { unit := .access }
  | .zst _ _ => { unit := .access }
  | .bld _ _ _ => { unit := .access }
  | .brot h _ => { unit := .access, fits := h.toNat < 13 }
  | .bmeta _ _ => { unit := .access }
  | .jwait h => { unit := .access, regs := [(.accSrc, h)] }
  | .jpoll pd h => { unit := .access, regs := [(.accSrc, h)], preds := [pd] }
  | .jstat x h => { unit := .access, regs := [(.accSrc, h), (.accDst, x)] }
  | .cpy pd _ _ c => { unit := .access, regs := [(.accSrc, c)], preds := [pd] }
  | .cpyg pd _ _ c => { unit := .access, regs := [(.accSrc, c)], preds := [pd] }
  | .cpys pd _ _ c => { unit := .access, regs := [(.accSrc, c)], preds := [pd] }
  | .halo pd _ _ c => { unit := .access, regs := [(.accSrc, c)], preds := [pd] }
  | .cfill pd _ v => { unit := .access, regs := [(.accSrc, v)], preds := [pd] }
  | .qwait _ aw => { unit := .access, regs := [(.accSrc, aw)] }
  | .cseal x => { unit := .access, regs := [(.accDst, x)] }
  | .cwait n => { unit := .access, regs := [(.accSrc, n)] }
  | .arm pd _ _ c => { unit := .access, regs := [(.accSrc, c)], preds := [pd] }
  | .disarm pd b => { unit := .access, regs := [(.accSrc, b)], preds := [pd] }
  | .cntrd x which => { unit := .access, regs := [(.accSrc, which), (.accDst, x)] }
  | .cntset which v => { unit := .access, regs := [(.accSrc, which), (.accDst, v)] }
  | .awinit aw v => { unit := .access, regs := [(.accSrc, aw), (.accDst, v)] }
  | .awwait aw gen => { unit := .access, regs := [(.accSrc, aw), (.accDst, gen)] }
  | .record pd c => { unit := .access, regs := [(.accSrc, c)], preds := [pd] }
  | .replay pd => { unit := .access, preds := [pd] }
  | .rpstop => { unit := .access }
  | .rpstat x which => { unit := .access, regs := [(.accSrc, which), (.accDst, x)] }
  | .route x desc => { unit := .access, regs := [(.accSrc, desc), (.accDst, x)] }
  | .rtwait h => { unit := .access, regs := [(.accSrc, h)] }
  | .rtinv x desc => { unit := .access, regs := [(.accSrc, desc), (.accDst, x)] }
  | .rtstat x h => { unit := .access, regs := [(.accSrc, h), (.accDst, x)] }
  | .coll x pb => { unit := .access, regs := [(.accSrc, pb), (.accDst, x)] }
  | .collw h => { unit := .access, regs := [(.accSrc, h)] }
  | .collst x h => { unit := .access, regs := [(.accSrc, h), (.accDst, x)] }
  | .mbput pd w => { unit := .access, regs := [(.accSrc, w)], preds := [pd] }
  | .mbget x which => { unit := .access, regs := [(.accSrc, which), (.accDst, x)] }
  | .vaddShort k vd vs => { unit := .execute, fits := !(k == 0#3 && vd == 0#4 && vs == 0#4) }
  | .vsubShort _ _ _ => { unit := .execute }
  | .vmulShort _ _ _ => { unit := .execute }
  | .vminShort _ _ _ => { unit := .execute }
  | .vmaxShort _ _ _ => { unit := .execute }
  | .vandShort _ _ _ => { unit := .execute }
  | .vorShort _ _ _ => { unit := .execute }
  | .vxorShort _ _ _ => { unit := .execute }
  | .vmovShort _ _ _ => { unit := .execute }
  | .vnegShort _ _ _ => { unit := .execute }
  | .vabsShort _ _ _ => { unit := .execute }
  | .vrcpShort _ _ _ => { unit := .execute }
  | .vselShort _ _ _ => { unit := .execute }
  | .vexp2Short _ _ _ => { unit := .execute }
  | .vrsqShort _ _ _ => { unit := .execute }
  | .vnotShort _ _ _ => { unit := .execute }
  | .queueMisuseDetect _ => { unit := .event }
  | .migrationInboxArrival _ _ => { unit := .event }
  | .migrationInstall _ => { unit := .event }
  | .migrationAck _ => { unit := .event }
  | .migrationRefusal _ => { unit := .event }
  | .migrationInboxTimeout _ => { unit := .event }
  | .arrivalReport _ => { unit := .event }
  | .messageDelivery _ _ _ _ => { unit := .event }
  | .wordWaitRepresent _ => { unit := .event }
  | .wake _ => { unit := .event }
  | .yieldReentry _ => { unit := .event }
  | .fenceDCompletion _ => { unit := .event }
  | .preemption _ => { unit := .event }
  | .quantumExpiry _ => { unit := .event }
  | .spill _ => { unit := .event }
  | .restore _ => { unit := .event }
  | .resume _ _ => { unit := .event }
  | .strandCreate _ _ _ => { unit := .event }
  | .quiescentDeadlock _ _ => { unit := .event }
  | .memoryError _ _ => { unit := .event }
  | .scrubPass _ => { unit := .event }
  | .matrixJobStart _ => { unit := .event }
  | .matrixJobComplete _ => { unit := .event }
  | .ringRoundStart _ => { unit := .event }
  | .ringPhaseEnd _ => { unit := .event }
  | .ringRoundTimeout _ _ => { unit := .event }
  | .copyStart _ => { unit := .event }
  | .copyPieceWrite _ _ => { unit := .event }
  | .copyCompletion _ => { unit := .event }
  | .arrivalPiece _ => { unit := .event }
  | .counterPiece _ => { unit := .event }
  | .arrivalWatchdogExpiry _ => { unit := .event }
  | .pageWalk _ _ _ => { unit := .event }
  | .reclassification _ => { unit := .event }
  | .l2Eviction _ => { unit := .event }
  | .midnightPause => { unit := .event }
  | .heartbeatTick => { unit := .event }
  | .pushArrival => { unit := .event }
  | .ageingSample _ _ => { unit := .event }
  | .derateStep _ => { unit := .event }
  | .supplySag _ => { unit := .event }
  | .supplySagEnd _ => { unit := .event }
  | .configBlockWrite _ _ _ => { unit := .event }
  | .partitionDefine _ => { unit := .event }
  | .partitionRun _ => { unit := .event }
  | .partitionPause _ => { unit := .event }
  | .partitionResume _ => { unit := .event }
  | .partitionKill _ => { unit := .event }
  | .partitionUndefine _ => { unit := .event }
  | .wayMaskWrite _ _ => { unit := .event }
  | .doorbell _ _ => { unit := .event }
  | .registerWrite _ _ => { unit := .event }
  | .launchRecordFetch _ => { unit := .event }
  | .nodeStart _ _ _ => { unit := .event }
  | .nodeComplete _ _ _ => { unit := .event }
  | .loopIteration _ _ _ => { unit := .event }
  | .graphCompletion _ _ => { unit := .event }
  | .killRequest _ => { unit := .event }
  | .invalidationRequest _ => { unit := .event }
  | .engineQuiesceAck _ _ => { unit := .event }
  | .killReleased _ _ => { unit := .event }
  | .revokedWriteReject _ _ _ => { unit := .event }
  | .vfReset _ => { unit := .event }
  | .hostMemRead _ _ => { unit := .event }
  | .hostMemWrite _ _ => { unit := .event }
  | .snpInv _ => { unit := .event }
  | .snpData _ => { unit := .event }
  | .snpCur _ => { unit := .event }
  | .hostCacheFill _ _ => { unit := .event }
  | .clusterPowerGate _ => { unit := .event }
  | .surpriseLinkLoss => { unit := .event }
  | .coldStart => { unit := .event }
  | .warmReset _ => { unit := .event }
  | .thermalTrip => { unit := .event }
  | .firmwareImage _ => { unit := .event }
  | .svnFuseRequest _ => { unit := .event }
  | .attestationRequest _ _ => { unit := .event }
  | .debugUnlock _ => { unit := .event }
  | .i3cRequest _ => { unit := .event }
  | .remoteAccessArrival _ => { unit := .event }
  | .remoteResponse _ _ => { unit := .event }
  | .remoteTimeout _ => { unit := .event }
  | .flitReceive _ _ => { unit := .event }
  | .laneRetire _ => { unit := .event }
  | .tickSourceFailover _ => { unit := .event }
  | .collCallStart _ => { unit := .event }
  | .contributionArrival _ _ _ _ _ => { unit := .event }
  | .collTimeout _ _ => { unit := .event }
  | .twilightExpiry _ _ => { unit := .event }
  | .collResultArrival _ _ _ _ => { unit := .event }
  | .coordinatorLost _ _ _ => { unit := .event }
  | .lateMember _ _ _ _ => { unit := .event }
  | .flush _ _ => { unit := .event }
  | .cancel _ _ => { unit := .event }
  | .openSession _ _ => { unit := .event }
  | .closeSession _ _ => { unit := .event }
  | .handshakeInit _ _ _ => { unit := .event }
  | .handshakeResp _ _ _ => { unit := .event }
  | .handshakeTimeout _ _ => { unit := .event }
  | .zhomerDatagram _ _ _ => { unit := .event }
  | .zhomerRetransmit _ _ => { unit := .event }
  | .rekey _ _ => { unit := .event }
  | .oldKeyExpiry _ _ => { unit := .event }
  | .nonZhomerFrame _ _ => { unit := .event }
  | .routeCallStart _ => { unit := .event }
  | .routeRequest _ => { unit := .event }
  | .routeGrant _ _ _ _ => { unit := .event }
  | .routeRowArrival _ => { unit := .event }
  | .expertCloseTimeout _ _ _ _ => { unit := .event }
  | .routeGrantTimeout _ _ => { unit := .event }
  | .routeCallComplete _ => { unit := .event }
  | .thermalWarning => { unit := .event }
  | .nestCancelLearned _ _ _ _ => { unit := .event }

def Reg.isA : Reg → Bool
  | .a _ => true
  | _ => false

def Reg.isD : Reg → Bool
  | .d _ => true
  | _ => false

def Reg.lit? : Reg → Option Word32
  | .lit w => some w
  | _ => none

/-- The half that owns a predicate other than p0 (R14). (DEDUCED, log 82.) -/
def predOwner (p : BitVec 4) : Side := if p.toNat < 8 then .access else .execute

/-- Rules 2 to 4 of R47. (DEDUCED, log 82.) -/
def halfOf (rs : List Reg) (ps : List (BitVec 4)) : Side :=
  if rs.any Reg.isA then .access
  else if rs.any Reg.isD then .execute
  else
    match ps.find? (fun p => p != 0#4) with
    | some p => predOwner p
    | none => .execute

/-- Rules 2 to 4 of R47 for an instruction's registers and predicates. -/
def Shape.classHalf (sh : Shape) : Side := halfOf (sh.regs.map (·.2)) sh.preds

/-- The half of an instruction (R47). (DEDUCED, log 82.) -/
def Shape.half (sh : Shape) : Side :=
  match sh.unit with
  | .classed => sh.classHalf
  | .access => .access
  | .execute => .execute
  | .both => .both
  | .event => .both

/-- R17: an a-register and a d-register do not meet in one instruction, but in the two-part forms of R48, whose base is
an access-half operand. -/
def Shape.mixes (sh : Shape) : Bool :=
  match sh.unit with
  | .classed | .both => sh.regs.any (fun r => r.2.isA) && sh.regs.any (fun r => r.2.isD)
  | _ => false

/-- R15: predicates and guards belong to the instruction's own half. -/
def Shape.predsOk (sh : Shape) : Bool :=
  match sh.unit with
  | .both | .event => true
  | _ => sh.preds.all (fun p => p == 0#4 || predOwner p == sh.half)

/-- The checks of R54, steps 2 to 6. -/
def Shape.check (sh : Shape) : Verdict :=
  if sh.fits && !(sh.guard.neg && sh.guard.p == 0#4) && !sh.mixes && sh.predsOk && sh.unit != .event then
    sh.regs.foldl (fun v r => v.join (r.1.allows r.2)) .legal
  else .illegal

/-- `HPACK` with code 14 in both sources: the count of pops on S1 would depend on S2 (R191). -/
def Instr.packsQueueTwice : Instr → Bool
  | .hpack _ _ .queue .queue => true
  | _ => false

/-- Steps 2 to 6 of R54 for a decoded instruction. (DEDUCED, log 81.) -/
def Instr.check (i : Instr) : Verdict :=
  i.shape.check.join (if i.packsQueueTwice then .misuse else .legal)

/-- A well-formed instruction: one that some word encodes. -/
abbrev WellFormed (i : Instr) : Prop := i.check = .legal

/-- The half an instruction belongs to (R47). -/
def Instr.half (i : Instr) : Side := i.shape.half

/-- The literal words of an instruction, S1's first (R28). -/
def Instr.lits (i : Instr) : List Word32 := i.shape.regs.filterMap (fun r => r.2.lit?)

/-- Whether an instruction is one of the device's events. -/
def Instr.isEvent (i : Instr) : Bool := i.shape.unit == .event

end Sys2Proof
end

