-- ==== Sys2Proof/Machine/Operands.lean ====
section
/-! DEFINITION. Operand forms: registers, literals and queues as sources and destinations, guards, and the frame of R59. -/

namespace Sys2Proof.Machine

/-- A use of operands that a queue may hold (R16). -/
abbrev Attempt (α : Type) := Except QueueName α

/-- R28: a literal word is sign-extended from 32 bits. -/
def litValue (w : Word32) : Word := w.signExtend 64

/-- R16: pops the queue that a half reads: `sq` for the access half, `lq` for the execute half. -/
def Context.pop (h : Side) (c : Context) : Attempt (Word × Context) :=
  match h with
  | .access =>
    match c.queues.sq with
    | [] => .error .sq
    | x :: r => .ok (x, { c with queues := { c.queues with sq := r } })
  | _ =>
    match c.queues.lq with
    | [] => .error .lq
    | x :: r => .ok (x, { c with queues := { c.queues with lq := r } })

/-- R16: pushes to the queue that a half writes: `lq` for the access half, `sq` for the execute half. -/
def Context.push (h : Side) (v : Word) (c : Context) : Attempt Context :=
  match h with
  | .access =>
    if c.queues.lq.length < 16 then .ok { c with queues := { c.queues with lq := c.queues.lq ++ [v] } } else .error .lq
  | _ =>
    if c.queues.sq.length < 16 then .ok { c with queues := { c.queues with sq := c.queues.sq ++ [v] } } else .error .sq

/-- Reads a source (R29): code 12 is 0, code 13 the literal, code 14 pops. -/
def Context.read (h : Side) (r : Reg) (c : Context) : Attempt (Word × Context) :=
  match r with
  | .a n => .ok (c.acc.a[n], c)
  | .d n => .ok (c.exe.d[n], c)
  | .zero => .ok (0#64, c)
  | .lit w => .ok (litValue w, c)
  | .queue => c.pop h

/-- The context without the entries of `sq` that an instruction pops. -/
def Context.dropSq (c : Context) (n : Nat) : Context := { c with queues := { c.queues with sq := c.queues.sq.drop n } }

/-- The entries that a list of sources pops. -/
def popsOf (rs : List Reg) : Nat := (rs.filter (· == .queue)).length

/-- Writes a destination with lookahead `la` at position `pos`: code 12 discards, code 14 pushes (R29). -/
def Context.writeReg (h : Side) (pos la : Nat) (r : Reg) (v : Word) (c : Context) : Attempt Context :=
  match r with
  | .a n => .ok (c.writeLate pos la (.a n v))
  | .d n => .ok (c.writeLate pos la (.d n v))
  | .queue => c.push h v
  | _ => .ok c

/-- R31: the guard holds when pG XOR N is 1. -/
def Context.holds (c : Context) (g : Guard) : Bool := c.pred g.p != g.neg

/-- Sets sticky flags (R76). -/
def Context.raise (c : Context) (f : FpFlags) : Context :=
  { c with sys := { c.sys with status := Machine.raise f c.sys.status } }

/-- The frame of R59 for an operation with a register destination. `f` receives S1, S2 and, where `readsD`, the old D. -/
def Context.frame (c : Context) (h : Side) (g : Guard) (s1 s2 : Reg) (readsD : Bool) (d : Reg)
    (f : Word → Word → Word → Word × FpFlags) : Attempt Context :=
  match c.read h s1 with
  | .error q => .error q
  | .ok (x, c1) =>
    match c1.read h s2 with
    | .error q => .error q
    | .ok (y, c2) =>
      match (if readsD then c2.read h d else .ok (0#64, c2)) with
      | .error q => .error q
      | .ok (z, c3) =>
        if c3.holds g then ((c3.raise (f x y z).2).writeReg h 0 0 d (f x y z).1)
        else if d = .queue then c3.push h 0#64
        else .ok c3

/-- The frame of R59 for an operation whose D names a predicate: nothing is pushed. -/
def Context.frameP (c : Context) (h : Side) (g : Guard) (s1 s2 : Reg) (pd : BitVec 4)
    (f : Word → Word → Bool × FpFlags) : Attempt Context :=
  match c.read h s1 with
  | .error q => .error q
  | .ok (x, c1) =>
    match c1.read h s2 with
    | .error q => .error q
    | .ok (y, c2) =>
      if c2.holds g then .ok ((c2.raise (f x y).2).write (.p pd (f x y).1))
      else .ok c2

/-- Ends an instruction with its context, or holds it on a queue. -/
def State.attempt (s : State) (r : Attempt Context) : State :=
  match r with
  | .ok c => s.done c
  | .error q => s.hold q

/-- An integer operation of two sources in the frame of R59. -/
def State.alu (s : State) (h : Side) (g : Guard) (d s1 s2 : Reg) (f : Word → Word → Word) : State :=
  s.attempt (s.me.ctx.frame h g s1 s2 false d fun x y _ => (f x y, {}))

/-- No guard: p0 and N = 0 (R31). -/
def Guard.always : Guard := ⟨false, 0#4⟩

end Sys2Proof.Machine
end

