-- ==== Sys2Proof/Machine/Integer.lean ====
section
/-! DEFINITION. The meanings of the scalar integer instructions: majors 0x00 to 0x03 and 0x08 to 0x0E (R60 to R73). -/

namespace Sys2Proof.Machine

/-! ## Results -/

/-- The shift amount (R60). -/
def shiftOf (b : Word) : Nat := (b.extractLsb' 0 6).toNat

/-- R62: the high half of a signed product. -/
def mulHigh (a b : Word) : Word := ((a.signExtend 128) * (b.signExtend 128)).extractLsb' 64 64
/-- R62: the high half of an unsigned product. -/
def mulHighU (a b : Word) : Word := ((a.setWidth 128) * (b.setWidth 128)).extractLsb' 64 64

/-- R63: the signed quotient. -/
def divS (a b : Word) : Word :=
  if b = 0#64 then 0xFFFFFFFFFFFFFFFF#64
  else if a = 0x8000000000000000#64 ∧ b = 0xFFFFFFFFFFFFFFFF#64 then a
  else BitVec.ofInt 64 (a.toInt.tdiv b.toInt)
/-- R63: the signed remainder. -/
def remS (a b : Word) : Word :=
  if b = 0#64 then a
  else if a = 0x8000000000000000#64 ∧ b = 0xFFFFFFFFFFFFFFFF#64 then 0#64
  else BitVec.ofInt 64 (a.toInt.tmod b.toInt)
/-- R63: the unsigned quotient. -/
def divU (a b : Word) : Word := if b = 0#64 then 0xFFFFFFFFFFFFFFFF#64 else BitVec.ofNat 64 (a.toNat / b.toNat)
/-- R63: the unsigned remainder. -/
def remU (a b : Word) : Word := if b = 0#64 then a else BitVec.ofNat 64 (a.toNat % b.toNat)

def minS (a b : Word) : Word := if a.toInt ≤ b.toInt then a else b
def maxS (a b : Word) : Word := if b.toInt ≤ a.toInt then a else b
def minU (a b : Word) : Word := if a.toNat ≤ b.toNat then a else b
def maxU (a b : Word) : Word := if b.toNat ≤ a.toNat then a else b

/-- The bits of a word, the lowest first. -/
def bitList {w : Nat} (a : BitVec w) : List Bool := (List.range w).map a.getLsbD
/-- The word with given bits, the lowest first. -/
def ofBitList (w : Nat) (l : List Bool) : BitVec w := BitVec.ofNat w (l.foldr (fun b n => b.toNat + 2 * n) 0)

/-- How many leading entries of a list are false. -/
def falses : List Bool → Nat
  | [] => 0
  | true :: _ => 0
  | false :: l => falses l + 1

/-- R65: counts and reversals. -/
def clz (a : Word) : Word := BitVec.ofNat 64 (falses (bitList a).reverse)
def ctz (a : Word) : Word := BitVec.ofNat 64 (falses (bitList a))
def popc (a : Word) : Word := BitVec.ofNat 64 ((bitList a).filter id).length
def brev (a : Word) : Word := ofBitList 64 (bitList a).reverse
def bswap (a : Word) : Word :=
  a.extractLsb' 0 8 ++ a.extractLsb' 8 8 ++ a.extractLsb' 16 8 ++ a.extractLsb' 24 8 ++ a.extractLsb' 32 8 ++
    a.extractLsb' 40 8 ++ a.extractLsb' 48 8 ++ a.extractLsb' 56 8

/-- R65: the width that SEXT and ZEXT take; 0 means 64. -/
def extWidth (b : Word) : Nat := if shiftOf b = 0 then 64 else shiftOf b
def sextN (n : Nat) (a : Word) : Word := (a <<< (64 - n)).sshiftRight (64 - n)
def zextN (n : Nat) (a : Word) : Word := (a <<< (64 - n)) >>> (64 - n)

/-- R66: the field descriptor. -/
def fieldPos (b : Word) : Nat := shiftOf b
def fieldLen (b : Word) : Nat := (b.extractLsb' 8 6).toNat + 1
/-- `n` ones. -/
def ones (n : Nat) : Word := zextN n (BitVec.allOnes 64)
def bextW (a b : Word) : Word := (a >>> fieldPos b) &&& ones (fieldLen b)
def binsW (a b c : Word) : Word :=
  let mask := ones (fieldLen b) <<< fieldPos b
  (c &&& ~~~mask) ||| ((a <<< fieldPos b) &&& mask)

/-- The conditions of R34. -/
def condHolds (cc : BitVec 4) (x y : Word) : Bool :=
  match cc with
  | 0x0#4 => x == y
  | 0x1#4 => x != y
  | 0x2#4 => decide (x.toInt < y.toInt)
  | 0x3#4 => decide (y.toInt ≤ x.toInt)
  | 0x4#4 => decide (x.toNat < y.toNat)
  | 0x5#4 => decide (y.toNat ≤ x.toNat)
  | 0x6#4 => decide (y.toInt < x.toInt)
  | 0x7#4 => decide (x.toInt ≤ y.toInt)
  | 0x8#4 => decide (y.toNat < x.toNat)
  | 0x9#4 => decide (x.toNat ≤ y.toNat)
  | 0xA#4 => (x &&& y) != 0#64
  | 0xB#4 => (x &&& y) == 0#64
  | _ => false

/-- The operations of PLOG (R68). -/
def plogOp (op : BitVec 3) (a b : Bool) : Bool :=
  match op with
  | 0#3 => a && b
  | 1#3 => a || b
  | 2#3 => a != b
  | 3#3 => a && !b
  | 4#3 => a || !b
  | 5#3 => !(a && b)
  | 6#3 => !(a || b)
  | _ => a == b

/-- R69: the predicate word as a half reads it. -/
def predWord (h : Side) (c : Context) : Word :=
  match h with
  | .access => (c.preds &&& 0x00FF#16).setWidth 64
  | _ => (c.preds &&& 0xFF01#16).setWidth 64

/-- R69: the predicates that a half owns, without p0. -/
def ownPreds (h : Side) : List (BitVec 4) :=
  match h with
  | .access => [1#4, 2#4, 3#4, 4#4, 5#4, 6#4, 7#4]
  | _ => [8#4, 9#4, 10#4, 11#4, 12#4, 13#4, 14#4, 15#4]

/-- R69: sets the half's predicates from `a` where `b` has a one. -/
def putPreds (h : Side) (a b : Word) (c : Context) : Context :=
  (ownPreds h).foldl (fun c n => if b.getLsbD n.toNat then c.write (.p n (a.getLsbD n.toNat)) else c) c

/-! ## The instructions -/

/-- The outcome of an instruction that has its effect. -/
abbrev Result := Host.Outcome State Fault Refusal

/-- `ADD` (R60). -/
def execAdd (g : Guard) (d s1 s2 : Reg) (s : State) : Result :=
  .next (s.alu (halfOf [s1, s2, d] [g.p]) g d s1 s2 (fun a b => a + b))

/-- `SUB` (R60). -/
def execSub (g : Guard) (d s1 s2 : Reg) (s : State) : Result :=
  .next (s.alu (halfOf [s1, s2, d] [g.p]) g d s1 s2 (fun a b => a - b))

/-- `AND` (R60). -/
def execAnd (g : Guard) (d s1 s2 : Reg) (s : State) : Result :=
  .next (s.alu (halfOf [s1, s2, d] [g.p]) g d s1 s2 (fun a b => a &&& b))

/-- `OR` (R60). -/
def execOr (g : Guard) (d s1 s2 : Reg) (s : State) : Result :=
  .next (s.alu (halfOf [s1, s2, d] [g.p]) g d s1 s2 (fun a b => a ||| b))

/-- `XOR` (R60). -/
def execXor (g : Guard) (d s1 s2 : Reg) (s : State) : Result :=
  .next (s.alu (halfOf [s1, s2, d] [g.p]) g d s1 s2 (fun a b => a ^^^ b))

/-- `ANDN` (R60). -/
def execAndn (g : Guard) (d s1 s2 : Reg) (s : State) : Result :=
  .next (s.alu (halfOf [s1, s2, d] [g.p]) g d s1 s2 (fun a b => a &&& ~~~b))

/-- `ORN` (R60). -/
def execOrn (g : Guard) (d s1 s2 : Reg) (s : State) : Result :=
  .next (s.alu (halfOf [s1, s2, d] [g.p]) g d s1 s2 (fun a b => a ||| ~~~b))

/-- `SHL` (R60). -/
def execShl (g : Guard) (d s1 s2 : Reg) (s : State) : Result :=
  .next (s.alu (halfOf [s1, s2, d] [g.p]) g d s1 s2 (fun a b => a <<< shiftOf b))

/-- `SHR` (R60). -/
def execShr (g : Guard) (d s1 s2 : Reg) (s : State) : Result :=
  .next (s.alu (halfOf [s1, s2, d] [g.p]) g d s1 s2 (fun a b => a >>> shiftOf b))

/-- `SAR` (R60). -/
def execSar (g : Guard) (d s1 s2 : Reg) (s : State) : Result :=
  .next (s.alu (halfOf [s1, s2, d] [g.p]) g d s1 s2 (fun a b => a.sshiftRight (shiftOf b)))

/-- `ROR` (R60). -/
def execRor (g : Guard) (d s1 s2 : Reg) (s : State) : Result :=
  .next (s.alu (halfOf [s1, s2, d] [g.p]) g d s1 s2 (fun a b => a.rotateRight (shiftOf b)))

/-- `ADDSC.2` (R60). -/
def execAddsc2 (g : Guard) (d s1 s2 : Reg) (s : State) : Result :=
  .next (s.alu (halfOf [s1, s2, d] [g.p]) g d s1 s2 (fun a b => a + b * 2#64))

/-- `ADDSC.4` (R60). -/
def execAddsc4 (g : Guard) (d s1 s2 : Reg) (s : State) : Result :=
  .next (s.alu (halfOf [s1, s2, d] [g.p]) g d s1 s2 (fun a b => a + b * 4#64))

/-- `ADDSC.8` (R60). -/
def execAddsc8 (g : Guard) (d s1 s2 : Reg) (s : State) : Result :=
  .next (s.alu (halfOf [s1, s2, d] [g.p]) g d s1 s2 (fun a b => a + b * 8#64))

/-- `ADDSC.16` (R60). -/
def execAddsc16 (g : Guard) (d s1 s2 : Reg) (s : State) : Result :=
  .next (s.alu (halfOf [s1, s2, d] [g.p]) g d s1 s2 (fun a b => a + b * 16#64))

/-- `SEL` (R61): it always executes; its G and N select. -/
def execSel (g : Guard) (d s1 s2 : Reg) (s : State) : Result :=
  .next (s.alu (halfOf [s1, s2, d] [g.p]) Guard.always d s1 s2 fun y z => if s.me.ctx.holds g then y else z)

/-- `MUL` (R62). -/
def execMul (g : Guard) (d s1 s2 : Reg) (s : State) : Result :=
  .next (s.alu (halfOf [s1, s2, d] [g.p]) g d s1 s2 (fun a b => a * b))

/-- `MULH` (R62). -/
def execMulh (g : Guard) (d s1 s2 : Reg) (s : State) : Result :=
  .next (s.alu (halfOf [s1, s2, d] [g.p]) g d s1 s2 mulHigh)

/-- `MULHU` (R62). -/
def execMulhu (g : Guard) (d s1 s2 : Reg) (s : State) : Result :=
  .next (s.alu (halfOf [s1, s2, d] [g.p]) g d s1 s2 mulHighU)

/-- `DIV` (R63). -/
def execDiv (g : Guard) (d s1 s2 : Reg) (s : State) : Result :=
  .next (s.alu (halfOf [s1, s2, d] [g.p]) g d s1 s2 divS)

/-- `DIVU` (R63). -/
def execDivu (g : Guard) (d s1 s2 : Reg) (s : State) : Result :=
  .next (s.alu (halfOf [s1, s2, d] [g.p]) g d s1 s2 divU)

/-- `REM` (R63). -/
def execRem (g : Guard) (d s1 s2 : Reg) (s : State) : Result :=
  .next (s.alu (halfOf [s1, s2, d] [g.p]) g d s1 s2 remS)

/-- `REMU` (R63). -/
def execRemu (g : Guard) (d s1 s2 : Reg) (s : State) : Result :=
  .next (s.alu (halfOf [s1, s2, d] [g.p]) g d s1 s2 remU)

/-- `MIN` (R62). -/
def execMin (g : Guard) (d s1 s2 : Reg) (s : State) : Result :=
  .next (s.alu (halfOf [s1, s2, d] [g.p]) g d s1 s2 minS)

/-- `MAX` (R62). -/
def execMax (g : Guard) (d s1 s2 : Reg) (s : State) : Result :=
  .next (s.alu (halfOf [s1, s2, d] [g.p]) g d s1 s2 maxS)

/-- `MINU` (R62). -/
def execMinu (g : Guard) (d s1 s2 : Reg) (s : State) : Result :=
  .next (s.alu (halfOf [s1, s2, d] [g.p]) g d s1 s2 minU)

/-- `MAXU` (R62). -/
def execMaxu (g : Guard) (d s1 s2 : Reg) (s : State) : Result :=
  .next (s.alu (halfOf [s1, s2, d] [g.p]) g d s1 s2 maxU)

/-- `CLZ` (R65). -/
def execClz (g : Guard) (d s1 : Reg) (s : State) : Result :=
  .next (s.alu (halfOf [s1, d] [g.p]) g d s1 .zero (fun a _ => clz a))

/-- `CTZ` (R65). -/
def execCtz (g : Guard) (d s1 : Reg) (s : State) : Result :=
  .next (s.alu (halfOf [s1, d] [g.p]) g d s1 .zero (fun a _ => ctz a))

/-- `POPC` (R65). -/
def execPopc (g : Guard) (d s1 : Reg) (s : State) : Result :=
  .next (s.alu (halfOf [s1, d] [g.p]) g d s1 .zero (fun a _ => popc a))

/-- `BREV` (R65). -/
def execBrev (g : Guard) (d s1 : Reg) (s : State) : Result :=
  .next (s.alu (halfOf [s1, d] [g.p]) g d s1 .zero (fun a _ => brev a))

/-- `BSWAP` (R65). -/
def execBswap (g : Guard) (d s1 : Reg) (s : State) : Result :=
  .next (s.alu (halfOf [s1, d] [g.p]) g d s1 .zero (fun a _ => bswap a))

/-- `SEXT` (R65). -/
def execSext (g : Guard) (d s1 s2 : Reg) (s : State) : Result :=
  .next (s.alu (halfOf [s1, s2, d] [g.p]) g d s1 s2 (fun a b => sextN (extWidth b) a))

/-- `ZEXT` (R65). -/
def execZext (g : Guard) (d s1 s2 : Reg) (s : State) : Result :=
  .next (s.alu (halfOf [s1, s2, d] [g.p]) g d s1 s2 (fun a b => zextN (extWidth b) a))

/-- `BEXT` (R65, R66). -/
def execBext (g : Guard) (d s1 s2 : Reg) (s : State) : Result :=
  .next (s.alu (halfOf [s1, s2, d] [g.p]) g d s1 s2 bextW)

/-- `BINS` (R65, R66): it reads its destination. -/
def execBins (g : Guard) (d s1 s2 : Reg) (s : State) : Result :=
  .next (s.attempt (s.me.ctx.frame (halfOf [s1, s2, d] [g.p]) g s1 s2 true d fun a b c => (binsW a b c, {})))

/-- `BSET` (R65). -/
def execBset (g : Guard) (d s1 s2 : Reg) (s : State) : Result :=
  .next (s.alu (halfOf [s1, s2, d] [g.p]) g d s1 s2 (fun a b => putBit a (shiftOf b) true))

/-- `BCLR` (R65). -/
def execBclr (g : Guard) (d s1 s2 : Reg) (s : State) : Result :=
  .next (s.alu (halfOf [s1, s2, d] [g.p]) g d s1 s2 (fun a b => putBit a (shiftOf b) false))

/-- `BTST` (R65). -/
def execBtst (g : Guard) (pd : BitVec 4) (s1 s2 : Reg) (s : State) : Result :=
  .next (s.attempt (s.me.ctx.frameP (halfOf [s1, s2] [pd, g.p]) g s1 s2 pd fun a b => (a.getLsbD (shiftOf b), {})))

/-- `CMP` (R67). -/
def execCmp (g : Guard) (cc pd : BitVec 4) (s1 s2 : Reg) (s : State) : Result :=
  .next (s.attempt (s.me.ctx.frameP (halfOf [s1, s2] [pd, g.p]) g s1 s2 pd fun a b => (condHolds cc a b, {})))

/-- `PLOG` (R68). -/
def execPlog (g : Guard) (op : BitVec 3) (pd pa pb : BitVec 4) (s : State) : Result :=
  let c := s.me.ctx
  .next (s.done (if c.holds g then c.write (.p pd (plogOp op (c.pred pa) (c.pred pb))) else c))

/-- `PGET` (R69). -/
def execPget (g : Guard) (d : Reg) (s : State) : Result :=
  let h := halfOf [d] [g.p]
  .next (s.alu h g d .zero .zero fun _ _ => predWord h s.me.ctx)

/-- `PPUT` (R69). One that names no register goes to the half that owns its guard, by R47. (DEDUCED, log 100.) -/
def execPput (g : Guard) (s1 s2 : Reg) (s : State) : Result :=
  let h := halfOf [s1, s2] [g.p]
  .next (s.attempt (match s.me.ctx.read h s1 with
    | .error q => .error q
    | .ok (a, c1) =>
      match c1.read h s2 with
      | .error q => .error q
      | .ok (b, c2) => .ok (if c2.holds g then putPreds h a b c2 else c2)))

/-- `ADDI` (R70). -/
def execAddi (d s1 : Reg) (imm : BitVec 15) (s : State) : Result :=
  .next (s.alu (halfOf [s1, d] []) Guard.always d s1 .zero fun a _ => a + imm.signExtend 64)

/-- `ANDI` (R70). -/
def execAndi (d s1 : Reg) (imm : BitVec 15) (s : State) : Result :=
  .next (s.alu (halfOf [s1, d] []) Guard.always d s1 .zero fun a _ => a &&& imm.signExtend 64)

/-- `ORI` (R70). -/
def execOri (d s1 : Reg) (imm : BitVec 15) (s : State) : Result :=
  .next (s.alu (halfOf [s1, d] []) Guard.always d s1 .zero fun a _ => a ||| imm.signExtend 64)

/-- `XORI` (R70). -/
def execXori (d s1 : Reg) (imm : BitVec 15) (s : State) : Result :=
  .next (s.alu (halfOf [s1, d] []) Guard.always d s1 .zero fun a _ => a ^^^ imm.signExtend 64)

/-- `SHLI` (R71). -/
def execShli (d s1 : Reg) (amt : BitVec 6) (s : State) : Result :=
  .next (s.alu (halfOf [s1, d] []) Guard.always d s1 .zero fun a _ => a <<< amt.toNat)

/-- `SHRI` (R71). -/
def execShri (d s1 : Reg) (amt : BitVec 6) (s : State) : Result :=
  .next (s.alu (halfOf [s1, d] []) Guard.always d s1 .zero fun a _ => a >>> amt.toNat)

/-- `SARI` (R71). -/
def execSari (d s1 : Reg) (amt : BitVec 6) (s : State) : Result :=
  .next (s.alu (halfOf [s1, d] []) Guard.always d s1 .zero fun a _ => a.sshiftRight amt.toNat)

/-- `RORI` (R71). -/
def execRori (d s1 : Reg) (amt : BitVec 6) (s : State) : Result :=
  .next (s.alu (halfOf [s1, d] []) Guard.always d s1 .zero fun a _ => a.rotateRight amt.toNat)

/-- `CMPI` (R72). -/
def execCmpi (cc pd : BitVec 4) (s1 : Reg) (imm : BitVec 11) (s : State) : Result :=
  .next (s.attempt (s.me.ctx.frameP (halfOf [s1] [pd]) Guard.always s1 .zero pd
    fun a _ => (condHolds cc a (imm.signExtend 64), {})))

/-- `LIH` (R73). -/
def execLih (d : Reg) (imm : BitVec 20) (s : State) : Result :=
  .next (s.alu (halfOf [d] []) Guard.always d .zero .zero fun _ _ => (imm ++ 0#12).signExtend 64)

end Sys2Proof.Machine
end

