-- ==== Sys2Proof/Machine/SysReg.lean ====
section
/-! DEFINITION. The system registers (R95 to R101) and the meanings of `SYSRD` and `SYSWR`. -/

namespace Sys2Proof.Machine

/-- R96: the registers that need SUP = 1. -/
def supervisorOnly (n : BitVec 12) : Bool := 0x10 ≤ n.toNat

/-- R2, R354: the current speed-table code of a core. -/
def State.speedCode (s : State) (core : Nat) : Nat := max 4 (Config.testedCode core - (s.core core).speed.inUse)

/-- R101: CORESPEED. -/
def State.coreSpeed (s : State) (core : Nat) : Word :=
  BitVec.ofNat 64 (s.speedCode core % 64 + if (Tab.get none s.sags (clusterOfCore core)).isSome then 64 else 0)

/-- R96, R97: SSTATUS. -/
def sstatus (y : SysRegs) : Word :=
  0#32 ++ (if y.status.getLsbD supBit then y.tsave else 0#16) ++ y.status

/-- R101: ROAM. -/
def roamReg (c : Context) : Word :=
  0#31 ++ BitVec.ofBool (c.sys.status.getLsbD roamBit) ++ c.acc.refused ++ c.acc.migrated

/-- What a read of a system register returns (R96). -/
def State.sysRead (s : State) (n : BitVec 12) : Word :=
  let c := s.me.ctx
  let y := c.sys
  let i := n.toNat
  if i = 0 then sstatus y
  else if i = 1 then s.me.sid.setWidth 64
  else if i = 2 then s.me.count ++ s.me.rank
  else if i = 3 then s.coreSpeed s.me.core
  else if i = 4 then BitVec.ofNat 64 s.tick
  else if i = 5 then roamReg c
  else if i = 6 then c.acc.poisonCnt.setWidth 64
  else if i = 7 then s.myCore.recctl
  else if i = 0x10 then y.trappc
  else if i = 0x11 then y.trapcause
  else if i = 0x12 then y.trapval
  else if i = 0x13 then s.myPart.trapvec
  else if i < 0x18 then y.scratch.toList.getD (i - 0x14) 0#64
  else if i = 0x18 then y.tqstat
  else if i = 0x19 then y.tqbits
  else if i < 0x30 then y.tqlq.toList.getD (i - 0x20) 0#64
  else y.tqsq.toList.getD (i - 0x30) 0#64

/-- R12, R101: reading clears the fields of kind RC. -/
def clearOnRead (n : BitVec 12) (c : Context) : Context :=
  if n = 5#12 then { c with acc := { c.acc with refused := 0#16, migrated := 0#16 } }
  else if n = 6#12 then { c with acc := { c.acc with poisonCnt := 0#32 } }
  else c

/-- R18: a write of the status half-word. ROAM and FRM are written, sticky flags and MIG are cleared by ones. -/
def writeStatus (old v : BitVec 16) : BitVec 16 := (old &&& ~~~0x5800#16 &&& ~~~(v &&& 0x07C2#16)) ||| (v &&& 0x5800#16)

/-- R100: a count of TQSTAT, stored as at most its maximum. -/
def clampField (v : Word) (lo n top : Nat) : Nat := min (v.extractLsb' lo n).toNat top
def writeTqstat (v : Word) : Word :=
  BitVec.ofNat 64 (clampField v 0 5 16 + 0x100 * clampField v 8 5 16 + 0x10000 * clampField v 16 4 8 +
    0x100000 * clampField v 20 4 8)

/-- What a write of a strand's system register changes (R96 to R101); read-only registers keep their value. -/
def sysWrite (n : BitVec 12) (v : Word) (c : Context) : Context :=
  let y := c.sys
  let i := n.toNat
  let set (y : SysRegs) : Context := { c with sys := y }
  if i = 0 then
    set { y with
      status := writeStatus y.status (v.setWidth 16)
      tsave := if y.status.getLsbD supBit then v.extractLsb' 16 16 else y.tsave }
  else if i = 5 then set { y with status := putBit y.status roamBit (v.getLsbD 32) }
  else if i = 0x10 then set { y with trappc := v }
  else if i = 0x11 then set { y with trapcause := v &&& 0x7FFFFFF#64 }
  else if i = 0x12 then set { y with trapval := v }
  else if 0x14 ≤ i ∧ i < 0x18 then set { y with scratch := y.scratch.setIfInBounds (i - 0x14) v }
  else if i = 0x18 then set { y with tqstat := writeTqstat v }
  else if i = 0x19 then set { y with tqbits := v &&& 0xFFFF#64 }
  else if 0x20 ≤ i ∧ i < 0x30 then set { y with tqlq := y.tqlq.setIfInBounds (i - 0x20) v }
  else if 0x30 ≤ i then set { y with tqsq := y.tqsq.setIfInBounds (i - 0x30) v }
  else c

/-- R335: RECCTL belongs to the core. -/
def State.writeRecctl (s : State) (n : BitVec 12) (v : Word) : State :=
  if n = 7#12 then s.modifyCore s.me.core fun k => { k with recctl := v &&& 0xFFFFFF01#64 } else s

/-- `SYSRD` (R95). -/
def sysrdStep (d : Reg) (n : BitVec 12) (s : State) : State :=
  if supervisorOnly n ∧ s.me.sup = false then s.trap (s.wordTrap .privilegeFault)
  else
    match s.me.ctx.writeReg (halfOf [d] []) 0 0 d (s.sysRead n) with
    | .error q => s.hold q
    | .ok c => s.done (clearOnRead n c)

/-- `SYSWR` (R95). -/
def syswrStep (n : BitVec 12) (s1 : Reg) (s : State) : State :=
  if supervisorOnly n ∧ s.me.sup = false then s.trap (s.wordTrap .privilegeFault)
  else
    match s.me.ctx.read (halfOf [s1] []) s1 with
    | .error q => s.hold q
    | .ok (v, c) => (s.writeRecctl n v).done (sysWrite n v c)

/-- `SYSRD` (R95): it waits for the other half. -/
def execSysrd (d : Reg) (n : BitVec 12) (s : State) : Result := .next (s.together (sysrdStep d n))
/-- `SYSWR` (R95): it waits for the other half. -/
def execSyswr (n : BitVec 12) (s1 : Reg) (s : State) : Result := .next (s.together (syswrStep n s1))

end Sys2Proof.Machine
end

