-- ==== Sys2Proof/Machine/Control.lean ====
section
/-! DEFINITION. Branches, jumps and the outcomes that pass between the halves (R84 to R88), and `NOP`, `TRAP`, `BRK` and `ERET` (R91, R107). -/

namespace Sys2Proof.Machine

/-- The half that lags behind the instruction now issuing, if one does. -/
def State.lagging (s : State) : Option Side := s.me.deferred.head?.map (·.lag)

/-- Records what the lagging half still has to do of the instruction now issuing. `snap` is the context before it. -/
def State.defer (s : State) (w : Held) (lag : Side) (snap : Context) : State :=
  { s with me := { s.me with deferred := s.me.deferred ++ [⟨s.me.issue, w, lag, snap⟩] } }

/-- The branch queue that a half pushes (R84). -/
def outcomeQueue (owner : Side) : QueueName := if owner = .access then .bqa else .bqe
def Queues.outcomes (q : Queues) (owner : Side) : List Bool := if owner = .access then q.bqa else q.bqe
def Queues.setOutcomes (q : Queues) (owner : Side) (l : List Bool) : Queues :=
  if owner = .access then { q with bqa := l } else { q with bqe := l }
def Context.setOutcomes (c : Context) (owner : Side) (l : List Bool) : Context :=
  { c with queues := c.queues.setOutcomes owner l }

/-- R84: the half `owner` resolves the instruction with outcome `t` and pushes it; the other half pops it when it reaches
the instruction. `f` is the effect once the outcome is known. Where the other half lags, its pop is recorded; where the
resolving half itself lags, the instruction is held on the queue. -/
def State.resolve (s : State) (owner : Side) (t : Bool) (f : State → State) : State :=
  let q := s.me.ctx.queues.outcomes owner
  match s.lagging with
  | none => f (s.setCtx (s.me.ctx.setOutcomes owner (q ++ [t]).tail))
  | some lag =>
    if lag = owner then s.hold (outcomeQueue owner)
    else if 8 ≤ q.length then s.hold (outcomeQueue owner)
    else (f (s.setCtx (s.me.ctx.setOutcomes owner (q ++ [t])))).defer .follow lag s.me.ctx

/-- The instruction is complete with the program counter at `pc`. -/
def State.jump (s : State) (pc : Word) : State := { s with me := { s.me with pc := pc, note := .done } }
/-- The instruction is complete and the next one follows. -/
def State.proceed (s : State) : State := { s with me := { s.me with note := .done } }

/-- A displacement in halfwords. -/
def halfwords {w : Nat} (off : BitVec w) : Word := off.signExtend 64 <<< 1

/-- R85. -/
def brStep (neg : Bool) (p : BitVec 4) (off : BitVec 20) (s : State) : State :=
  let target := s.me.issue.addr + halfwords off
  if p = 0#4 then s.jump target
  else
    let t := s.me.ctx.pred p != neg
    s.resolve (predOwner p) t fun s => if t then s.jump target else s.proceed

/-- `BR` (R85). -/
def execBr (neg : Bool) (p : BitVec 4) (off : BitVec 20) (s : State) : Result := .next (brStep neg p off s)

/-- The half that owns a link register or a jump register, if one does. -/
def Reg.owner : Reg → Option Side
  | .a _ => some .access
  | .d _ => some .execute
  | _ => none

/-- R86: the half that owns the link register writes it; where that half lags, the write is recorded. -/
def State.writeLink (s : State) (d : Reg) (v : Word) : State :=
  if s.lagging.isSome ∧ Reg.owner d = s.lagging then s.defer (.link d v) (s.lagging.getD .execute) s.me.ctx
  else
    match d with
    | .a n => s.setCtx (s.me.ctx.write (.a n v))
    | .d n => s.setCtx (s.me.ctx.write (.d n v))
    | _ => s

/-- `JAL` (R86). -/
def execJal (d : Reg) (off : BitVec 20) (s : State) : Result :=
  .next ((s.writeLink d (s.me.issue.addr + 4#64)).jump (s.me.issue.addr + halfwords off))

/-- The value of the register that resolves a `JALR` or a `SWITCH`. -/
def jumpValue (r : Reg) (c : Context) : Word :=
  match r with
  | .a n => c.acc.a[n]
  | .d n => c.exe.d[n]
  | _ => 0#64

/-- R87. -/
def jalrStep (d s1 : Reg) (imm : BitVec 15) (s : State) : State :=
  let t := jumpValue s1 s.me.ctx + halfwords imm
  let owner := (Reg.owner s1).getD .execute
  if s.lagging = some owner then s.hold (outcomeQueue owner)
  else if t.getLsbD 0 then s.trap ⟨.misaligned, t⟩
  else s.resolve owner true fun s => (s.writeLink d (s.me.issue.addr + 4#64)).jump t

/-- `JALR` (R87). -/
def execJalr (d s1 : Reg) (imm : BitVec 15) (s : State) : Result := .next (jalrStep d s1 imm s)

/-- R90: the guard of an instruction of major 0x14, passed between the halves (R84). (DEDUCED, log 75.) -/
def State.guarded (s : State) (g : Guard) (f : State → State) : State :=
  if g.p = 0#4 then f s
  else
    let t := s.me.ctx.holds g
    if t then s.together fun s => s.resolve (predOwner g.p) true f
    else s.resolve (predOwner g.p) false State.proceed

/-- `NOP` (R91). -/
def execNop (g : Guard) (s : State) : Result :=
  .next (if g.p = 0#4 then s.proceed else s.resolve (predOwner g.p) (s.me.ctx.holds g) State.proceed)

/-- The operand of `TRAP` and `BRK` (R91). -/
def trapOperand (r : Reg) (c : Context) : Word :=
  match r with
  | .lit w => litValue w
  | r => jumpValue r c

/-- R103: the effect of a guard's outcome on the branch queues is undone where the instruction traps. -/
def trapStep (c : Cause) (s1 : Reg) (after : Bool) (orig : State) : State :=
  orig.trapAt ⟨c, trapOperand s1 orig.me.ctx⟩ (if after then orig.me.issue.next else orig.me.issue.addr)

/-- `TRAP` (R91): TRAPPC names the instruction after it. -/
def execTrap (g : Guard) (s1 : Reg) (s : State) : Result :=
  .next (s.guarded g fun _ => s.together (trapStep .trapInstruction s1 true))

/-- `BRK` (R91). -/
def execBrk (g : Guard) (s1 : Reg) (s : State) : Result :=
  .next (s.guarded g fun _ => s.together (trapStep .breakpoint s1 false))

/-- The first `n` entries of a save area. -/
def restored (q : Vector Word 16) (n : Nat) : List Word := q.toList.take n
/-- The first `n` saved outcomes of a byte. -/
def restoredBits (v : Word) (lo n : Nat) : List Bool := (List.range n).map fun i => v.getLsbD (lo + i)

/-- R107 step 3: the queues filled from the save area. -/
def refill (y : SysRegs) : Queues where
  lq := restored y.tqlq (clampField y.tqstat 0 5 16)
  sq := restored y.tqsq (clampField y.tqstat 8 5 16)
  bqa := restoredBits y.tqbits 0 (clampField y.tqstat 16 4 8)
  bqe := restoredBits y.tqbits 8 (clampField y.tqstat 20 4 8)

/-- R107 step 3: ROAM and FRM from TSAVE, SUP 0. (DEDUCED, log 75.) -/
def returnStatus (status tsave : BitVec 16) : BitVec 16 := (status &&& 0x27FF#16) ||| (tsave &&& 0x5800#16)

/-- R107: return from a trap. (DEDUCED, log 75.) -/
def eretStep (s : State) : State :=
  if s.me.sup = false then s.trap (s.wordTrap .privilegeFault)
  else
    let c := s.me.ctx.closeAll
    match c.queues.first with
    | some q => s.trap ⟨.queueMisuse, q.code⟩
    | none =>
      { s with me := { s.me with
          ctx := { c with queues := refill c.sys, sys := { c.sys with status := returnStatus c.sys.status c.sys.tsave } }
          pc := c.sys.trappc &&& ~~~1#64
          note := .done } }

/-- `ERET` (R102, R107). -/
def execEret (g : Guard) (s : State) : Result := .next (s.guarded g fun s => s.together eretStep)

end Sys2Proof.Machine
end

