-- ==== Sys2Proof/Machine/Fetch.lean ====
section
/-! DEFINITION. Fetching the instruction stream (R27, R28, R447), and `SWITCH` (R88). -/

namespace Sys2Proof.Machine

/-- A byte that a fetch reads. Another package's memory is outside the model: its bytes are free values. (DESIGN CHOICE, log 17.) -/
def State.fetchByte (s : State) (key : Nat) : Byte := if 2 ^ 52 ≤ key then Config.foreignByte key else s.mem.byte key

/-- The set of an instruction cache in which a line stands: 128 sets of 4 ways. (DESIGN CHOICE, log 94.) -/
def instrSet (line : Nat) : Nat := line % 128

/-- R184, R186: the line of the instruction stream that holds a key, from the core's instruction cache, which a line that is not
there enters; in a full set it replaces any other. (DEDUCED, log 80; DESIGN CHOICE, log 94.) -/
def State.instrLine (s : State) (core key : Nat) : InstrLine × State :=
  let line := key / 64
  let held := (s.core core).icache
  match held.find? fun x => x.line == line with
  | some x => (x, s)
  | none =>
    let x : InstrLine := ⟨line, (List.range 64).map fun i => s.fetchByte (64 * line + i)⟩
    let set := held.filter fun y => instrSet y.line == instrSet line
    if set.length < 4 then (x, s.modifyCore core fun k => { k with icache := x :: held })
    else
      let d := s.draw
      let v := set.getD (d.1 % set.length) x
      (x, d.2.modifyCore core fun k => { k with icache := x :: held.filter fun y => y != v })

/-- R447: fetches a halfword: its value and the effects of the walk. (DEDUCED, log 80.) -/
def State.fetchHalf (s : State) (va : Word) : Except Trap (Half16 × State) :=
  match s.checkFetch va with
  | .error t => .error t
  | .ok p =>
    let r := (s.usePage s.me.launch.part s.me.core false p).1.instrLine s.me.core p.key
    .ok (r.1.bytes.getD (p.key % 64 + 1) 0#8 ++ r.1.bytes.getD (p.key % 64) 0#8, r.2)

/-- R28, R447: fetches a 32-bit word of the instruction stream, as two halfwords, the lower one with all its checks first. A fetch that fails
names the word. (DESIGN CHOICE, log 104.) -/
def State.fetchWord (s : State) (va : Word) : Except Trap (Word32 × State) :=
  match s.fetchHalf va with
  | .error t => .error ⟨t.cause, va⟩
  | .ok (lo, s1) =>
    match s1.fetchHalf (va + 2#64) with
    | .error t => .error ⟨t.cause, va⟩
    | .ok (hi, s2) => .ok (hi ++ lo, s2)

/-- R88: the resolving half reads y; only entry y is fetched. -/
def switchStep (s1 : Reg) (n : BitVec 15) (s : State) : State :=
  let i := jumpValue s1 s.me.ctx
  let owner := (Reg.owner s1).getD .execute
  if s.lagging = some owner then s.hold (outcomeQueue owner)
  else if i.toNat < n.toNat then
    match s.fetchWord (s.me.issue.addr + 4#64 + 4#64 * i) with
    | .error t => s.trap t
    | .ok (e, s1) => s1.resolve owner true fun s => s.jump (s.me.issue.addr + halfwords e)
  else s.resolve owner true fun s => s.jump (s.me.issue.addr + 4#64 + 4#64 * n.setWidth 64)

/-- `SWITCH` (R88). -/
def execSwitch (s1 : Reg) (n : BitVec 15) (s : State) : Result := .next (switchStep s1 n s)

end Sys2Proof.Machine
end

