-- ==== Sys2Proof/Machine/HeaderPack.lean ====
section
/-! DEFINITION. The field-layout table and the meanings of `HPACK`, `HPARSE` and `HLAYOUT`, major 0x05 (R187 to R192). -/

namespace Sys2Proof.Machine

/-- A present field of a layout (R187). -/
structure LayoutField where
  len : Nat
  skip : Bool
  sgn : Bool
  deriving DecidableEq, Repr

/-- The eight fields of a layout word. -/
def layoutAll (l : Word) : List LayoutField :=
  (List.range 8).map fun i => ⟨(l.extractLsb' (6 * i) 6).toNat, l.getLsbD (48 + i), l.getLsbD (56 + i)⟩
/-- The present fields, from bit 0 upward (R187). -/
def layoutFields (l : Word) : List LayoutField := (layoutAll l).filter fun f => f.len != 0
/-- The count of a layout (R187). -/
def layoutCount (l : Word) : Nat := ((layoutFields l).filter fun f => !f.skip).length

/-- R190: a layout word that `HLAYOUT` accepts. -/
def layoutOk (l : Word) : Bool :=
  ((layoutAll l).foldl (fun n f => n + f.len) 0 ≤ 64) &&
    (layoutAll l).all fun f => !(f.len == 0 && (f.sgn || f.skip)) && !(f.sgn && f.skip)

/-- R190: packs values into a header from bit `pos` on. -/
def packFrom (pos : Nat) : List LayoutField → List Word → Word
  | [], _ => 0#64
  | f :: fs, vs =>
    if f.skip then packFrom (pos + f.len) fs vs
    else ((vs.headD 0#64 &&& ones f.len) <<< pos) ||| packFrom (pos + f.len) fs vs.tail

/-- R190: splits a header from bit `pos` on. -/
def parseFrom (y : Word) (pos : Nat) : List LayoutField → List Word
  | [] => []
  | f :: fs =>
    if f.skip then parseFrom y (pos + f.len) fs
    else
      let v := y >>> pos
      (if f.sgn then sextN f.len v else zextN f.len v) :: parseFrom y (pos + f.len) fs

/-- Pops `n` values, the oldest first. -/
def Context.popMany (h : Side) : Nat → Context → Attempt (List Word × Context)
  | 0, c => .ok ([], c)
  | n + 1, c =>
    match c.pop h with
    | .error q => .error q
    | .ok (v, c1) =>
      match Context.popMany h n c1 with
      | .error q => .error q
      | .ok (vs, c2) => .ok (v :: vs, c2)

/-- Pushes values in order. -/
def Context.pushMany (h : Side) : List Word → Context → Attempt Context
  | [], c => .ok c
  | v :: vs, c =>
    match c.push h v with
    | .error q => .error q
    | .ok c1 => Context.pushMany h vs c1

/-- Writes values to successive d-registers from `k` on. -/
def Context.writeRun (c : Context) (k : Nat) : List Word → Context
  | [] => c
  | v :: vs => if h : k < 12 then (c.write (.d ⟨k, h⟩ v)).writeRun (k + 1) vs else c

/-- R190: the field values that S1 selects for `HPACK`. -/
def packValues (s1 : Reg) (n : Nat) (c : Context) : Attempt (List Word × Context) :=
  match s1 with
  | .d k => .ok ((List.range n).map fun j => c.exe.d.toList.getD (k.val + j) 0#64, c)
  | .lit w => .ok (List.replicate n (litValue w), c)
  | .queue => c.popMany .execute n
  | _ => .ok (List.replicate n 0#64, c)

/-- R190: whether a run of `n` registers from a register passes d11. -/
def runsOver (r : Reg) (n : Nat) : Bool :=
  match r with
  | .d k => decide (12 < k.val + n)
  | _ => false

/-- Ends an instruction, holds it, or raises a trap. -/
def State.finish (s : State) (r : Attempt (Except Trap Context)) : State :=
  match r with
  | .error q => s.hold q
  | .ok (.error t) => s.trap t
  | .ok (.ok c) => s.done c

/-- `HPACK` (R190, R191). -/
def packStep (s : State) (g : Guard) (d s1 s2 : Reg) : Attempt (Except Trap Context) :=
  match s.me.ctx.read .execute s2 with
  | .error q => .error q
  | .ok (r, c1) =>
    let l := s.myCore.layouts.toList.getD (shiftOf r) 0#64
    let n := layoutCount l
    let on := c1.holds g
    if on ∧ 64 ≤ r.toNat then .ok (.error (s.wordTrap .illegalCombination))
    else if on ∧ runsOver s1 n then .ok (.error (s.wordTrap .illegalCombination))
    else
      match packValues s1 n c1 with
      | .error q => .error q
      | .ok (vs, c2) =>
        if on then
          match c2.writeReg .execute 0 0 d (packFrom 0 (layoutFields l) vs) with
          | .error q => .error q
          | .ok c => .ok (.ok c)
        else if d = .queue then
          match c2.push .execute 0#64 with
          | .error q => .error q
          | .ok c => .ok (.ok c)
        else .ok (.ok c2)

/-- `HPARSE` (R190, R191): the header is popped first, then the index. -/
def parseStep (s : State) (g : Guard) (d s1 s2 : Reg) : Attempt (Except Trap Context) :=
  match s.me.ctx.read .execute s1 with
  | .error q => .error q
  | .ok (y, c1) =>
    match c1.read .execute s2 with
    | .error q => .error q
    | .ok (r, c2) =>
      let l := s.myCore.layouts.toList.getD (shiftOf r) 0#64
      let n := layoutCount l
      if c2.holds g then
        if 64 ≤ r.toNat then .ok (.error (s.wordTrap .illegalCombination))
        else if runsOver d n then .ok (.error (s.wordTrap .illegalCombination))
        else
          let vs := parseFrom y 0 (layoutFields l)
          match d with
          | .d k => .ok (.ok (c2.writeRun k.val vs))
          | .queue =>
            match c2.pushMany .execute vs with
            | .error q => .error q
            | .ok c => .ok (.ok c)
          | _ => .ok (.ok c2)
      else if d = .queue then
        match c2.pushMany .execute (List.replicate n 0#64) with
        | .error q => .error q
        | .ok c => .ok (.ok c)
      else .ok (.ok c2)

/-- `HPACK` (R190). -/
def execHpack (g : Guard) (d s1 s2 : Reg) (s : State) : Result := .next (s.finish (packStep s g d s1 s2))

/-- `HPARSE` (R190). -/
def execHparse (g : Guard) (d s1 s2 : Reg) (s : State) : Result := .next (s.finish (parseStep s g d s1 s2))

/-- `HLAYOUT` (R190): the table entry changes in one step with the write of the old one (R188). -/
def execHlayout (g : Guard) (d s1 s2 : Reg) (s : State) : Result :=
  match s.me.ctx.read .execute s1 with
  | .error q => .next (s.hold q)
  | .ok (r, c1) =>
    match c1.read .execute s2 with
    | .error q => .next (s.hold q)
    | .ok (w, c2) =>
      if c2.holds g then
        if 64 ≤ r.toNat ∨ layoutOk w = false then .next (s.trap (s.wordTrap .illegalCombination))
        else
          match c2.writeReg .execute 0 0 d (s.myCore.layouts.toList.getD (shiftOf r) 0#64) with
          | .error q => .next (s.hold q)
          | .ok c => .next ((s.modifyCore s.me.core fun k =>
              { k with layouts := k.layouts.setIfInBounds (shiftOf r) w }).done c)
      else .next (s.attempt (if d = .queue then c2.push .execute 0#64 else .ok c2))

end Sys2Proof.Machine
end

