-- ==== Sys2Proof/Machine/Access.lean ====
section
/-! DEFINITION. Scalar memory: the two parts of an instruction of R48, accesses at their homes (R116 to R125), waits on full/empty bits and their wakes (R121, R122), migration (R22) and remote accesses (R340). -/

namespace Sys2Proof.Machine

/-! ## The two parts of R48 -/

/-- Where the parts of a memory instruction stand as it issues. -/
inductive Parts where
  /-- The access half does all of it. -/
  | single
  /-- Both halves stand at it. -/
  | joined
  /-- The access half is ahead of the execute half, which does its part later. -/
  | accessAhead
  /-- The execute half is ahead. -/
  | executeAhead
  /-- The access half does its part of an instruction that the execute half has passed. -/
  | accessBehind
  deriving DecidableEq, Repr

def State.partsOf (s : State) (x : Reg) : Parts :=
  match x with
  | .d _ =>
    if s.me.undo.isSome then .accessBehind
    else
      match s.lagging with
      | none => .joined
      | some .access => .executeAhead
      | some _ => .accessAhead
  | _ => .single

/-- The register whose code is one above (R37). -/
def regSucc : Reg → Reg
  | .a n => .a (n + 1)
  | .d n => .d (n + 1)
  | r => r

/-- The values of `n` successive registers from x on. -/
def Context.regRun (c : Context) (x : Reg) : Nat → List Word
  | 0 => []
  | n + 1 => jumpValue x c :: c.regRun (regSucc x) n

/-- The `n` operands that the access half takes from the data register: from the register itself, or through `sq`. -/
def Context.operands (c : Context) (p : Parts) (x : Reg) (n : Nat) : Attempt (List Word × Context) :=
  match p with
  | .single => if x = .queue then c.popMany .access n else .ok (c.regRun x n, c)
  | .joined =>
    let q := c.queues.sq ++ c.regRun x n
    .ok (q.take n, { c with queues := { c.queues with sq := q.drop n } })
  | _ => c.popMany .access n

/-- Whether the push of a result would hold the access half on a full `lq` (R16). -/
def Context.lqBlocked (c : Context) (p : Parts) (x : Reg) : Bool :=
  16 ≤ c.queues.lq.length &&
    (match p with
    | .single => x == .queue
    | .joined => false
    | _ => true)

/-- The result of the access part reaches the data register, or `lq` on its way there. -/
def Context.deliver (c : Context) (p : Parts) (pos la : Nat) (x : Reg) (v : Word) : Attempt Context :=
  match p, x with
  | .single, x => c.writeReg .access pos la x v
  | .joined, .d n =>
    match c.queues.lq ++ [v] with
    | h :: t => .ok (({ c with queues := { c.queues with lq := t } } : Context).writeLate pos la (.d n h))
    | [] => .ok c
  | _, _ => c.push .access v

/-- Where a value goes (R116, R123). -/
def Context.deliverTo (c : Context) (p : Parts) (pos la : Nat) (d : Dest) (v : Word) : Attempt Context :=
  match d with
  | .reg x => c.deliver p pos la x v
  | .pred q => .ok (c.writeLate pos la (.p q (v != 0#64)))
  | .none => .ok c

/-- What the execute half has still to do of an instruction that the access half has passed. -/
def State.leaveBehind (s : State) (p : Parts) (x : Reg) (args : Nat) (res : Bool) (la : Nat) (snap : Context) : State :=
  match p, x with
  | .accessAhead, .d n =>
    let pushes := (List.range args).map fun i => Held.pushFrom (n + Fin.ofNat 12 i)
    (pushes ++ if res then [Held.popTo n la] else []).foldl (fun s h => s.defer h .execute snap) s
  | _, _ => s

/-! ## Accesses at their homes -/

/-- A memory instruction. -/
structure Access where
  instr : Instr
  op : Word → Word → RemoteOp
  size : Nat
  need : Need
  base : Reg
  /-- The byte offset. -/
  off : Word
  la : Nat
  /-- The data register, the operands it gives and whether it takes a result. -/
  x : Reg := .zero
  args : Nat := 0
  res : Bool := false
  signed : Bool := true
  /-- The predicate of `FETEST`. -/
  pd : Option (BitVec 4) := none
  /-- A full/empty operation, which host memory does not serve (R111). -/
  fe : Bool := false

def Access.dest (a : Access) : Dest :=
  match a.pd with
  | some p => .pred p
  | none => if a.res then .reg a.x else .none

/-- A loaded value as the register receives it (R116). -/
def extend (signed : Bool) (n v : Nat) : Word :=
  if signed then sextN (8 * n) (BitVec.ofNat 64 v) else zextN (8 * n) (BitVec.ofNat 64 v)

/-- R118: what an `AMO` stores, of 8n-bit operands. -/
def amoResult (op : BitVec 3) (n : Nat) (old a : Word) : Word :=
  let x := sextN (8 * n) old
  let y := sextN (8 * n) a
  match op.toNat with
  | 0 => x + y
  | 1 => x &&& y
  | 2 => x ||| y
  | 3 => x ^^^ y
  | 4 => y
  | 5 => minS x y
  | 6 => maxS x y
  | _ => maxU (zextN (8 * n) old) (zextN (8 * n) a)

/-- The keys of the words that a full/empty operation tests. -/
def feWords (key n : Nat) : List Nat := if n = 8 then [key, key + 4] else [key]

/-- R121: whether the test of an operation fails. -/
def mustWait (m : Mem) (key n : Nat) : RemoteOp → Bool
  | .ldf => (feWords key n).any fun k => !m.isFull k
  | .lde => (feWords key n).any fun k => !m.isFull k
  | .stf _ => (feWords key n).any m.isFull
  | _ => false

def setFulls (m : Mem) (key n : Nat) (b : Bool) : Mem := (feWords key n).foldl (fun m k => m.setFull k b) m

/-- A read at the home, without its timestamps (R125), for an operation that stores or may store where `own` (R381). (DESIGN CHOICE, log 17.) -/
def State.readHome (s : State) (va : Word) (key n : Nat) (own : Bool) : Except Trap (Nat × State) :=
  if isHost key && s.host.linkDown then
    if s.myPart.poisonTrap then .error ⟨.poisonConsumed, va &&& ~~~3#64⟩ else .ok (0, s.countPoison ((n + 3) / 4))
  else
    let s := if own then s.hostOwn key else s.hostTouch key false
    match s.poisonTrap va key n with
    | some t => .error t
    | none => .ok (s.readZeroed key n, s.countPoison (s.poisonedWords key n).length)

/-- An access of the strand in turn at its home: the value it returns and the state, or the trap of R125. -/
def State.perform (s : State) (va : Word) (key n : Nat) (op : RemoteOp) (priv : Bool) : Except Trap (Nat × State) :=
  match op with
  | .load => s.loadAt va key n priv
  | .store v => .ok (0, s.storeAt key n v.toNat priv)
  | .amo f v =>
    match s.readHome va key n true with
    | .error t => .error t
    | .ok (old, s) => .ok (old, s.storeAt key n (amoResult f n (BitVec.ofNat 64 old) v).toNat priv)
  | .cas e w =>
    match s.readHome va key n true with
    | .error t => .error t
    | .ok (old, s) =>
      if old = (zextN (8 * n) e).toNat then .ok (old, s.storeAt key n w.toNat priv) else .ok (old, s.stampRead key n priv)
  | .ldf =>
    match s.readHome va key n false with
    | .error t => .error t
    | .ok (v, s) => .ok (v, s.stampRead key n priv)
  | .lde =>
    match s.readHome va key n false with
    | .error t => .error t
    | .ok (v, s) => .ok (v, s.writeAt key n priv fun m => setFulls m key n false)
  | .stf v => .ok (0, s.writeAt key n priv fun m => setFulls (storeMem m key n v.toNat) key n true)
  | .stw v => .ok (0, s.writeAt key n priv fun m => setFulls (storeMem m key n v.toNat) key n true)
  | .engineWrite v => .ok (0, s.writeAt key n priv fun m => setFulls (storeMem m key n v.toNat) key n true)
  | .feset => .ok (0, s.writeAt key n priv fun m => m.setFull key true)
  | .feclr => .ok (0, s.writeAt key n priv fun m => m.setFull key false)
  | .fetest => .ok ((s.mem.isFull key).toNat, s.stampRead key n priv)

/-! ## Waits and wakes (R121, R122) -/

/-- The operation of a parked instruction of R121. -/
def feOp (minor : BitVec 2) (v : Word) : RemoteOp := if minor = 0#2 then .ldf else if minor = 1#2 then .lde else .stf v

def feSize (dbl : Bool) : Nat := if dbl then 8 else 4

/-- Who waits on a word: a strand, or an access of another package. -/
inductive Waiter where
  | strand (sid : StrandId)
  | outside (order : Nat) (r : RemoteRequest)
  deriving DecidableEq, Repr

/-- The minor of an operation of R121. -/
def feMinor : RemoteOp → BitVec 2
  | .ldf => 0#2
  | .lde => 1#2
  | _ => 2#2

/-- The waiters on a word with one minor whose test now succeeds, in the order in which they parked. (DEDUCED, log 67.) -/
def State.waitersOn (s : State) (k : Nat) (minor : BitVec 2) : List Waiter :=
  let here := s.strands.filterMap fun m =>
    match m.frame, m.wait with
    | .parked, some (.word key _ mi dbl _ _ _ (some o)) =>
      if mi = minor ∧ (feWords key (feSize dbl)).contains k ∧ mustWait s.mem key (feSize dbl) (feOp mi 0#64) = false
      then some (o, Waiter.strand m.sid) else none
    | _, _ => none
  let there := s.outsideWaits.filterMap fun (x : Nat × RemoteRequest) =>
    if feMinor x.2.op = minor ∧ (feWords x.2.key x.2.size).contains k ∧ mustWait s.mem x.2.key x.2.size x.2.op = false
    then some (x.1, Waiter.outside x.1 x.2) else none
  (sortBy (fun a b => a.1 ≤ b.1) (here ++ there)).map (·.2)

/-! ## Accesses of other packages at their homes here (R340, R342) -/

/-- The stamps of a write that another package performs: RW rises to them. (DEDUCED, log 44.) -/
def State.outsideStamp (s : State) (key n : Nat) : State :=
  (wordKeys key n).foldl (fun s k =>
    let r := s.allWays.engineStamp k
    { r.1 with rw := max r.1.rw r.2, writers := Tab.put none r.1.writers (k / 4) none }) s

/-- An access of another package takes its place. Under the trap policy, one that reads poison writes nothing (R125). (DEDUCED, log 44.) -/
def State.outsidePerform (s0 : State) (r : RemoteRequest) : State :=
  let k := r.key
  let n := r.size
  let s := s0.touchLine k
  let put (f : Mem → Mem) : State := ({ s with mem := f s.mem } : State).outsideStamp k n
  let traps := (s.part r.part).poisonTrap && !(s.poisonedWords k n).isEmpty
  let old := s.readZeroed k n
  match r.op with
  | .load | .ldf | .fetest => s
  | .lde => if traps then s else put fun m => setFulls m k n false
  | .store v => put fun m => storeMem m k n v.toNat
  | .stf v | .stw v | .engineWrite v => put fun m => setFulls (storeMem m k n v.toNat) k n true
  | .feset => put fun m => m.setFull k true
  | .feclr => put fun m => m.setFull k false
  | .amo f v => if traps then s else put fun m => storeMem m k n (amoResult f n (BitVec.ofNat 64 old) v).toNat
  | .cas e w => if !traps && old == (zextN (8 * n) e).toNat then put fun m => storeMem m k n w.toNat else s

/-- The words of a list whose state a change of memory has changed. -/
def changedWords (old new : Mem) (ks : List Nat) : List Nat := ks.filter fun k => old.isFull k != new.isFull k

/-- What a memory instruction leaves: its destination written, its later part recorded. -/
def State.settle (s : State) (p : Parts) (d : Dest) (x : Reg) (args : Nat) (res : Bool) (la : Nat) (v : Word)
    (end_ : Context → State → State) : State :=
  match s.me.ctx.deliverTo p s.me.issue.pos la d v with
  | .error q => s.hold q
  | .ok c => ((end_ c s).leaveBehind p x args res la s.me.ctx)

/-- The strand in turn, parked on a word, completes there (R122): the words to look at next, and the state. (DEDUCED, log 67.) -/
def State.finishWait (s : State) : State × List Nat :=
  match s.me.wait with
  | some (.word key va minor dbl x la v _) =>
    let n := feSize dbl
    let op := feOp minor v
    let ld := minor != 2#2
    let b := s.me.ctx
    let p := s.partsOf x
    let args := if ld then 0 else 1
    match b.operands p x args with
    | .error _ => ({ s with me := s.me.retry }, feWords key n)
    | .ok (_, c) =>
      match s.locate s.me.launch.part s.me.core s.root va.toNat {} with
      | .error _ => ({ s with me := s.me.retry }, feWords key n)
      | .ok pl =>
        let r := (s.setCtx c).usePage s.me.launch.part s.me.core false pl
        match r.1.perform va key n op r.2 with
        | .error t => (s.trap t, feWords key n)
        | .ok (w, t) =>
          (t.settle p (if ld then .reg x else .none) x args ld la (extend true n w) fun c s =>
            { s with me := ({ s.me with ctx := c, stay := false } : Strand).leavePark b },
            changedWords s.mem t.mem (feWords key n))
  | _ => (s, [])

/-- A waiter completes in a step of its own. -/
def State.completeWait (s : State) (sid : StrandId) : State × List Nat :=
  let r := (s.focus sid).finishWait
  (r.1.focus s.me.sid, r.2)

/-- A waiter completes. An access of another package may have been withdrawn there (R124). (DEDUCED, log 67.) -/
def State.completeWaiter (s : State) (w : Waiter) : State × List Nat :=
  match w with
  | .strand sid => s.completeWait sid
  | .outside o r =>
    let d := ({ s with outsideWaits := s.outsideWaits.filter fun x => x.1 != o } : State).draw
    if d.1 % 2 = 1 then (d.2, feWords r.key r.size)
    else
      let t := d.2.outsidePerform r
      (t, changedWords s.mem t.mem (feWords r.key r.size))

/-- R290: a moment at which every word of a parked `QWAIT` is full ends its wait, though an `LDE` empties one at once.
Words of another package are left to the test that follows (R166). (DEDUCED, log 67.) -/
def Strand.meets (mem : Mem) (m : Strand) : Strand :=
  match m.frame, m.wait with
  | .parked, some (.region ws _) =>
    if ws.all fun k => k < 2 ^ 52 && mem.keptFull k then { m with regionMet := true } else m
  | _, _ => m

def State.meetRegions (s : State) : State :=
  { s with me := s.me.meets s.mem, others := s.others.map (Strand.meets s.mem) }

/-- R122: where words have become full, every `LDF` parked on one of them completes before anything else reaches them. -/
def State.wakeReaders (s : State) (ks : List Nat) : State :=
  ks.foldl (fun s k =>
    if s.mem.isFull k then (s.waitersOn k 0#2).foldl (fun s i => (s.completeWaiter i).1) s else s) s.meetRegions

/-- R122: what follows the changes of the words of a list, once their `LDF` are served. (DEDUCED, log 67.) -/
def wakeLoop : Nat → List Nat → State → State
  | 0, _, s => s
  | _, [], s => s
  | n + 1, k :: ks, s =>
    match s.waitersOn k (if s.mem.isFull k then 1#2 else 2#2) with
    | [] => wakeLoop n ks s
    | i :: _ => let r := s.completeWaiter i; wakeLoop n (r.2 ++ ks) (r.1.wakeReaders r.2)

/-- R122 for the words of a list whose state differs from that in an older memory. -/
def State.wake (s : State) (old : Mem) (ks : List Nat) : State :=
  let ch := changedWords old s.mem ks
  let s := if ks.any fun k => old.keptFull k != s.mem.keptFull k then s.meetRegions else s
  if ch.isEmpty then s
  else wakeLoop (ch.length + 3 * (s.strands.length + s.outsideWaits.length) + 1) ch (s.wakeReaders ch)

/-- R165: how many waiters of R122 the table of a home core holds. -/
def State.tableLoad (s : State) (home : Nat) : Nat :=
  (s.strands.filter fun m =>
    match m.frame, m.wait with
    | .parked, some (.word key _ _ _ _ _ _ (some _)) => homeCore key == some home
    | _, _ => false).length

/-- R121, R122, R165: the strand parks on a word. -/
def State.parkOnWord (s : State) (key : Nat) (va : Word) (n : Nat) (op : RemoteOp) (x : Reg) (la : Nat) : State :=
  let full : Bool := match homeCore key with
    | some h => 64 ≤ s.tableLoad h
    | none => false
  let o := s.stampOrder
  let minor : BitVec 2 := match op with
    | .ldf => 0#2
    | .lde => 1#2
    | _ => 2#2
  let v : Word := match op with
    | .stf v => v
    | _ => 0#64
  if full then s.park (.word key va minor (n == 8) x la v none)
  else o.2.park (.word key va minor (n == 8) x la v (some o.1))

/-! ## Migration (R22) and remote accesses (R340) -/

/-- The core that the access of the strand in turn draws it to, if it does. -/
def State.drawnTo (s : State) (key : Nat) : Option Nat :=
  if s.me.roam && s.me.ctx.sys.status.getLsbD lightBit && s.me.undo.isNone && s.me.deferred.isEmpty && !s.me.stay then
    match homeCore key with
    | some h => if h = s.me.core then none else some h
    | none => none
  else none

/-- The number of a strand's birth slot among the slots of the package (R8). -/
def anchorIdx (i : StrandId) : Nat := sidCore i * 16 + sidSlot i

/-- R26: what the source core writes to the anchor record. -/
def Strand.anchor (m : Strand) : Anchor :=
  let c := m.ctx
  { poisonCnt := c.acc.poisonCnt, migrated := c.acc.migrated, refused := c.acc.refused, tags := c.vec.tag
    batchNext := m.batchNext, scratch := c.sys.scratch }

/-- R22 step 2: the strand leaves the rotation, its anchor record is written, and its image is on its way. -/
def State.migrate (s : State) (h : Nat) : State :=
  { s with
    me := { s.me.rollback with frame := .flight, target := h, note := .parked }
    anchors := Tab.put none s.anchors (anchorIdx s.me.sid) (some s.me.anchor) }

/-- Whether a remote operation is performed when its value returns (R340). (DEDUCED, log 18.) -/
def returnsValue : RemoteOp → Bool
  | .load | .amo .. | .cas .. | .ldf | .lde | .fetest => true
  | _ => false

/-- The checks of R114 with R111. -/
def State.checkAccess (s : State) (a : Access) (va : Word) : Except Trap Place :=
  match s.check va a.size a.need with
  | .error t => .error t
  | .ok p => if a.fe && isHost p.key then .error ⟨.protectionFault, va⟩ else .ok p

/-- The access itself, once its operands are read and its address is checked. `s0` is the state before the instruction. (DESIGN CHOICE, log 17.) -/
def State.access (s0 : State) (a : Access) (p : Parts) (vs : List Word) (c : Context) (va : Word) (pl : Place) : State :=
  let op := a.op (vs.getD 0 0#64) (vs.getD 1 0#64)
  let end_ (c : Context) (s : State) : State := { s with me := { s.me with ctx := c, note := .done, stay := false } }
  match s0.drawnTo pl.key with
  | some h => s0.migrate h
  | none =>
    if 2 ^ 52 ≤ pl.key then
      let r : RemoteAccess := ⟨s0.me.sid, va, pl.key, a.size, op, a.dest, a.la, a.signed, s0.me.launch, s0.tick, false⟩
      let s := { (s0.usePage s0.me.launch.part s0.me.core false pl).1 with remoteOps := s0.remoteOps ++ [r] }
      if returnsValue op then
        { s with me := { s.me.rollback with undo := s.me.undo, wait := some (.remote (op == .ldf || op == .lde)), note := .parked } }
      else (s.setCtx c).settle p .none a.x a.args false a.la 0#64 end_
    else
      let r := (s0.setCtx c).usePage s0.me.launch.part s0.me.core false pl
      if mustWait r.1.mem pl.key a.size op then
        (s0.usePage s0.me.launch.part s0.me.core false pl).1.parkOnWord pl.key va a.size op a.x a.la
      else
        match r.1.perform va pl.key a.size op r.2 with
        | .error t => s0.trap t
        | .ok (v, s) =>
          let t := s.settle p a.dest a.x a.args a.res a.la (extend a.signed a.size v) end_
          t.wake s0.mem (wordKeys pl.key a.size)

/-- R48: the execute half, which is ahead, does its part: it pops its value, or pushes its operands. -/
def State.executePart (s : State) (a : Access) : State :=
  let c := s.me.ctx
  match a.x with
  | .d n =>
    if a.args = 0 then
      match c.pop .execute with
      | .error q => s.hold q
      | .ok (v, c') =>
        ((s.setCtx (c'.writeLate s.me.issue.pos a.la (.d n v))).defer (.part a.instr) .access c).proceed
    else
      match c.pushMany .execute (c.regRun a.x a.args) with
      | .error q => s.hold q
      | .ok c' =>
        let s := ((s.setCtx c').defer (.part a.instr) .access c).proceed
        if a.res then { s with me := { s.me with owed := some (n, a.la, s.me.issue.pos) } } else s
  | _ => s

/-- R104: while the poison policy asks for PoisonConsumed, the lookahead of a load is taken as 0. -/
def State.lookahead (s : State) (la : Nat) : Nat := if s.myPart.poisonTrap then 0 else la

/-- A scalar memory instruction (R110 to R125). (DEDUCED, log 70.) -/
def State.memory (s : State) (a0 : Access) : State :=
  let a := if a0.res then { a0 with la := s.lookahead a0.la } else a0
  match s.partsOf a.x with
  | .executeAhead => s.executePart a
  | p =>
    match s.me.ctx.operands p a.x a.args with
    | .error q => s.hold q
    | .ok (vs, c) =>
      if a.res && c.lqBlocked p a.x then s.hold .lq
      else
        let va := jumpValue a.base s.me.ctx + a.off
        match s.checkAccess a va with
        | .error t => s.trap t
        | .ok pl => s.access a p vs c va pl

/-! ## Meanings -/

def scaled {w : Nat} (off : BitVec w) (n : Nat) : Word := off.signExtend 64 * BitVec.ofNat 64 n

/-- The size and sign of the op field of `LD` and `ST` (R36). -/
def opSize (op : BitVec 3) : Nat := 2 ^ (op.toNat % 4)

/-- `LD` (R116). -/
def execLd (op : BitVec 3) (la : BitVec 4) (x base : Reg) (off : BitVec 8) (s : State) : Result :=
  .next (s.memory
    { instr := .ld op la x base off, op := fun _ _ => .load, size := opSize op, need := needR, base := base
      off := scaled off (opSize op), la := la.toNat, x := x, res := true, signed := op.toNat < 4 })

/-- `ST` (R117). -/
def execSt (op : BitVec 2) (la : BitVec 4) (x base : Reg) (off : BitVec 8) (s : State) : Result :=
  .next (s.memory
    { instr := .st op la x base off, op := fun v _ => .store v, size := opSize (op.setWidth 3), need := needW
      base := base, off := scaled off (opSize (op.setWidth 3)), la := la.toNat, x := x, args := 1 })

/-- `LDF` (R121). -/
def execLdf (dbl : Bool) (la : BitVec 4) (x base : Reg) (off : BitVec 8) (s : State) : Result :=
  .next (s.memory
    { instr := .ldf dbl la x base off, op := fun _ _ => .ldf, size := feSize dbl, need := needR, base := base
      off := scaled off (feSize dbl), la := la.toNat, x := x, res := true, fe := true })

/-- `LDE` (R121). -/
def execLde (dbl : Bool) (la : BitVec 4) (x base : Reg) (off : BitVec 8) (s : State) : Result :=
  .next (s.memory
    { instr := .lde dbl la x base off, op := fun _ _ => .lde, size := feSize dbl, need := needRW, base := base
      off := scaled off (feSize dbl), la := la.toNat, x := x, res := true, fe := true })

/-- `STF` (R121). -/
def execStf (dbl : Bool) (la : BitVec 4) (x base : Reg) (off : BitVec 8) (s : State) : Result :=
  .next (s.memory
    { instr := .stf dbl la x base off, op := fun v _ => .stf v, size := feSize dbl, need := needRW, base := base
      off := scaled off (feSize dbl), la := la.toNat, x := x, args := 1, fe := true })

/-- `STW` (R121). -/
def execStw (dbl : Bool) (la : BitVec 4) (x base : Reg) (off : BitVec 8) (s : State) : Result :=
  .next (s.memory
    { instr := .stw dbl la x base off, op := fun v _ => .stw v, size := feSize dbl, need := needW, base := base
      off := scaled off (feSize dbl), la := la.toNat, x := x, args := 1, fe := true })

/-- `AMO` (R118). -/
def execAmo (dbl : Bool) (op : BitVec 3) (la : BitVec 4) (x base : Reg) (off : BitVec 7) (s : State) : Result :=
  .next (s.memory
    { instr := .amo dbl op la x base off, op := fun v _ => .amo op v, size := feSize dbl, need := needRW, base := base
      off := scaled off (feSize dbl), la := la.toNat, x := x, args := 1, res := true })

/-- `CAS` (R119). -/
def execCas (dbl : Bool) (la : BitVec 4) (x base : Reg) (off : BitVec 7) (s : State) : Result :=
  .next (s.memory
    { instr := .cas dbl la x base off, op := fun e w => .cas e w, size := feSize dbl, need := needRW, base := base
      off := scaled off (feSize dbl), la := la.toNat, x := x, args := 2, res := true })

/-- `FESET` (R123). -/
def execFeset (la : BitVec 4) (base : Reg) (off : BitVec 8) (s : State) : Result :=
  .next (s.memory
    { instr := .feset la base off, op := fun _ _ => .feset, size := 4, need := needW, base := base, off := scaled off 4
      la := la.toNat, fe := true })

/-- `FECLR` (R123). -/
def execFeclr (la : BitVec 4) (base : Reg) (off : BitVec 8) (s : State) : Result :=
  .next (s.memory
    { instr := .feclr la base off, op := fun _ _ => .feclr, size := 4, need := needW, base := base, off := scaled off 4
      la := la.toNat, fe := true })

/-- `FETEST` (R123). -/
def execFetest (la pd : BitVec 4) (base : Reg) (off : BitVec 8) (s : State) : Result :=
  .next (s.memory
    { instr := .fetest la pd base off, op := fun _ _ => .fetest, size := 4, need := needR, base := base
      off := scaled off 4, la := la.toNat, pd := some pd, fe := true })

/-- R123, R312: fetches a span ahead of use. It raises no timestamp, and where the address leads nowhere it does nothing. -/
def prefStep (base : Reg) (off : BitVec 8) (s : State) : State :=
  let va := (jumpValue base s.me.ctx + scaled off 4) &&& ~~~3#64
  match s.check va 4 {} with
  | .error _ => s
  | .ok pl =>
    if uncached pl.key ∨ 2 ^ 52 ≤ pl.key ∨ s.mem.poisoned pl.key ∨ (isHost pl.key ∧ s.host.linkDown) then s
    else
      let r := s.usePage s.me.launch.part s.me.core false pl
      if r.2 ∨ (s.core s.me.core).spans.any (fun x => x.holds pl.key 4 && s.me.ts ≤ x.rts) then r.1
      else
        let t := (((r.1.touchLine pl.key).hostTouch pl.key false).fetchSpan pl.key 4)
        { t with me := { t.me with ts := s.me.ts } }

/-- `PREF` (R123). -/
def execPref (base : Reg) (off : BitVec 8) (s : State) : Result := .next (prefStep base off s).proceed

end Sys2Proof.Machine
end

