-- ==== Sys2Proof/Machine/FpFormat.lean ====
section
/-! DEFINITION. Number formats and the one rounding function (R199 to R218). -/

namespace Sys2Proof.Machine

/-- A floating format (R200, R203): trailing bits, bias, exponent width, and for binary8 its sign and domain. -/
structure Fmt where
  t : Nat
  bias : Nat
  w : Nat
  signed : Bool := true
  b8 : Bool := false
  ext : Bool := true
  deriving DecidableEq, Repr

def fp64 : Fmt := { t := 52, bias := 1023, w := 11 }
def fp32 : Fmt := { t := 23, bias := 127, w := 8 }
def bf16 : Fmt := { t := 7, bias := 127, w := 8 }
def fp16 : Fmt := { t := 10, bias := 15, w := 5 }

/-- R203: the binary8 format of precision `p`. -/
def binary8 (signed ext : Bool) (p : Nat) : Fmt :=
  if signed then { t := p - 1, bias := 2 ^ (7 - p), w := 8 - p, signed, b8 := true, ext }
  else { t := p - 1, bias := 2 ^ (8 - p), w := 9 - p, signed, b8 := true, ext }

/-- The magnitude of the largest finite code (R200, R204). -/
def Fmt.maxMag (f : Fmt) : Nat :=
  if f.b8 then (if f.signed then (if f.ext then 0x7E else 0x7F) else (if f.ext then 0xFD else 0xFE))
  else (2 ^ f.w - 1) * 2 ^ f.t - 1

/-- The sign bit's weight. -/
def Fmt.signWeight (f : Fmt) : Nat := 2 ^ (f.w + f.t)
/-- The least exponent of a normal (R211). -/
def Fmt.emin (f : Fmt) : Int := 1 - (f.bias : Int)

/-- An exact real that is not zero: (−1)^neg × m × 2^e; with `more` its magnitude lies strictly between m × 2^e and
(m + 1) × 2^e. -/
structure Exact where
  neg : Bool
  m : Nat
  e : Int
  more : Bool := false
  deriving DecidableEq, Repr

/-- What a code stands for. A NaN carries its sign, its payload without the quiet bit, the trailing width of its format
and whether it signals. -/
inductive Fp where
  | nan (neg : Bool) (payload t : Nat) (signalling : Bool)
  | inf (neg : Bool)
  | zero (neg : Bool)
  | fin (x : Exact)
  deriving DecidableEq, Repr

def Fp.isNaN : Fp → Bool
  | .nan .. => true
  | _ => false
def Fp.isSNaN : Fp → Bool
  | .nan _ _ _ s => s
  | _ => false
def Fp.isInf : Fp → Bool
  | .inf _ => true
  | _ => false
def Fp.isZero : Fp → Bool
  | .zero _ => true
  | _ => false
def Fp.neg? : Fp → Bool
  | .nan n .. => n
  | .inf n => n
  | .zero n => n
  | .fin x => x.neg

/-- The NaN of binary8 and of the scale 0xFF: it turns into canonical NaNs (R214). -/
def Fp.plainNaN : Fp := .nan false 0 1 false

/-- A magnitude code as a number (R201). -/
def Fmt.value (f : Fmt) (neg : Bool) (mag : Nat) : Fp :=
  let ex := mag / 2 ^ f.t
  let tr := mag % 2 ^ f.t
  if mag = 0 then .zero neg
  else if ex = 0 then .fin ⟨neg, tr, f.emin - f.t, false⟩
  else .fin ⟨neg, 2 ^ f.t + tr, (ex : Int) - f.bias - f.t, false⟩

/-- R201, R204: what a code stands for. -/
def Fmt.decode (f : Fmt) (code : Nat) : Fp :=
  if f.b8 then
    let code := code % 256
    if f.signed then
      if code = 0x80 then Fp.plainNaN
      else if f.ext && code % 128 = 0x7F then .inf (code / 128 = 1)
      else f.value (code / 128 = 1) (code % 128)
    else if code = 0xFF then Fp.plainNaN
    else if f.ext && code = 0xFE then .inf false
    else f.value false code
  else
    let neg := code / f.signWeight % 2 = 1
    let mag := code % f.signWeight
    if mag / 2 ^ f.t = 2 ^ f.w - 1 then
      let tr := mag % 2 ^ f.t
      if tr = 0 then .inf neg else .nan neg (tr % 2 ^ (f.t - 1)) f.t (tr < 2 ^ (f.t - 1))
    else f.value neg mag

/-- The canonical NaN (R200, R204). -/
def Fmt.canonicalNaN (f : Fmt) : Nat :=
  if f.b8 then (if f.signed then 0x80 else 0xFF) else (2 ^ f.w - 1) * 2 ^ f.t + 2 ^ (f.t - 1)

/-- R214: a NaN carried into a format, with its quiet bit set. -/
def Fmt.convNaN (f : Fmt) (neg : Bool) (payload t : Nat) : Nat :=
  if f.b8 then f.canonicalNaN
  else
    let p := if t ≤ f.t then payload * 2 ^ (f.t - t) else payload / 2 ^ (t - f.t)
    (if neg then f.signWeight else 0) + f.canonicalNaN + p

/-- ±0 (R211). -/
def Fmt.zeroCode (f : Fmt) (neg : Bool) : Nat := if f.b8 then 0 else if neg then f.signWeight else 0
/-- ±∞; the NaN of a finite-domain format, and of an unsigned one for −∞ (R212). -/
def Fmt.infCode (f : Fmt) (neg : Bool) : Nat :=
  if f.b8 then
    if !f.ext || (!f.signed && neg) then f.canonicalNaN
    else if f.signed then (if neg then 0xFF else 0x7F) else 0xFE
  else (if neg then f.signWeight else 0) + (2 ^ f.w - 1) * 2 ^ f.t
/-- ±MaxFin. -/
def Fmt.maxCode (f : Fmt) (neg : Bool) : Nat :=
  (if neg then (if f.b8 then 0x80 else f.signWeight) else 0) + f.maxMag

/-- ⌊log2 |x|⌋. -/
def Exact.log2 (x : Exact) : Int := (Nat.log2 x.m : Int) + x.e

/-- R210: whether a magnitude is rounded up, from its lowest kept bit, its sign and how what is dropped compares with
one half. -/
def roundsUp (rm : Rounding) (neg odd : Bool) (drop : Ordering) (inexact : Bool) : Bool :=
  match rm with
  | .rne => (match drop with | .gt => true | .eq => odd | .lt => false)
  | .rz => false
  | .rdn => neg && inexact
  | .rup => !neg && inexact

/-- |x| ÷ 2^q rounded to an integer in the direction of a mode, and whether anything was dropped. -/
def Exact.toGrid (x : Exact) (q : Int) (rm : Rounding) : Nat × Bool :=
  let k := (q - x.e).toNat
  let m := x.m * 2 ^ (x.e - q).toNat
  let n := m / 2 ^ k
  let r := m % 2 ^ k
  let inexact := r != 0 || x.more
  let drop : Ordering :=
    if k = 0 then .lt
    else match compare r (2 ^ (k - 1)) with
      | .eq => if x.more then .gt else .eq
      | o => o
  (if roundsUp rm x.neg (n % 2 = 1) drop inexact then n + 1 else n, inexact)

/-- R213: whether the rounded value, with an unbounded exponent, is below the least normal. -/
def Exact.tiny (x : Exact) (f : Fmt) (rm : Rounding) : Bool :=
  let e := x.log2
  if f.emin ≤ e then false
  else if e < f.emin - 1 then true
  else (x.toGrid (e - f.t) rm).1 < 2 ^ (f.t + 1)

/-- R211 to R214: rounds a value into a format. -/
def Fmt.round (f : Fmt) (rm : Rounding) (sat : Bool) (x : Fp) : Nat × FpFlags :=
  match x with
  | .nan neg p t s => (f.convNaN neg p t, { nv := s })
  | .zero neg => (f.zeroCode neg, {})
  | .inf neg =>
    if !f.signed && neg then
      if sat then (0, { nx := true }) else (f.canonicalNaN, { nv := true, nx := true })
    else if sat then (f.maxCode neg, { nx := true })
    else
      let c := f.infCode neg
      let lost := f.b8 && !f.ext
      (c, { nv := lost, nx := lost })
  | .fin x =>
    let e := max x.log2 f.emin
    let g := x.toGrid (e - f.t) rm
    let mag := ((e - f.emin).toNat) * 2 ^ f.t + g.1
    let tiny := x.tiny f rm
    if !f.signed && x.neg && g.1 != 0 then
      if sat then (0, { nx := true, uf := tiny })
      else (f.canonicalNaN, { nv := true, nx := true, uf := tiny })
    else if f.maxMag < mag then
      let toMax := sat || (match rm with
        | .rne => false
        | .rz => true
        | .rdn => !x.neg
        | .rup => x.neg)
      if toMax then (f.maxCode x.neg, { of := true, nx := true })
      else (f.infCode x.neg, { nv := f.b8 && !f.ext, of := true, nx := true })
    else if g.1 = 0 then (f.zeroCode x.neg, { nx := true, uf := tiny })
    else ((if x.neg then (if f.b8 then 0x80 else f.signWeight) else 0) + mag, { nx := g.2, uf := g.2 && tiny })

/-! ## Exact arithmetic -/

/-- A signed multiple of 2^e as a value; `negZero` is the sign of a zero. -/
def Fp.ofInt (n : Int) (e : Int) (negZero : Bool) : Fp :=
  if n = 0 then .zero negZero else .fin ⟨decide (n < 0), n.natAbs, e, false⟩

def Exact.int (x : Exact) : Int := if x.neg then -(x.m : Int) else x.m

/-- The exact sum of two numbers. -/
def Exact.add (x y : Exact) (rm : Rounding) : Fp :=
  let e := min x.e y.e
  Fp.ofInt (x.int * 2 ^ (x.e - e).toNat + y.int * 2 ^ (y.e - e).toNat) e (decide (rm = .rdn))

/-- The exact product of two numbers. -/
def Exact.mul (x y : Exact) : Exact := ⟨x.neg != y.neg, x.m * y.m, x.e + y.e, false⟩

/-- The quotient of two numbers to at least 64 significant bits. -/
def Exact.div (x y : Exact) : Exact :=
  let n := x.m * 2 ^ 192
  ⟨x.neg != y.neg, n / y.m, x.e - y.e - 192, n % y.m != 0⟩

/-- The integer square root of `n`, from the bit of weight 4^k down: `r` is the root found so far. -/
def isqrtFrom (n : Nat) : Nat → Nat → Nat
  | 0, r => r
  | k + 1, r =>
    let r' := r + 2 ^ k
    isqrtFrom n k (if r' * r' ≤ n then r' else r)
/-- ⌊√n⌋. -/
def isqrt (n : Nat) : Nat := isqrtFrom n (Nat.log2 n / 2 + 1) 0

/-- The square root of a positive number to at least 64 significant bits. -/
def Exact.sqrt (x : Exact) : Exact :=
  let odd := x.e % 2 != 0
  let m := (if odd then x.m * 2 else x.m) * 2 ^ 160
  let e := (if odd then x.e - 1 else x.e) / 2 - 80
  let r := isqrt m
  ⟨false, r, e, r * r != m⟩

/-- Whether x < y, for finite magnitudes without `more`. -/
def Exact.lt (x y : Exact) : Bool :=
  let e := min x.e y.e
  decide (x.int * 2 ^ (x.e - e).toNat < y.int * 2 ^ (y.e - e).toNat)

/-- x + y before rounding: a NaN operand, an infinity, or the exact sum; `none` where the operation is invalid. -/
def Fp.add (x y : Fp) (rm : Rounding) : Option Fp :=
  match x, y with
  | .nan a b c d, _ => some (.nan a b c d)
  | _, .nan a b c d => some (.nan a b c d)
  | .inf a, .inf b => if a = b then some (.inf a) else none
  | .inf a, _ => some (.inf a)
  | _, .inf b => some (.inf b)
  | .zero a, .zero b => some (.zero (if a = b then a else decide (rm = .rdn)))
  | .zero _, .fin y => some (.fin y)
  | .fin x, .zero _ => some (.fin x)
  | .fin x, .fin y => some (x.add y rm)

def Fp.negate : Fp → Fp
  | .nan a b c d => .nan (!a) b c d
  | .inf a => .inf (!a)
  | .zero a => .zero (!a)
  | .fin x => .fin { x with neg := !x.neg }

/-- x × y before rounding; `none` for 0 × ∞. -/
def Fp.mul (x y : Fp) : Option Fp :=
  match x, y with
  | .nan a b c d, _ => some (.nan a b c d)
  | _, .nan a b c d => some (.nan a b c d)
  | .inf _, .zero _ => none
  | .zero _, .inf _ => none
  | .inf a, y => some (.inf (a != y.neg?))
  | x, .inf b => some (.inf (x.neg? != b))
  | .zero a, y => some (.zero (a != y.neg?))
  | x, .zero b => some (.zero (x.neg? != b))
  | .fin x, .fin y => some (.fin (x.mul y))

/-- x ÷ y before rounding, and whether a finite non-zero value is divided by zero. -/
def Fp.div (x y : Fp) : Option Fp × Bool :=
  match x, y with
  | .nan a b c d, _ => (some (.nan a b c d), false)
  | _, .nan a b c d => (some (.nan a b c d), false)
  | .inf _, .inf _ => (none, false)
  | .zero _, .zero _ => (none, false)
  | .inf a, y => (some (.inf (a != y.neg?)), false)
  | x, .inf b => (some (.zero (x.neg? != b)), false)
  | .zero a, y => (some (.zero (a != y.neg?)), false)
  | .fin x, .zero b => (some (.inf (x.neg != b)), true)
  | .fin x, .fin y => (some (.fin (x.div y)), false)

/-- √x before rounding; `none` below −0. -/
def Fp.sqrt : Fp → Option Fp
  | .nan a b c d => some (.nan a b c d)
  | .inf a => if a then none else some (.inf false)
  | .zero a => some (.zero a)
  | .fin x => if x.neg then none else some (.fin x.sqrt)

/-- The order of two values that are not NaNs, −0 below +0. -/
def Fp.lt (x y : Fp) : Bool :=
  match x, y with
  | .nan .., _ => false
  | _, .nan .. => false
  | .inf a, .inf b => a && !b
  | .inf a, _ => a
  | _, .inf b => !b
  | .zero a, .zero b => a && !b
  | .zero _, .fin y => !y.neg
  | .fin x, .zero _ => x.neg
  | .fin x, .fin y => x.lt y

/-- Numerical equality: −0 = +0 (R79). -/
def Fp.numEq (x y : Fp) : Bool :=
  match x, y with
  | .nan .., _ => false
  | _, .nan .. => false
  | .zero _, .zero _ => true
  | x, y => !x.lt y && !y.lt x

/-- Numerical order: −0 is not below +0 (R79). -/
def Fp.numLt (x y : Fp) : Bool := x.lt y && !(x.isZero && y.isZero)

/-! ## Floating operations with NaN rules (R76, R77, R226, R231) -/

/-- Rounds a result, or gives the first NaN operand of a list, quieted, or the canonical NaN where the operation is
invalid. Signalling operands and invalid operations raise NV (R77, R226). -/
def Fmt.finish (f : Fmt) (rm : Rounding) (operands : List Fp) (invalid : Bool) (r : Option Fp) : Nat × FpFlags :=
  let nv := invalid || operands.any Fp.isSNaN
  match operands.find? Fp.isNaN with
  | some (.nan n p t _) => (f.convNaN n p t, { nv })
  | _ =>
    match r with
    | none => (f.canonicalNaN, { nv := true })
    | some x =>
      let q := f.round rm false x
      (q.1, { q.2 with nv := q.2.nv || nv })

def Fmt.addOp (f : Fmt) (rm : Rounding) (a b : Nat) : Nat × FpFlags :=
  let x := f.decode a; let y := f.decode b
  f.finish rm [x, y] (x.add y rm).isNone (x.add y rm)
def Fmt.subOp (f : Fmt) (rm : Rounding) (a b : Nat) : Nat × FpFlags :=
  let x := f.decode a; let y := f.decode b
  f.finish rm [x, y] (x.add y.negate rm).isNone (x.add y.negate rm)
def Fmt.mulOp (f : Fmt) (rm : Rounding) (a b : Nat) : Nat × FpFlags :=
  let x := f.decode a; let y := f.decode b
  f.finish rm [x, y] (x.mul y).isNone (x.mul y)
def Fmt.divOp (f : Fmt) (rm : Rounding) (a b : Nat) : Nat × FpFlags :=
  let x := f.decode a; let y := f.decode b
  let q := x.div y
  let r := f.finish rm [x, y] q.1.isNone q.1
  (r.1, { r.2 with dz := q.2 })
def Fmt.sqrtOp (f : Fmt) (rm : Rounding) (a : Nat) : Nat × FpFlags :=
  let x := f.decode a
  f.finish rm [x] x.sqrt.isNone x.sqrt

/-- a × b + c rounded once (R75, R231): `negP` negates the product and `negC` the addend, neither touching a NaN. NaNs
are taken in the order c, a, b (R77, R231). -/
def Fmt.fmaOp (f : Fmt) (rm : Rounding) (negP negC : Bool) (a b c : Nat) : Nat × FpFlags :=
  let x := f.decode a; let y := f.decode b; let z := f.decode c
  let p := (x.mul y).map fun p => if negP then p.negate else p
  let sgn := if negC then z.negate else z
  let r := p.bind fun p => p.add sgn rm
  let badProduct := !x.isNaN && !y.isNaN && (x.mul y).isNone
  let badSum := !z.isNaN && !x.isNaN && !y.isNaN && r.isNone
  f.finish rm [z, x, y] (badProduct || badSum) r

/-- R78. -/
def Fmt.minMax (f : Fmt) (wantMax : Bool) (a b : Nat) : Nat × FpFlags :=
  let x := f.decode a; let y := f.decode b
  let fl : FpFlags := { nv := x.isSNaN || y.isSNaN }
  if x.isNaN && y.isNaN then (f.canonicalNaN, fl)
  else if x.isNaN then (b, fl)
  else if y.isNaN then (a, fl)
  else if wantMax then ((if x.lt y then b else a), fl)
  else ((if y.lt x then b else a), fl)

/-! ## Integers (R80, R81, R215) -/

/-- A value rounded to an integer in a mode; `none` for NaNs and infinities. -/
def Fp.toIntegral (rm : Rounding) : Fp → Option (Int × Bool)
  | .zero _ => some (0, false)
  | .fin x =>
    let g := x.toGrid 0 rm
    some (if x.neg then -(g.1 : Int) else g.1, g.2)
  | _ => none

/-- R81: a value converted to an integer of a range, saturating. -/
def toIntRange (rm : Rounding) (lo hi : Int) (x : Fp) : Int × FpFlags :=
  match x with
  | .nan .. => (0, { nv := true })
  | .inf neg => (if neg then lo else hi, { nv := true })
  | x =>
    match x.toIntegral rm with
    | some (n, nx) =>
      if n < lo then (lo, { nv := true }) else if hi < n then (hi, { nv := true }) else (n, { nx })
    | none => (0, {})

/-- An integer as a value (R81, R215). -/
def Fp.fromInt (n : Int) : Fp := Fp.ofInt n 0 false

/-- R80, R81: rounds to an integral value of the same format, keeping the sign of a zero. -/
def Fmt.toIntegralOp (f : Fmt) (rm : Rounding) (a : Nat) : Nat × FpFlags :=
  match f.decode a with
  | .nan n p t s => (f.convNaN n p t, { nv := s })
  | .inf n => (f.infCode n, {})
  | .zero n => (f.zeroCode n, {})
  | .fin x =>
    let g := x.toGrid 0 rm
    ((f.round .rne false (Fp.ofInt (if x.neg then -(g.1 : Int) else g.1) 0 x.neg)).1, { nx := g.2 })

/-! ## Blocks (R206, R217, R218) -/

/-- A value times a power of two. -/
def Fp.scale (k : Int) : Fp → Fp
  | .fin x => .fin { x with e := x.e + k }
  | v => v

/-- ⌊log2 |x|⌋ of the largest finite magnitude of a list; `none` where there is none that is not zero. -/
def largestLog2 (xs : List Fp) : Option Int :=
  xs.foldl (fun acc x => match x with
    | .fin y => (match acc with | none => some y.log2 | some a => some (max a y.log2))
    | _ => acc) none

/-- R217: the scale of a block. -/
def blockScale (f : Fmt) (xs : List Fp) : Nat :=
  match largestLog2 xs with
  | none => 127
  | some l => (min 254 (max 0 (l - ((f.bias : Int) - 1) + 127))).toNat

/-- R217: BlockQuant. -/
def blockQuant (f : Fmt) (rm : Rounding) (xs : List Fp) : Nat × List Nat × FpFlags :=
  let s := blockScale f xs
  let rs := xs.map fun x => f.round rm true (x.scale (127 - (s : Int)))
  (s, rs.map (·.1), rs.foldl (fun a r => a.or r.2) {})

/-- R218: DeQuant. -/
def deQuant (f g : Fmt) (y s : Nat) : Nat × FpFlags :=
  if s = 0xFF then (g.canonicalNaN, {})
  else
    match f.decode y with
    | .nan .. => (g.canonicalNaN, {})
    | .inf n => (g.infCode n, {})
    | v => g.round .rne false (v.scale ((s : Int) - 127))

end Sys2Proof.Machine
end

