-- ==== Sys2Proof/Machine/VectorOps.lean ====
section
/-! DEFINITION. Format tags and packed elements (R207 to R209), and the common frame of vector instructions (R224 to R226). -/

namespace Sys2Proof.Machine

/-! ## Tags (R207) -/

def tNone : Tag := 0x00#6
def tI32 : Tag := 0x01#6
def tU32 : Tag := 0x02#6
def tI16 : Tag := 0x03#6
def tU16 : Tag := 0x04#6
def tI8 : Tag := 0x05#6
def tU8 : Tag := 0x06#6
def tF32 : Tag := 0x08#6
def tBF16 : Tag := 0x09#6
def tF16 : Tag := 0x0A#6
def tScale : Tag := 0x0C#6

def isB8 (t : Tag) : Bool := t.getLsbD 5 && t.extractLsb' 0 3 != 0#3
def isInt (t : Tag) : Bool := 1 ≤ t.toNat && t.toNat ≤ 6
def isFlt (t : Tag) : Bool := t == tF32 || t == tBF16 || t == tF16
/-- R207: a code that is not reserved. -/
def tagOk (t : Tag) : Bool := t == tNone || isInt t || isFlt t || t == tScale || isB8 t
/-- The width of an element in bits. -/
def tagBits (t : Tag) : Nat :=
  if t == tI16 || t == tU16 || t == tBF16 || t == tF16 then 16
  else if t == tI8 || t == tU8 || t == tScale || isB8 t then 8
  else 32
/-- Elements per lane. -/
def perLane (t : Tag) : Nat := 32 / tagBits t
def tagSigned (t : Tag) : Bool := t == tI32 || t == tI16 || t == tI8
def tagFmt (t : Tag) : Fmt :=
  if t == tF32 then fp32 else if t == tBF16 then bf16 else if t == tF16 then fp16
  else binary8 (t.getLsbD 4) (t.getLsbD 3) (t.extractLsb' 0 3).toNat

/-! ## Elements of lanes -/

/-- The elements of `w` bits of a lane, element 0 in its low bits. -/
def splitLane (w : Nat) (x : Word32) : List Nat := (List.range (32 / w)).map fun j => x.toNat / 2 ^ (w * j) % 2 ^ w
/-- Puts elements together. -/
def joinLane (w : Nat) : List Nat → Nat
  | [] => 0
  | e :: es => e % 2 ^ w + 2 ^ w * joinLane w es
def laneOf (w : Nat) (es : List Nat) : Word32 := BitVec.ofNat 32 (joinLane w es)

/-- An integer element as a number. -/
def intVal (sgn : Bool) (w n : Nat) : Int := if sgn && 2 ^ (w - 1) ≤ n then (n : Int) - 2 ^ w else n
/-- A number as an element, wrapping (R202). -/
def intCode (w : Nat) (n : Int) : Nat := (n % 2 ^ w).toNat

/-- A lane of a result with the flags of its elements. -/
abbrev LaneResult := Word32 × FpFlags

def orFlags (fs : List FpFlags) : FpFlags := fs.foldl FpFlags.or {}

/-- One lane computed element by element from the same lane of the sources. -/
def perElement (w : Nat) (f : List Nat → Nat × FpFlags) (xs : List Word32) : LaneResult :=
  let rs := (List.range (32 / w)).map fun j => f (xs.map fun x => (splitLane w x).getD j 0)
  (laneOf w (rs.map (·.1)), orFlags (rs.map (·.2)))

/-! ## Registers and masks -/

def Context.W (c : Context) : Nat := c.vec.w
def Context.vreg (c : Context) (n : BitVec 4) : List Word32 := c.vec.v[n.toNat]
def Context.vtag (c : Context) (n : BitVec 4) : Tag := c.vec.tag[n.toNat]
def Context.lane (c : Context) (n : BitVec 4) (i : Nat) : Word32 := (c.vreg n).getD i 0#32

/-- The mask with lanes 0 to W − 1 set. -/
def fullMask (w : Nat) : BitVec 256 := BitVec.ofNat 256 (2 ^ w - 1)
/-- A mask; k0 reads 1 in every lane of the claim (R219). -/
def Context.mask (c : Context) (k : BitVec 3) : BitVec 256 :=
  if k = 0#3 then fullMask c.W else c.vec.k[k.toNat] &&& fullMask c.W
/-- A write of a mask: k0 discards it, and no bit at or above W is set (R219). -/
def Context.setMask (c : Context) (k : BitVec 3) (v : BitVec 256) : Context :=
  if k = 0#3 then c else { c with vec := { c.vec with k := c.vec.k.set k.toNat (v &&& fullMask c.W) } }
/-- The mask that a 4-bit field names (R41). -/
def maskNum (k : BitVec 4) : BitVec 3 := k.setWidth 3
/-- The d-register that a 4-bit field names (R41). -/
def dregNum (n : BitVec 4) : Fin 12 := Fin.ofNat 12 n.toNat

/-! ## The frame (R224, R225) -/

/-- The tags of the sources in the layout of TagMismatch's TRAPVAL (R106). -/
def tagWord : List Tag → Nat
  | [] => 0
  | t :: ts => t.toNat + 256 * tagWord ts
/-- TagMismatch for source tags. -/
def tagTrap (ts : List Tag) : Trap := ⟨.tagMismatch, BitVec.ofNat 64 (tagWord ts)⟩
/-- TagMismatch for a merging destination (R225). -/
def mergeTrap (ts : List Tag) (old : Tag) : Trap := ⟨.tagMismatch, BitVec.ofNat 64 (tagWord ts + 2 ^ 24 * old.toNat)⟩

/-- Writes the active lanes of a register: inactive lanes keep their bits under merging and become 0 under zeroing. Only
the flags of active lanes are raised. -/
def Context.writeLanes (c : Context) (z : Bool) (k : BitVec 3) (vd : BitVec 4) (t : Tag) (rs : List LaneResult) : Context :=
  let m := c.mask k
  let ls := rs.zipIdx.map fun (x : LaneResult × Nat) =>
    if m.getLsbD x.2 then x.1.1 else if z then 0#32 else c.lane vd x.2
  let fl := orFlags (rs.zipIdx.map fun (x : LaneResult × Nat) => if m.getLsbD x.2 then x.1.2 else {})
  (c.raise fl).write (.v vd ls t)

/-- A vector instruction: R224 step 1, then what `f` says of the context. -/
def State.vector (s : State) (f : Context → Except Trap Context) : State :=
  if s.me.ctx.W = 0 then s.trap ⟨.noVectorWidth, 0#64⟩
  else
    match f s.me.ctx with
    | .error t => s.trap t
    | .ok c => s.done c

/-- R225: whether a merging destination's tag is wrong. -/
def Context.mergeBad (c : Context) (z : Bool) (k : BitVec 3) (vd : BitVec 4) (t : Tag) : Bool :=
  k != 0#3 && !z && c.vtag vd != t

/-- A vector instruction that computes each lane from the same lane of its sources: `ok` says which source tags it
accepts, `t` its result tag, and `f` computes a lane. -/
def Context.lanewise (c : Context) (z : Bool) (k : BitVec 3) (vd : BitVec 4) (srcs : List (BitVec 4))
    (ok : List Tag → Bool) (t : List Tag → Tag) (f : List Tag → List Word32 → LaneResult) : Except Trap Context :=
  let ts := srcs.map c.vtag
  if ok ts = false then .error (tagTrap ts)
  else if c.mergeBad z k vd (t ts) then .error (mergeTrap ts (c.vtag vd))
  else .ok (c.writeLanes z k vd (t ts) ((List.range c.W).map fun i => f ts (srcs.map fun r => c.lane r i)))

/-- The first source tag: the result tag of most instructions (R228). -/
def headTag (ts : List Tag) : Tag := ts.headD tNone
/-- Whether every tag is the same and satisfies a test. -/
def sameTags (p : Tag → Bool) (ts : List Tag) : Bool := ts.all fun t => t == headTag ts && p t

/-- An elementwise instruction over equal tags. -/
def State.elementwise (s : State) (z : Bool) (k : BitVec 3) (vd : BitVec 4) (srcs : List (BitVec 4)) (p : Tag → Bool)
    (f : Tag → List Nat → Nat × FpFlags) : State :=
  s.vector fun c => c.lanewise z k vd srcs (sameTags p) headTag fun ts => perElement (tagBits (headTag ts)) (f (headTag ts))

/-- A bitwise instruction over whole lanes. -/
def State.lanewise (s : State) (z : Bool) (k : BitVec 3) (vd : BitVec 4) (srcs : List (BitVec 4)) (p : Tag → Bool)
    (f : List Word32 → Word32) : State :=
  s.vector fun c => c.lanewise z k vd srcs (sameTags p) headTag fun _ xs => (f xs, {})

/-- The element of a list of sources. -/
def arg (xs : List Nat) (i : Nat) : Nat := xs.getD i 0
def argW (xs : List Word32) (i : Nat) : Word32 := xs.getD i 0#32

end Sys2Proof.Machine
end

