-- ==== Sys2Proof/Machine/Vector.lean ====
section
/-! DEFINITION. Elementwise vector arithmetic, comparison, broadcast and extraction, fused multiply-add and dot products, majors 0x28 and 0x29 (R228 to R232), with their 16-bit forms (R45). -/

namespace Sys2Proof.Machine

def isArith (t : Tag) : Bool := isInt t || isFlt t
def isAny (t : Tag) : Bool := t != tNone
def anyTag (_ : Tag) : Bool := true
def isSignedArith (t : Tag) : Bool := tagSigned t || isFlt t

/-- An element operation: one function for integers of the tag, one for floats of its format. -/
def arith (fi : Int → Int → Int) (ff : Fmt → Nat → Nat → Nat × FpFlags) (t : Tag) (xs : List Nat) : Nat × FpFlags :=
  let w := tagBits t
  if isInt t then (intCode w (fi (intVal (tagSigned t) w (arg xs 0)) (intVal (tagSigned t) w (arg xs 1))), {})
  else ff (tagFmt t) (arg xs 0) (arg xs 1)

def addElem : Tag → List Nat → Nat × FpFlags := arith (· + ·) fun f a b => f.addOp .rne a b
def subElem : Tag → List Nat → Nat × FpFlags := arith (· - ·) fun f a b => f.subOp .rne a b
def mulElem : Tag → List Nat → Nat × FpFlags := arith (· * ·) fun f a b => f.mulOp .rne a b
def minElem : Tag → List Nat → Nat × FpFlags := arith (fun a b => if b < a then b else a) fun f a b => f.minMax false a b
def maxElem : Tag → List Nat → Nat × FpFlags := arith (fun a b => if a < b then b else a) fun f a b => f.minMax true a b
/-- The sign bit cleared, NaNs included (R228). -/
def absElem : Tag → List Nat → Nat × FpFlags :=
  arith (fun a _ => if a < 0 then -a else a) fun f a _ => (a % f.signWeight, {})
/-- The sign bit flipped, NaNs included (R228). -/
def negElem : Tag → List Nat → Nat × FpFlags :=
  arith (fun a _ => -a) fun f a _ => (if a < f.signWeight then a + f.signWeight else a - f.signWeight, {})

def shlElem (t : Tag) (xs : List Nat) : Nat × FpFlags :=
  (arg xs 0 * 2 ^ (arg xs 1 % tagBits t) % 2 ^ tagBits t, {})
def shrElem (t : Tag) (xs : List Nat) : Nat × FpFlags := (arg xs 0 / 2 ^ (arg xs 1 % tagBits t), {})
def sarElem (t : Tag) (xs : List Nat) : Nat × FpFlags :=
  (intCode (tagBits t) (intVal true (tagBits t) (arg xs 0) / 2 ^ (arg xs 1 % tagBits t)), {})

/-- `VADD` (R228). -/
def execVadd (z : Bool) (k : BitVec 3) (vd va vb : BitVec 4) (s : State) : Result :=
  .next (s.elementwise z k vd [va, vb] isArith addElem)
/-- `VSUB` (R228). -/
def execVsub (z : Bool) (k : BitVec 3) (vd va vb : BitVec 4) (s : State) : Result :=
  .next (s.elementwise z k vd [va, vb] isArith subElem)
/-- `VMUL` (R228). -/
def execVmul (z : Bool) (k : BitVec 3) (vd va vb : BitVec 4) (s : State) : Result :=
  .next (s.elementwise z k vd [va, vb] isArith mulElem)
/-- `VMIN` (R228). -/
def execVmin (z : Bool) (k : BitVec 3) (vd va vb : BitVec 4) (s : State) : Result :=
  .next (s.elementwise z k vd [va, vb] isArith minElem)
/-- `VMAX` (R228). -/
def execVmax (z : Bool) (k : BitVec 3) (vd va vb : BitVec 4) (s : State) : Result :=
  .next (s.elementwise z k vd [va, vb] isArith maxElem)
/-- `VABS` (R228). -/
def execVabs (z : Bool) (k : BitVec 3) (vd va : BitVec 4) (s : State) : Result :=
  .next (s.elementwise z k vd [va] isSignedArith absElem)
/-- `VNEG` (R228). -/
def execVneg (z : Bool) (k : BitVec 3) (vd va : BitVec 4) (s : State) : Result :=
  .next (s.elementwise z k vd [va] isSignedArith negElem)
/-- `VAND` (R228). -/
def execVand (z : Bool) (k : BitVec 3) (vd va vb : BitVec 4) (s : State) : Result :=
  .next (s.lanewise z k vd [va, vb] isAny fun x => argW x 0 &&& argW x 1)
/-- `VOR` (R228). -/
def execVor (z : Bool) (k : BitVec 3) (vd va vb : BitVec 4) (s : State) : Result :=
  .next (s.lanewise z k vd [va, vb] isAny fun x => argW x 0 ||| argW x 1)
/-- `VXOR` (R228). -/
def execVxor (z : Bool) (k : BitVec 3) (vd va vb : BitVec 4) (s : State) : Result :=
  .next (s.lanewise z k vd [va, vb] isAny fun x => argW x 0 ^^^ argW x 1)
/-- `VNOT` (R228). -/
def execVnot (z : Bool) (k : BitVec 3) (vd va : BitVec 4) (s : State) : Result :=
  .next (s.lanewise z k vd [va] isAny fun x => ~~~argW x 0)
/-- `VSHL` (R228). -/
def execVshl (z : Bool) (k : BitVec 3) (vd va vb : BitVec 4) (s : State) : Result :=
  .next (s.elementwise z k vd [va, vb] isInt shlElem)
/-- `VSHR` (R228). -/
def execVshr (z : Bool) (k : BitVec 3) (vd va vb : BitVec 4) (s : State) : Result :=
  .next (s.elementwise z k vd [va, vb] isInt shrElem)
/-- `VSAR` (R228). -/
def execVsar (z : Bool) (k : BitVec 3) (vd va vb : BitVec 4) (s : State) : Result :=
  .next (s.elementwise z k vd [va, vb] isInt sarElem)
/-- `VMOV` (R228). -/
def execVmov (z : Bool) (k : BitVec 3) (vd va : BitVec 4) (s : State) : Result :=
  .next (s.lanewise z k vd [va] anyTag fun x => argW x 0)

/-- R228: every lane is written; the mask selects. -/
def selStep (k : BitVec 3) (vd va vb : BitVec 4) (s : State) : State :=
  s.vector fun c =>
    let ts := [c.vtag va, c.vtag vb]
    if sameTags isAny ts = false then .error (tagTrap ts)
    else
      .ok (c.write (.v vd ((List.range c.W).map fun i =>
        if (c.mask k).getLsbD i then c.lane va i else c.lane vb i) (c.vtag va)))

/-- `VSEL` (R228). -/
def execVsel (k : BitVec 3) (vd va vb : BitVec 4) (s : State) : Result := .next (selStep k vd va vb s)

/-- R229: the outcome for one lane. -/
def cmpLane (cc : BitVec 4) (t : Tag) (a b : Word32) : Bool × FpFlags :=
  if t = tF32 then
    let x := fp32.decode a.toNat
    let y := fp32.decode b.toNat
    let un := x.isNaN || y.isNaN
    let sig : FpFlags := { nv := x.isSNaN || y.isSNaN }
    match cc.toNat with
    | 0x0 => (!un && x.numEq y, sig)
    | 0x1 => (un || !x.numEq y, sig)
    | 0x2 => (!un && x.numLt y, { nv := un })
    | 0x3 => (!un && !x.numLt y, { nv := un })
    | 0x6 => (!un && y.numLt x, { nv := un })
    | 0x7 => (!un && !y.numLt x, { nv := un })
    | _ => (un, sig)
  else
    let ext (w : Word32) : Word := if t = tI32 then w.signExtend 64 else w.setWidth 64
    (condHolds cc (ext a) (ext b), {})

def cmpCodeOk (cc : BitVec 4) (t : Tag) : Bool :=
  if t = tF32 then [0x0#4, 0x1#4, 0x2#4, 0x3#4, 0x6#4, 0x7#4, 0xC#4].contains cc else cc.toNat < 12

/-- `VCMP` (R229). -/
def vcmpStep (z : Bool) (k : BitVec 3) (cc kd va vb : BitVec 4) (s : State) : State :=
  s.vector fun c =>
    let ts := [c.vtag va, c.vtag vb]
    if sameTags (fun t => t == tI32 || t == tU32 || t == tF32) ts = false then .error (tagTrap ts)
    else if cmpCodeOk cc (c.vtag va) = false then .error (s.wordTrap .illegalCombination)
    else
      let m := c.mask k
      let old := c.mask (maskNum kd)
      let rs := (List.range c.W).map fun i => cmpLane cc (c.vtag va) (c.lane va i) (c.lane vb i)
      let bits := rs.zipIdx.map fun (x : (Bool × FpFlags) × Nat) =>
        if m.getLsbD x.2 then x.1.1 else !z && old.getLsbD x.2
      let fl := orFlags (rs.zipIdx.map fun (x : (Bool × FpFlags) × Nat) => if m.getLsbD x.2 then x.1.2 else {})
      .ok ((c.raise fl).setMask (maskNum kd) (ofBitList 256 bits))

/-- `VCMP` (R229). -/
def execVcmp (z : Bool) (k : BitVec 3) (cc kd va vb : BitVec 4) (s : State) : Result := .next (vcmpStep z k cc kd va vb s)

/-- R223: the tag that a tag selector stands for. -/
def selTag (ts : BitVec 4) (old : Tag) : Tag := if ts = 0#4 then old else ts.setWidth 6

/-- `VBCST` (R230). -/
def vbcstStep (z : Bool) (k : BitVec 3) (ts vd dn : BitVec 4) (s : State) : State :=
  s.vector fun c =>
    let t := selTag ts (c.vtag vd)
    let w := tagBits t
    if t = tNone then .error (tagTrap [])
    else if c.mergeBad z k vd t then .error (mergeTrap [] (c.vtag vd))
    else
      let l := laneOf w (List.replicate (32 / w) c.exe.d[dregNum dn].toNat)
      .ok (c.writeLanes z k vd t (List.replicate c.W (l, {})))

/-- `VBCST` (R230). -/
def execVbcst (z : Bool) (k : BitVec 3) (ts vd dn : BitVec 4) (s : State) : Result := .next (vbcstStep z k ts vd dn s)

/-- `VEXTR` (R230). -/
def vextrStep (dx va dn : BitVec 4) (s : State) : State :=
  s.vector fun c =>
    let t := c.vtag va
    let w := tagBits t
    let i := c.exe.d[dregNum dn].toNat
    if t = tNone then .error (tagTrap [t])
    else
      let v : Word := if c.W * (32 / w) ≤ i then 0#64 else
        BitVec.ofInt 64 (intVal (tagSigned t) w ((splitLane w (c.lane va (i / (32 / w)))).getD (i % (32 / w)) 0))
      .ok (c.write (.d (dregNum dx) v))

/-- `VEXTR` (R230). -/
def execVextr (dx va dn : BitVec 4) (s : State) : Result := .next (vextrStep dx va dn s)

/-- R231: a fused operation of one element. -/
def fmaElem (negP negC : Bool) (t : Tag) (xs : List Nat) : Nat × FpFlags :=
  (tagFmt t).fmaOp .rne negP negC (arg xs 0) (arg xs 1) (arg xs 2)

/-- `VFMA` (R231). -/
def execVfma (z : Bool) (k : BitVec 3) (vd va vb vc : BitVec 4) (s : State) : Result :=
  .next (s.elementwise z k vd [va, vb, vc] isFlt (fmaElem false false))
/-- `VFMS` (R231). -/
def execVfms (z : Bool) (k : BitVec 3) (vd va vb vc : BitVec 4) (s : State) : Result :=
  .next (s.elementwise z k vd [va, vb, vc] isFlt (fmaElem false true))
/-- `VFNMA` (R231). -/
def execVfnma (z : Bool) (k : BitVec 3) (vd va vb vc : BitVec 4) (s : State) : Result :=
  .next (s.elementwise z k vd [va, vb, vc] isFlt (fmaElem true false))

/-- R232: the sum of values before its one rounding; `none` where it is invalid. -/
def sumFp : List (Option Fp) → Option Fp → Option Fp
  | [], acc => acc
  | p :: ps, acc => sumFp ps (match acc, p with
    | some a, some b => a.add b .rne
    | _, _ => none)

/-- R232: the lane of a BF16 dot product; NaNs by R226: of two NaN elements of one lane the lower is taken, and a NaN operand
leaves no invalid operation to flag. (DESIGN CHOICE, log 103.) -/
def dotBf (a b c : Word32) : LaneResult :=
  let xs := (splitLane 16 a).map bf16.decode
  let ys := (splitLane 16 b).map bf16.decode
  let z := fp32.decode c.toNat
  let r := sumFp (List.zipWith Fp.mul xs ys) (some z)
  let anyNaN := (xs ++ ys ++ [z]).any Fp.isNaN
  let q := fp32.finish .rne (xs ++ ys ++ [z]) (!anyNaN && r.isNone) r
  (BitVec.ofNat 32 q.1, q.2)

def dotInt (sa sb : Bool) (a b c : Word32) : LaneResult :=
  let ps := List.zipWith (fun x y => intVal sa 8 x * intVal sb 8 y) (splitLane 8 a) (splitLane 8 b)
  (BitVec.ofInt 32 (ps.foldl (· + ·) (c.toNat : Int)), {})

def dotTagsOk (ts : List Tag) : Bool :=
  ts == [tI8, tI8, tI32] || ts == [tU8, tU8, tU32] || ts == [tI8, tU8, tI32] || ts == [tBF16, tBF16, tF32]

def dotLane (ts : List Tag) (xs : List Word32) : LaneResult :=
  if headTag ts = tBF16 then dotBf (argW xs 0) (argW xs 1) (argW xs 2)
  else dotInt (tagSigned (ts.getD 0 tNone)) (tagSigned (ts.getD 1 tNone)) (argW xs 0) (argW xs 1) (argW xs 2)

/-- `VDOT4` (R232). -/
def execVdot4 (z : Bool) (k : BitVec 3) (vd va vb vc : BitVec 4) (s : State) : Result :=
  .next (s.vector fun c => c.lanewise z k vd [va, vb, vc] dotTagsOk (fun ts => ts.getD 2 tNone) dotLane)

/-! ## The 16-bit forms (R45) -/

/-- `VADD`, short. -/
def execVaddShort (k : BitVec 3) (vd vs : BitVec 4) (s : State) : Result := execVadd false k vd vd vs s
/-- `VSUB`, short. -/
def execVsubShort (k : BitVec 3) (vd vs : BitVec 4) (s : State) : Result := execVsub false k vd vd vs s
/-- `VMUL`, short. -/
def execVmulShort (k : BitVec 3) (vd vs : BitVec 4) (s : State) : Result := execVmul false k vd vd vs s
/-- `VMIN`, short. -/
def execVminShort (k : BitVec 3) (vd vs : BitVec 4) (s : State) : Result := execVmin false k vd vd vs s
/-- `VMAX`, short. -/
def execVmaxShort (k : BitVec 3) (vd vs : BitVec 4) (s : State) : Result := execVmax false k vd vd vs s
/-- `VAND`, short. -/
def execVandShort (k : BitVec 3) (vd vs : BitVec 4) (s : State) : Result := execVand false k vd vd vs s
/-- `VOR`, short. -/
def execVorShort (k : BitVec 3) (vd vs : BitVec 4) (s : State) : Result := execVor false k vd vd vs s
/-- `VXOR`, short. -/
def execVxorShort (k : BitVec 3) (vd vs : BitVec 4) (s : State) : Result := execVxor false k vd vd vs s
/-- `VMOV`, short. -/
def execVmovShort (k : BitVec 3) (vd vs : BitVec 4) (s : State) : Result := execVmov false k vd vs s
/-- `VNEG`, short. -/
def execVnegShort (k : BitVec 3) (vd vs : BitVec 4) (s : State) : Result := execVneg false k vd vs s
/-- `VABS`, short. -/
def execVabsShort (k : BitVec 3) (vd vs : BitVec 4) (s : State) : Result := execVabs false k vd vs s
/-- `VSEL`, short. -/
def execVselShort (k : BitVec 3) (vd vs : BitVec 4) (s : State) : Result := execVsel k vd vd vs s
/-- `VNOT`, short. -/
def execVnotShort (k : BitVec 3) (vd vs : BitVec 4) (s : State) : Result := execVnot false k vd vs s

end Sys2Proof.Machine
end

