-- ==== Sys2Proof/Machine/Lanes.lean ====
section
/-! DEFINITION. Lane claims (R219 to R222) and masks (R240), major 0x2E. -/

namespace Sys2Proof.Machine

/-! ## The arbiter (R220) -/

/-- Whether a strand occupies a frame of a core. -/
def Strand.resident (m : Strand) : Bool :=
  match m.frame with
  | .spilled | .inbox => false
  | _ => true

/-- FREE: the lanes of a cluster that no claim holds. (DEDUCED, log 68.) -/
def State.freeLanes (s : State) (cluster : Nat) : Nat :=
  256 - ((s.strands.filter fun m => m.resident && clusterOfCore m.core == cluster).foldl (fun n m => n + m.ctx.vec.w) 0)

/-- The lanes that the waiting resumptions of a cluster need. -/
def State.owedLanes (s : State) (cluster : Nat) : Nat :=
  s.resuming.foldl (fun n r =>
    if clusterOfCore r.2 = cluster then n + ((s.strand? r.1).map fun m => m.ctx.vec.w).getD 0 else n) 0

/-- RESV: the lanes still owed to waiting resumptions. Lanes that no claim holds go to them first. (DEDUCED, log 68.) -/
def State.resv (s : State) (cluster : Nat) : Nat := s.owedLanes cluster - s.freeLanes cluster

/-- SHORT: the sum of the recorded shortfalls. -/
def shortSum (l : List (StrandId × Nat)) : Nat := l.foldl (fun n x => n + x.2) 0
def State.shortList (s : State) (cluster : Nat) : List (StrandId × Nat) := Tab.get [] s.shorts cluster
def State.setShorts (s : State) (cluster : Nat) (l : List (StrandId × Nat)) : State :=
  { s with shorts := Tab.put [] s.shorts cluster l }
/-- Removes a strand's recorded shortfall, in whichever cluster it was recorded. -/
def State.dropShort (s : State) (sid : StrandId) : State :=
  { s with shorts := (s.shorts.map fun (x : Nat × List (StrandId × Nat)) =>
      (x.1, x.2.filter fun y => y.1 != sid)).filter fun x => !x.2.isEmpty }
/-- Lowers recorded shortfalls, the oldest first, by an amount in all (R221). -/
def lowerShorts : Nat → List (StrandId × Nat) → List (StrandId × Nat)
  | 0, l => l
  | _, [] => []
  | n, (i, k) :: r => if k ≤ n then lowerShorts (n - k) r else (i, k - n) :: r

/-- A register of `w` lanes brought to `g` lanes: new lanes are zero, leaving lanes are lost (R219). -/
def resizeLanes (g : Nat) (l : List Word32) : List Word32 := (l ++ List.replicate g 0#32).take g

/-- Drops what the slices of lanes `g` and above hold (R219). -/
def dropSlices (m : Mem) (g : Nat) : Mem := m.clear fun a => 4096 * g ≤ a

/-- What a window of a vector load still hides, in a claim brought to `g` lanes; `VREL` ends it (R219, R222). -/
def resizeWindows (g : Nat) (ws : List Window) : List Window :=
  if g = 0 then []
  else ws.map fun x => { x with writes := x.writes.map fun y =>
    match y with
    | .v n ls t => .v n (resizeLanes g ls) t
    | y => y }

/-- The claim brought to `g` lanes, with VEC (R18, R220). -/
def Context.resize (c : Context) (g : Nat) : Context :=
  { c with
    vec := { c.vec with
      w := g
      v := c.vec.v.map (resizeLanes g)
      k := c.vec.k.map fun b => b &&& fullMask (min g c.vec.w)
      slice := dropSlices c.vec.slice g
      windows := resizeWindows g c.vec.windows }
    sys := { c.sys with status := putBit c.sys.status vecBit (0 < g) } }

/-- R220. (DEDUCED, log 68.) -/
def vclaimStep (n dx : BitVec 4) (s : State) : State :=
  let r := 16 * (n.toNat + 1)
  let k := s.myCluster
  let w := s.me.ctx.W
  let avail := 16 * ((s.freeLanes k - s.owedLanes k) / 16)
  let g := if r ≤ w then r else w + min (r - w) avail
  let s := s.dropShort s.me.sid
  let s := if g < r then s.setShorts k (s.shortList k ++ [(s.me.sid, r - g)]) else s
  s.done ((s.me.ctx.resize g).write (.d (dregNum dx) (BitVec.ofNat 64 g)))

/-- `VCLAIM` (R220). -/
def execVclaim (n dx : BitVec 4) (s : State) : Result := .next (vclaimStep n dx s)

/-- R221: the renegotiation point of `ITER.S`. -/
def State.renegotiate (s : State) : State :=
  let k := s.myCluster
  let w := s.me.ctx.W
  if w = 0 then s
  else
    let s := s.dropShort s.me.sid
    let short := shortSum (s.shortList k)
    if 16 < w ∧ 0 < short + s.resv k then
      let w' := max 16 (16 * (w / 32))
      (s.setShorts k (lowerShorts (min short (w - w')) (s.shortList k))).setCtx (s.me.ctx.resize w')
    else s

/-- R222: every lane is returned; the tags are kept. (DEDUCED, log 68.) -/
def State.releaseLanes (s : State) : State :=
  (s.dropShort s.me.sid).setCtx (s.me.ctx.resize 0)

/-- `VREL` (R222). -/
def execVrel (s : State) : Result := .next (if s.me.ctx.W = 0 then s.setNote .done else s.releaseLanes.setNote .done)

/-- `VWID` (R222). -/
def execVwid (dx : BitVec 4) (s : State) : Result :=
  .next (s.done (s.me.ctx.write (.d (dregNum dx) (BitVec.ofNat 64 s.me.ctx.W))))

/-! ## Masks (R240) -/

/-- A mask operation. -/
def State.maskOp (s : State) (kd : BitVec 4) (f : Context → BitVec 256) : State :=
  s.vector fun c => .ok (c.setMask (maskNum kd) (f c))

/-- `KAND` (R240). -/
def execKand (kd ka kb : BitVec 4) (s : State) : Result :=
  .next (s.maskOp kd fun c => c.mask (maskNum ka) &&& c.mask (maskNum kb))
/-- `KOR` (R240). -/
def execKor (kd ka kb : BitVec 4) (s : State) : Result :=
  .next (s.maskOp kd fun c => c.mask (maskNum ka) ||| c.mask (maskNum kb))
/-- `KXOR` (R240). -/
def execKxor (kd ka kb : BitVec 4) (s : State) : Result :=
  .next (s.maskOp kd fun c => c.mask (maskNum ka) ^^^ c.mask (maskNum kb))
/-- `KNOT` (R240). -/
def execKnot (kd ka : BitVec 4) (s : State) : Result := .next (s.maskOp kd fun c => ~~~c.mask (maskNum ka))
/-- `KMOV` (R240). -/
def execKmov (kd ka : BitVec 4) (s : State) : Result := .next (s.maskOp kd fun c => c.mask (maskNum ka))

/-- The lowest set bit of a mask among its first `n` (R240). -/
def firstBit (m : BitVec 256) (n : Nat) : Word :=
  match (List.range n).find? m.getLsbD with
  | some i => BitVec.ofNat 64 i
  | none => BitVec.allOnes 64

/-- `KPOP` (R240). -/
def execKpop (dx ka : BitVec 4) (s : State) : Result :=
  .next (s.vector fun c =>
    .ok (c.write (.d (dregNum dx) (BitVec.ofNat 64 ((List.range c.W).filter (c.mask (maskNum ka)).getLsbD).length))))
/-- `KFIRST` (R240). -/
def execKfirst (dx ka : BitVec 4) (s : State) : Result :=
  .next (s.vector fun c => .ok (c.write (.d (dregNum dx) (firstBit (c.mask (maskNum ka)) c.W))))

end Sys2Proof.Machine
end

