-- ==== Sys2Proof/Machine/Barrier.lean ====
section
/-! DEFINITION. Groups and barriers, major 0x16 (R346 to R353). -/

namespace Sys2Proof.Machine

/-- The entry of a group table of a node. -/
def State.group (s : State) (r : LaunchRef) (e : Nat) : Group :=
  match s.node? r with
  | some n => Tab.get {} n.groups e
  | none => {}
def State.setGroup (s : State) (r : LaunchRef) (e : Nat) (g : Group) : State :=
  s.modifyNode r fun n => { n with groups := Tab.put {} n.groups e g }

/-- The group that a membership position names (R20, R348). -/
def Strand.groupAt (m : Strand) (pos : Nat) : Nat := ((m.groups.toList.getD pos 0#16).extractLsb' 0 8).toNat
/-- The valid memberships, as group indexes. -/
def Strand.memberOf (m : Strand) : List Nat :=
  (m.groups.toList.filter fun g => g.getLsbD 15).map fun g => (g.extractLsb' 0 8).toNat

/-- R350: passed(g). -/
def passed (now g : BitVec 16) : Bool := let d := (now - g).toNat; 1 ≤ d && d ≤ 32768

/-- The clock of a core in MHz from its speed-table code (R2), not stretched for a sag. -/
def State.clockMHz (s : State) (core : Nat) : Nat := 900 + 10 * s.speedCode core

/-- R353: the words of a report. -/
def duskWord0 (gen : BitVec 16) (last : StrandId) : Word := gen ++ 0#16 ++ last
def duskWord1 (ticks cycles : Nat) : Word := BitVec.ofNat 64 (min ticks 0xFFFFFF * 2 ^ 40 + min cycles (2 ^ 40 - 1))

/-- Complete() of R349, for the member that arrived last, at a mesh cycle. -/
def State.completePhase (s : State) (r : LaunchRef) (e : Nat) (last : StrandId) (now : Nat) : State :=
  let g := s.group r e
  let f := match s.strand? last with
    | some m => s.clockMHz m.core
    | none => 0
  s.setGroup r e { g with
    gen := g.gen + 1
    arr := 0
    arrived := []
    dusk0 := duskWord0 (g.gen + 1) last
    dusk1 := duskWord1 (s.tick - g.t0tk) ((now - g.t0) * f / 1600) }

/-- Arrive(S, e) of R349 for the strand in turn, which is not in the arrived set: the phase arrived in. -/
def State.arrive (s : State) (e : Nat) : BitVec 16 × State :=
  let m := s.me
  let t := s.meshNow
  let g := t.2.group m.launch e
  let g1 : Group := if g.arr = 0 then { g with t0 := t.1, t0tk := s.tick } else g
  let g2 : Group := { g1 with arr := g1.arr + 1, arrived := g1.arrived ++ [m.sid], stamp := max g1.stamp m.ts }
  let s1 := t.2.setGroup m.launch e g2
  (g.gen, if g2.arr = g2.live then s1.completePhase m.launch e m.sid t.1 else s1)

/-- R350, R352: `BAR` or `BARW` completes: x ← GEN, and ts rises to STAMP. -/
def State.endBarrier (s : State) (e : Nat) (x : Reg) (end_ : Context → State → State) : State :=
  let g := s.group s.me.launch e
  match s.me.ctx.writeReg .access 0 0 x (g.gen.setWidth 64) with
  | .ok c => end_ c (s.raiseTs g.stamp)
  | .error _ => s

/-- `BAR` or `BARA` of the strand in turn at an entry, without the held arrivals that it may release. -/
def barOnce (bar : Bool) (x : Reg) (e : Nat) (s : State) : State :=
  let g := s.group s.me.launch e
  if g.arrived.contains s.me.sid then
    let held := if g.held.any (fun h => h.sid == s.me.sid) then g.held else g.held ++ [⟨s.me.sid, bar, x⟩]
    (s.setGroup s.me.launch e { g with held := held }).block
  else
    let a := s.arrive e
    if bar then
      if passed (a.2.group s.me.launch e).gen a.1 then a.2.endBarrier e x fun c s => s.done c
      else a.2.park (.barrier e a.1 x true)
    else
      match a.2.me.ctx.writeReg .access 0 0 x (a.1.setWidth 64) with
      | .ok c => a.2.done c
      | .error q => a.2.hold q

/-- R349: once a phase has completed, the held arrivals are made in order. -/
def releaseHeld : Nat → LaunchRef → Nat → State → State
  | 0, _, _, s => s
  | n + 1, r, e, s =>
    let g := s.group r e
    match g.held with
    | [] => s
    | h :: rest =>
      if g.arrived.contains h.sid then s
      else
        releaseHeld n r e
          ((s.setGroup r e { g with held := rest }).as h.sid fun s => s.runHeld (barOnce h.bar h.x e))

/-- Runs a step at an entry and then makes the arrivals that it has released. -/
def State.withHeld (s : State) (r : LaunchRef) (e : Nat) (f : State → State) : State :=
  let t := f s
  releaseHeld (t.group r e).held.length r e t

/-- R347: a membership of a strand at an entry ends. -/
def State.endMembership (s : State) (r : LaunchRef) (sid : StrandId) (e : Nat) : State :=
  s.withHeld r e fun s =>
    let g := s.group r e
    let here := g.arrived.contains sid
    let g1 : Group := { g with
      arrived := g.arrived.erase sid
      arr := if here then g.arr - 1 else g.arr
      live := g.live - 1
      held := g.held.filter fun h => h.sid != sid }
    let s1 := s.setGroup r e g1
    if 0 < g1.live ∧ g1.arr = g1.live then
      let t := s1.meshNow
      t.2.completePhase r e (g1.arrived.getLastD 0#32) t.1
    else s1

/-- The guard and the membership check that the five instructions share (R348). -/
def State.atGroup (s : State) (g : Guard) (m : BitVec 5) (f : Nat → State) : State :=
  if s.me.ctx.holds g = false then s.setNote .done
  else if s.me.ngrp ≤ m.toNat then s.trap (s.wordTrap .illegalCombination)
  else f (s.me.groupAt m.toNat)

/-- `BAR` (R350). -/
def execBar (g : Guard) (d : Reg) (m : BitVec 5) (s : State) : Result :=
  .next (s.atGroup g m fun e => s.withHeld s.me.launch e (barOnce true d e))

/-- `BARA` (R350). -/
def execBara (g : Guard) (d : Reg) (m : BitVec 5) (s : State) : Result :=
  .next (s.atGroup g m fun e => s.withHeld s.me.launch e (barOnce false d e))

/-- The low 16 bits of a register. -/
def genOf (r : Reg) (c : Context) : BitVec 16 := (jumpValue r c).setWidth 16

/-- `BARW` (R350): it does not arrive. -/
def execBarw (g : Guard) (d s1 : Reg) (m : BitVec 5) (s : State) : Result :=
  .next (s.atGroup g m fun e =>
    let w := genOf s1 s.me.ctx
    if passed (s.group s.me.launch e).gen w then s.endBarrier e d fun c s => s.done c
    else s.park (.barrier e w d false))

/-- `BART` (R350, R352). -/
def execBart (g : Guard) (pd : BitVec 4) (s1 : Reg) (m : BitVec 5) (s : State) : Result :=
  .next (s.atGroup g m fun e =>
    let x := s.group s.me.launch e
    let b := passed x.gen (genOf s1 s.me.ctx)
    (if b then s.raiseTs x.stamp else s).done (s.me.ctx.write (.p pd b)))

/-- `BARS` (R350, R353): x and x + 1. -/
def execBars (g : Guard) (d : Reg) (m : BitVec 5) (s : State) : Result :=
  .next (s.atGroup g m fun e =>
    let x := s.group s.me.launch e
    match d with
    | .a n =>
      if n.val < 10 then s.done ((s.me.ctx.write (.a n x.dusk0)).write (.a (n + 1) x.dusk1))
      else s.trap (s.wordTrap .illegalCombination)
    | _ => s.setNote .done)

/-- R166: the waits of `BAR` and `BARW` of the strand in turn, tested again at a wake. -/
def State.wakeBarrier (s : State) (e : Nat) (gen : BitVec 16) (x : Reg) : State :=
  if passed (s.group s.me.launch e).gen gen then
    let b := s.me.ctx
    s.endBarrier e x fun c s => { s with me := ({ s.me with ctx := c } : Strand).leavePark b }
  else s

end Sys2Proof.Machine
end

