-- ==== Sys2Proof/Machine/PlainAccess.lean ====
section
/-! DEFINITION. The plain loads and stores that larger instructions make (R143, R242, R254, R292, R405, R426). -/

namespace Sys2Proof.Machine

/-- Why the accesses of an instruction end before the last: a trap, or the end of its strand's turn (R143, R242). -/
inductive Stop where
  | trap (t : Trap)
  | pause (s : State)

/-- What an instruction that began in `s` does where its accesses stop: broken off, it keeps what they gave and stands again
before its issue. -/
def State.stopAt (s : State) : Stop → State
  | .trap t => s.trap t
  | .pause u =>
    { u with me := { ({ u.me with ctx := { s.me.ctx with acc := { s.me.ctx.acc with
        poisonCnt := u.me.ctx.acc.poisonCnt } } } : Strand).rollback with parts := u.burst.made, note := .paused } }

/-- A load of the instruction in turn has given a value. -/
def State.madeLoad (s : State) (v : Nat) : State :=
  { s with burst := { s.burst with cut := s.burst.cut.map (· - 1), made := s.burst.made ++ [v] } }

/-- A load of an instruction that makes several: it neither migrates nor completes the instruction. One made in an earlier turn
is not made again. A word of another package's memory, which that package's strands write, reads as a free value. (DESIGN CHOICE, log 17; DEDUCED, log 93.) -/
def State.plainLoad (s : State) (va : Word) (n : Nat) : Except Stop (Nat × State) :=
  match s.burst.replay, s.burst.cut with
  | v :: vs, _ => .ok (v, { s with burst := { s.burst with replay := vs, made := s.burst.made ++ [v] } })
  | [], some 0 => .error (.pause s)
  | [], _ =>
    match s.check va n needR with
    | .error t => .error (.trap t)
    | .ok pl =>
      let r := s.usePage s.me.launch.part s.me.core false pl
      if 2 ^ 52 ≤ pl.key then
        let d := r.1.draw
        let v := d.1 % 2 ^ (8 * n)
        .ok (v, d.2.madeLoad v)
      else
        match r.1.loadAt va pl.key n r.2 with
        | .error t => .error (.trap t)
        | .ok (v, s) => .ok (v, s.madeLoad v)

/-- The loads of a list of addresses, in order. -/
def State.loadEach (s : State) (n : Nat) : List Word → Except Stop (List Nat × State)
  | [] => .ok ([], s)
  | va :: r =>
    match s.plainLoad va n with
    | .error t => .error t
    | .ok (v, s) =>
      match s.loadEach n r with
      | .error t => .error t
      | .ok (vs, s) => .ok (v :: vs, s)

/-- An instruction one of whose accesses fails is not broken off before it (R103): the trap leaves nothing done. -/
def State.unbroken (s : State) (n : Nat) (l : List Word) : State :=
  if l.all fun va => match s.check va n needR with
    | .ok _ => true
    | .error _ => false
  then s
  else { s with burst := { s.burst with cut := none } }

/-- `count` loads of `n` bytes, at increasing addresses. (DEDUCED, log 93.) -/
def State.plainLoads (s : State) (va : Word) (n count : Nat) : Except Stop (List Nat × State) :=
  let l := (List.range count).map fun i => va + BitVec.ofNat 64 (n * i)
  (s.unbroken n l).loadEach n l

/-- The checks of a store of an instruction that makes several. -/
def State.checkStore (s : State) (va : Word) (n v : Nat) : Except Trap PendingStore :=
  match s.check va n needW with
  | .error t => .error t
  | .ok pl => .ok ⟨va, pl.key, n, v⟩

/-- A store that has passed its checks is performed. A page that has gone since takes it as it was found. -/
def State.performStore (s : State) (g : PendingStore) : State :=
  let r : State × Bool := match s.check g.va g.size needW with
    | .ok pl => s.usePage s.me.launch.part s.me.core false pl
    | .error _ => (s, false)
  if 2 ^ 52 ≤ g.key then
    { r.1 with remoteOps := r.1.remoteOps ++
      [⟨s.me.sid, g.va, g.key, g.size, .store (BitVec.ofNat 64 g.value), .none, 0, true, s.me.launch, s.tick, false⟩] }
  else (r.1.storeAt g.key g.size g.value r.2).wake s.mem (wordKeys g.key g.size)

/-- Stores of `n` bytes of an instruction, with their addresses, in order: all are checked before the first is performed (R103).
What the turn has no room for is performed before the strand goes on. (DEDUCED, log 93.) -/
def State.storeEach (s : State) (n : Nat) (l : List (Word × Nat)) : Except Trap State :=
  match l.mapM fun x => s.checkStore x.1 n x.2 with
  | .error t => .error t
  | .ok gs =>
    let k := s.burst.cut.getD gs.length
    let t := (gs.take k).foldl State.performStore s
    .ok { t with me := { t.me with going := t.me.going ++ gs.drop k } }

/-- The strand goes on with the stores of its last instruction, as many as its turn has room for. (DEDUCED, log 93.) -/
def State.goOn (s : State) : State :=
  let gs := s.me.going
  let k := s.burst.cut.getD gs.length
  (gs.take k).foldl State.performStore { s with me := { s.me with going := gs.drop k, note := .stalled } }

/-- Stores of `n` bytes, at increasing addresses. (DEDUCED, log 93.) -/
def State.plainStores (s : State) (va : Word) (n : Nat) (vs : List Nat) : Except Trap State :=
  s.storeEach n (vs.zipIdx.map fun x => (va + BitVec.ofNat 64 (n * x.2), x.1))

/-- The checks of R114 for an address that must be a multiple of `n`, before its words are reached. -/
def alignCheck (va : Word) (n : Nat) : Option Trap :=
  if !canonical va then some ⟨.translationFault, va⟩
  else if va.toNat % n ≠ 0 then some ⟨.misaligned, va⟩
  else none

end Sys2Proof.Machine
end

