-- ==== Sys2Proof/Machine/RegionCanon.lean ====
section
/-! DEFINITION. Sets of points as lists of boxes, the canonical form (R136 to R138), ragged regions (R141) and images (R133, R134, R152). -/

namespace Sys2Proof.Machine

/-! ## Dimensions and boxes -/

/-- The last coordinate of a dimension entry. -/
def Dim.last (d : Dim) : Int := d.start + (d.ext - 1 : Nat) * d.step
/-- Whether a dimension entry covers a coordinate (R136). -/
def Dim.covers (d : Dim) (c : Int) : Bool :=
  0 < d.ext && d.start ≤ c && c ≤ d.last && (c - d.start) % (d.step : Int) == 0
/-- R136: an entry of extent 1 carries STEP 1. -/
def Dim.norm (d : Dim) : Dim := if d.ext = 1 then { d with step := 1 } else d
/-- The coordinates of an entry, in increasing order. -/
def Dim.coords (d : Dim) : List Int := (List.range d.ext).map fun (j : Nat) => d.start + ((j * d.step : Nat) : Int)
/-- The entry of a dimension at or above the rank (R136). -/
def Dim.pad : Dim := ⟨0, 1, 1⟩

def boxPoints (b : Box) : Nat := b.foldl (fun n d => n * d.ext) 1
/-- The points of a box, in lexicographic order. -/
def Box.points : Box → List (List Int)
  | [] => [[]]
  | d :: ds => d.coords.flatMap fun c => (Box.points ds).map (c :: ·)

/-! ## The canonical form (R137) -/

/-- The boxes of a list that cover a coordinate of their outermost dimension, with that dimension removed. -/
def crossBoxes (bs : List Box) (c : Int) : List Box :=
  bs.filterMap fun b =>
    match b with
    | d :: ds => if d.covers c then some ds else none
    | [] => none

/-- The coordinates of the outermost dimension that some box of a list covers, in increasing order. -/
def outerCoords (bs : List Box) : List Int :=
  let all := bs.flatMap fun b =>
    match b with
    | d :: _ => d.coords
    | [] => []
  (sortBy (· ≤ ·) all).eraseReps

/-- The run of slabs with cross-section `x` at `at_`, `at_` + s, …: how many follow, and the slabs left. -/
def takeRun (x : List Box) (s : Nat) : Nat → Int → List (Int × List Box) → Nat × List (Int × List Box)
  | _, _, [] => (0, [])
  | room, at_, (c, y) :: rest =>
    if c = at_ ∧ y = x ∧ room ≠ 0 then
      let r := takeRun x s (room - 1) (at_ + s) rest
      (r.1 + 1, r.2)
    else if c < at_ then
      let r := takeRun x s room at_ rest
      (r.1, (c, y) :: r.2)
    else (0, (c, y) :: rest)

/-- The loop of R137 over the non-empty slabs, in increasing order of their coordinate. -/
def mergeSlabs : Nat → List (Int × List Box) → List Box
  | 0, _ => []
  | _, [] => []
  | fuel + 1, (a, x) :: rest =>
    let s : Nat := match rest with
      | (b, y) :: _ => if b - a ≤ 255 ∧ y = x then (b - a).toNat else 1
      | [] => 1
    let r := takeRun x s (2 ^ 24 - 1) (a + s) rest
    x.map (fun ds => Dim.norm ⟨a, r.1 + 1, s⟩ :: ds) ++ mergeSlabs fuel r.2

/-- Canon (R137) of the points p with `keep` (p in A) (p in B), for unions of boxes A and B of a rank. -/
def canonSet (keep : Bool → Bool → Bool) : Nat → List Box → List Box → List Box
  | 0, a, b => if keep (!a.isEmpty) (!b.isEmpty) then [[]] else []
  | rank + 1, a, b =>
    let slabs := (outerCoords (a ++ b)).map fun c => (c, canonSet keep rank (crossBoxes a c) (crossBoxes b c))
    let slabs := slabs.filter fun x => !x.2.isEmpty
    mergeSlabs slabs.length slabs

/-- Lexicographic order of starting coordinates. -/
def boxLe : Box → Box → Bool
  | [], _ => true
  | _, [] => false
  | d :: ds, e :: es => d.start < e.start || (d.start == e.start && boxLe ds es)

/-- Whether a box is its own canonical form. -/
def boxPlain (b : Box) : Bool := b.all fun d => 1 ≤ d.ext && d.ext ≤ 2 ^ 24 && 1 ≤ d.step && d.step ≤ 255

/-- The canonical form of a union of boxes. A single box is its own (R150). -/
def canonUnion (rank : Nat) (a : List Box) : List Box :=
  match a with
  | [b] => if boxPlain b then [b.map Dim.norm] else sortBy boxLe (canonSet (fun x _ => x) rank a [])
  | _ => sortBy boxLe (canonSet (fun x _ => x) rank a [])

def canonInter (rank : Nat) (a b : List Box) : List Box := sortBy boxLe (canonSet (fun x y => x && y) rank a b)
def canonDiff (rank : Nat) (a b : List Box) : List Box := sortBy boxLe (canonSet (fun x y => x && !y) rank a b)

/-- The hull of a non-empty list of boxes of one rank, with STEP 1 (R138). -/
def hullOf (bs : List Box) : Box :=
  match bs with
  | [] => []
  | b :: rest =>
    rest.foldl (fun h c => List.zipWith (fun x y : Dim =>
        let lo := min x.start y.start
        let hi := max x.last y.last
        ⟨lo, (hi - lo).toNat + 1, 1⟩) h c)
      (b.map fun d => ⟨d.start, (d.last - d.start).toNat + 1, 1⟩)

/-- R136: every coordinate of a box lies in −2^31 to 2^31 − 1. -/
def boxInRange (b : Box) : Bool := b.all fun d => -2147483648 ≤ d.start && d.last ≤ 2147483647
/-- R139: the limit on a hull. -/
def hullOk (b : Box) : Bool := boxInRange b && b.all fun d => d.ext ≤ 2 ^ 24

/-! ## Regions -/

def Region.bound (r : Region) : Bool := r.tda != 0#64

/-- R141: the rows of a ragged box, each a box, in the order of their points. (DEDUCED, log 69.) -/
def raggedRows (b : Box) (rows : List Nat) : List Box :=
  match b.drop (b.length - 2) with
  | [r, c] => (Box.points (b.take (b.length - 2))).flatMap fun o =>
      rows.zipIdx.filterMap fun (x : Nat × Nat) =>
        if x.1 = 0 then none
        else some (o.map (fun i => (⟨i, 1, 1⟩ : Dim)) ++ [⟨r.start + (x.2 : Int) * r.step, 1, 1⟩, Dim.norm ⟨c.start, x.1, c.step⟩])
  | _ => []

/-- The boxes whose union is the region's set: a ragged region expanded. -/
def Region.set (r : Region) : List Box :=
  match r.rows, r.boxes with
  | some rows, b :: _ => raggedRows b rows
  | _, bs => bs

/-- The number of points (R136). -/
def Region.points (r : Region) : Nat := r.set.foldl (fun n b => n + boxPoints b) 0
/-- The size in bytes (R136). -/
def Region.size (r : Region) : Nat := r.points * 2 ^ r.esz

/-- The box that contains exactly the points in bounds (R136). -/
def Region.boundsBox (r : Region) : Box := (r.bounds.take r.rank).map fun n => ⟨0, n, 1⟩

/-- A result with the binding of another region: its canonical list, or the hull of R138. Nothing where R139 refuses. -/
def Region.result (like : Region) (bs : List Box) (ovf : Bool) : Option Region :=
  if bs.isEmpty then some Region.unbound
  else if bs.length ≤ 8 then some { like with ovf := ovf, boxes := bs, rows := none }
  else if hullOk (hullOf bs) then some { like with ovf := true, boxes := [hullOf bs], rows := none }
  else none

/-! ## Images (R133, R134) -/

/-- The 64-bit layout of a dimension entry. -/
def Dim.entry (d : Dim) : Word := BitVec.ofNat 8 d.step ++ BitVec.ofNat 24 (d.ext - 1) ++ BitVec.ofInt 32 d.start
/-- The dimension entry of a 64-bit layout. -/
def Dim.ofEntry (w : Word) : Dim := ⟨(w.extractLsb' 0 32).toInt, (w.extractLsb' 32 24).toNat + 1, (w.extractLsb' 56 8).toNat⟩

/-- A box as four entries. -/
def boxImage (b : Box) : List Word := ((b ++ List.replicate 4 Dim.pad).take 4).map Dim.entry

/-- NBOX. -/
def Region.nbox (r : Region) : Nat := r.boxes.length

/-- The header word (R134). -/
def Region.header (r : Region) : Word :=
  BitVec.ofNat 64 (r.rank + 2 ^ 8 * r.esz + 2 ^ 16 * r.nbox + 2 ^ 24 * r.ovf.toNat + 2 ^ 25 * r.rows.isSome.toNat)

/-- Two 32-bit numbers in one 64-bit word. -/
def pairWord (a b : Nat) : Word := BitVec.ofNat 64 (a % 2 ^ 32 + 2 ^ 32 * b)
def pairUp : List Nat → List Word
  | a :: b :: r => pairWord a b :: pairUp r
  | [a] => [pairWord a 0]
  | [] => []
def zeroWords (n : Nat) : List Word := List.replicate n 0#64
def padTo (n : Nat) (l : List Word) : List Word := (l ++ zeroWords n).take n

/-- The 40 words of a region's image. -/
def Region.image (r : Region) : List Word :=
  [r.tda, r.header] ++ padTo 2 (pairUp r.bounds) ++
    match r.rows with
    | some rows => padTo 4 (r.boxes.flatMap boxImage) ++ padTo 32 (pairUp rows)
    | none => zeroWords 4 ++ padTo 32 (r.boxes.flatMap boxImage)

def lo32 (w : Word) : Nat := (w.extractLsb' 0 32).toNat
def hi32 (w : Word) : Nat := (w.extractLsb' 32 32).toNat

/-- The box of four entries, of a rank. -/
def boxOf (rank : Nat) (ws : List Word) : Box := (ws.take rank).map Dim.ofEntry

/-- The region that an image holds, whether or not R152 accepts it. -/
def Region.ofImage (ws : List Word) : Region :=
  let h := ws.getD 1 0#64
  let rank := (h.extractLsb' 0 8).toNat
  let w (i : Nat) : Word := ws.getD i 0#64
  let nbox := (h.extractLsb' 16 8).toNat
  let rag := h.getLsbD 25
  let box0 := boxOf rank [w 4, w 5, w 6, w 7]
  { tda := w 0
    rank := rank
    esz := (h.extractLsb' 8 8).toNat
    ovf := h.getLsbD 24
    bounds := if w 0 = 0#64 then [] else [lo32 (w 2), hi32 (w 2), lo32 (w 3), hi32 (w 3)]
    boxes := if rag then [box0] else (List.range nbox).map fun i => boxOf rank ((ws.drop (8 + 4 * i)).take 4)
    rows := if rag then
        some (((ws.drop 8).flatMap fun x => [lo32 x, hi32 x]).take ((box0.getD (rank - 2) Dim.pad).ext))
      else none }

/-- R152: whether a region is one that a region instruction could have written. -/
def Region.valid (r : Region) : Bool :=
  r == Region.unbound ||
    (r.bound && 1 ≤ r.rank && r.rank ≤ 4 && r.esz ≤ 3 && 1 ≤ r.nbox && r.nbox ≤ 8 &&
      r.bounds.length == 4 && (r.bounds.take r.rank).all (fun n => 1 ≤ n && n ≤ 2 ^ 24) &&
      (r.bounds.drop r.rank).all (· == 1) &&
      r.boxes.all (fun b => boxPlain b && boxInRange b) &&
      match r.rows with
      | none => r.boxes.all (fun b => b.map Dim.norm == b) && canonUnion r.rank r.boxes == r.boxes
      | some rows =>
        let b := r.boxes.headD []
        2 ≤ r.rank && !r.ovf && b.map Dim.norm == b && rows.length ≤ 64 && (b.getD (r.rank - 2) Dim.pad).ext ≤ 64 &&
          (b.getD (r.rank - 1) Dim.pad).ext == 1 && rows.all (· ≤ 2 ^ 24) && rows.any (· != 0) &&
          r.set.all boxInRange)

/-- R152: the region that `QLD` accepts of an image. -/
def Region.load (ws : List Word) : Option Region :=
  let r := Region.ofImage ws
  if r.valid && r.image == padTo 40 ws then some r else none

end Sys2Proof.Machine
end

