-- ==== Sys2Proof/Machine/Region.lean ====
section
/-! DEFINITION. The region instructions, majors 0x20 to 0x22 (R131 to R156), and the check of region operands (R157). -/

namespace Sys2Proof.Machine

/-- How a region instruction ends. -/
inductive RegionEnd where
  /-- A result for qd. -/
  | region (r : Region)
  /-- IllegalCombination. -/
  | bad
  /-- RegionOverflowUse at a register. -/
  | ovf (q : BitVec 4)
  deriving DecidableEq, Repr

def Context.q (c : Context) (n : BitVec 4) : Region := c.acc.q[n.toNat]
def Context.setQ (c : Context) (n : BitVec 4) (r : Region) : Context :=
  { c with acc := { c.acc with q := c.acc.q.set n.toNat r } }

/-- R140: RegionOverflowUse at a register. -/
def overflowTrap (q : BitVec 4) : Trap := ⟨.regionOverflowUse, q.setWidth 64⟩

/-- Ends a region instruction, with the context after its scalar operand has been read. -/
def State.endRegion (s : State) (c : Context) (qd : BitVec 4) (r : RegionEnd) : State :=
  match r with
  | .region r => s.done (c.setQ qd r)
  | .bad => s.trap (s.wordTrap .illegalCombination)
  | .ovf q => s.trap (overflowTrap q)

def RegionEnd.ofOption : Option Region → RegionEnd
  | some r => .region r
  | none => .bad

/-! ## Set algebra (R144 to R148) -/

/-- R143: whether two operands are bound to different descriptors. -/
def clash (a b : Region) : Bool := a.bound && b.bound && a.tda != b.tda
/-- The operand whose binding a result takes. -/
def binding (a b : Region) : Region := if a.bound then a else b

/-- A result over two operands, in the rank and with the binding of one of them. (DESIGN CHOICE, log 101.) -/
def setOp (f : Nat → List Box → List Box → List Box) (a b : Region) (ovf : Bool) : RegionEnd :=
  if clash a b then .bad
  else
    let l := binding a b
    .ofOption (l.result (f l.rank a.set b.set) ovf)

def uniOf (a b : Region) : RegionEnd := setOp (fun r x y => canonUnion r (x ++ y)) a b (a.ovf || b.ovf)
def intOf (a b : Region) : RegionEnd := setOp canonInter a b (a.ovf || b.ovf)
def subOf (qb : BitVec 4) (a b : Region) : RegionEnd :=
  if clash a b then .bad else if b.ovf then .ovf qb else setOp canonDiff a b a.ovf

/-- The union of changed boxes (R145), refused where a coordinate leaves the range of R139. -/
def changed (a : Region) (bs : List Box) : RegionEnd :=
  if bs.all boxInRange then .ofOption (a.result (canonUnion a.rank bs) a.ovf) else .bad

/-- Changes dimension d of every box. -/
def mapDim (d : Nat) (f : Dim → Dim) (bs : List Box) : List Box := bs.map fun b => b.modify d f

/-- R143: whether a dimension selector is at or above the rank of a bound source. -/
def badDim (a : Region) (d : Nat) : Bool := a.bound && a.rank ≤ d

def dilate (h : Nat) (d : Dim) : Dim := { d with start := d.start - ((h * d.step : Nat) : Int), ext := d.ext + 2 * h }

def dilOf (which : Nat) (v : Word) (a : Region) : RegionEnd :=
  if 2 ^ 20 < v.toNat then .bad
  else if which = 4 then changed a (a.set.map fun b => b.map (dilate v.toNat))
  else if badDim a which then .bad
  else changed a (mapDim which (dilate v.toNat) a.set)

def fits32 (v : Word) : Bool := -2147483648 ≤ v.toInt && v.toInt ≤ 2147483647

def shfOf (which : Nat) (v : Word) (a : Region) : RegionEnd :=
  if fits32 v = false ∨ badDim a which then .bad
  else changed a (mapDim which (fun d => { d with start := d.start + v.toInt }) a.set)

def prjOf (which : Nat) (v : Word) (a : Region) : RegionEnd :=
  if fits32 v = false ∨ badDim a which then .bad else changed a (mapDim which (fun _ => ⟨v.toInt, 1, 1⟩) a.set)

/-- R146. -/
def clipOf (a : Region) : RegionEnd := .ofOption (a.result (canonInter a.rank a.set [a.boundsBox]) a.ovf)

/-- R147. (DEDUCED, log 69.) -/
def splOf (which : Nat) (v : Word) (a : Region) : RegionEnd :=
  let n := (v.extractLsb' 0 16).toNat
  let i := (v.extractLsb' 16 16).toNat
  if v.extractLsb' 32 32 ≠ 0#32 ∨ n = 0 ∨ 4096 < n ∨ n ≤ i ∨ badDim a which then .bad
  else if !a.bound then .region Region.unbound
  else
    let h := hullOf a.set
    let d := h.getD which Dim.pad
    let lo := i * d.ext / n
    let hi := (i + 1) * d.ext / n
    let part := if lo < hi then [h.set which ⟨d.start + (lo : Int), hi - lo, 1⟩] else []
    .ofOption (a.result (canonInter a.rank a.set part) a.ovf)

/-- R148. -/
def hullEnd (a : Region) : RegionEnd :=
  if !a.bound then .region Region.unbound
  else
    let h := hullOf a.set
    if hullOk h then .region { a with ovf := false, boxes := [h], rows := none } else .bad

/-- The last coordinate of an entry, with its STEP as it stands. (DEDUCED, log 69.) -/
def boxOfQbox (which : Nat) (v : Word) (qa : BitVec 4) (a : Region) : RegionEnd :=
  let d := Dim.ofEntry v
  if !a.bound ∨ a.rows.isSome then .bad
  else if (a.nbox ≠ 1 ∧ a.ovf = false) ∨ badDim a which ∨ d.step = 0 ∨ 2147483647 < d.last then .bad
  else if a.ovf then .ovf qa
  else .region { a with boxes := [(a.boxes.headD []).set which d.norm] }

/-- `QUNI` (R144). -/
def execQuni (qd qa qb : BitVec 4) (s : State) : Result :=
  .next (s.endRegion s.me.ctx qd (uniOf (s.me.ctx.q qa) (s.me.ctx.q qb)))
/-- `QINT` (R144). -/
def execQint (qd qa qb : BitVec 4) (s : State) : Result :=
  .next (s.endRegion s.me.ctx qd (intOf (s.me.ctx.q qa) (s.me.ctx.q qb)))
/-- `QSUB` (R144). -/
def execQsub (qd qa qb : BitVec 4) (s : State) : Result :=
  .next (s.endRegion s.me.ctx qd (subOf qb (s.me.ctx.q qa) (s.me.ctx.q qb)))

/-- A region instruction with a scalar source. -/
def State.regionV (s : State) (v : Reg) (f : Word → Context → State) : State :=
  match s.me.ctx.read .access v with
  | .error q => s.hold q
  | .ok (x, c) => f x c

/-- `QDIL` (R145). -/
def execQdil (which : BitVec 3) (qd qa : BitVec 4) (v : Reg) (s : State) : Result :=
  .next (s.regionV v fun x c => s.endRegion c qd (dilOf which.toNat x (c.q qa)))
/-- `QSHF` (R145). -/
def execQshf (which : BitVec 3) (qd qa : BitVec 4) (v : Reg) (s : State) : Result :=
  .next (s.regionV v fun x c => s.endRegion c qd (shfOf which.toNat x (c.q qa)))
/-- `QPRJ` (R145). -/
def execQprj (which : BitVec 3) (qd qa : BitVec 4) (v : Reg) (s : State) : Result :=
  .next (s.regionV v fun x c => s.endRegion c qd (prjOf which.toNat x (c.q qa)))
/-- `QCLIP` (R146). -/
def execQclip (qd qa : BitVec 4) (s : State) : Result := .next (s.endRegion s.me.ctx qd (clipOf (s.me.ctx.q qa)))
/-- `QSPL` (R147). -/
def execQspl (which : BitVec 3) (qd qa : BitVec 4) (v : Reg) (s : State) : Result :=
  .next (s.regionV v fun x c => s.endRegion c qd (splOf which.toNat x (c.q qa)))
/-- `QHULL` (R148). -/
def execQhull (qd qa : BitVec 4) (s : State) : Result := .next (s.endRegion s.me.ctx qd (hullEnd (s.me.ctx.q qa)))

/-! ## Building regions (R149 to R153) -/

/-- The descriptor that eight words hold. -/
def Tensor.ofWords (ws : List Word) : Tensor :=
  let w (i : Nat) : Word := ws.getD i 0#64
  { base := w 0
    rank := ((w 1).extractLsb' 0 8).toNat
    esz := ((w 1).extractLsb' 8 8).toNat
    bounds := [lo32 (w 2), hi32 (w 2), lo32 (w 3), hi32 (w 3)]
    pitches := [(w 4).toNat, (w 5).toNat, (w 6).toNat, (w 7).toNat] }

/-- R132: the rule on the pitches of neighbouring dimensions, from dimension d on. -/
def pitchesOk : List Nat → List Nat → Bool
  | p :: q :: ps, _ :: b :: bs => q * b ≤ p && pitchesOk (q :: ps) (b :: bs)
  | _, _ => true

/-- R132. -/
def Tensor.valid (t : Tensor) (reserved : BitVec 48) : Bool :=
  let unit := 2 ^ t.esz
  1 ≤ t.rank && t.rank ≤ 4 && t.esz ≤ 3 && reserved == 0#48 && t.base.toNat % unit == 0 && canonical t.base &&
    (t.bounds.take t.rank).all (fun n => 1 ≤ n && n ≤ 2 ^ 24) && (t.bounds.drop t.rank).all (· == 1) &&
    (t.pitches.take t.rank).all (fun p => p % unit == 0) && (t.pitches.drop t.rank).all (· == 0) &&
    unit ≤ t.pitches.getD (t.rank - 1) 0 && pitchesOk (t.pitches.take t.rank) (t.bounds.take t.rank)

/-- The address of the element at a point (R131). -/
def Tensor.addr (t : Tensor) (p : List Int) : Word :=
  (p.zip t.pitches).foldl (fun a x => a + BitVec.ofInt 64 x.1 * BitVec.ofNat 64 x.2) t.base

/-- R149: reads and validates a descriptor; nothing where R132 refuses it. -/
def State.readTensor (s : State) (va : Word) : Except Stop (Option Tensor × State) :=
  match alignCheck va 64 with
  | some t => .error (.trap t)
  | none =>
    match s.plainLoads va 8 8 with
    | .error t => .error t
    | .ok (vs, s) =>
      let ws := vs.map (BitVec.ofNat 64)
      let t := Tensor.ofWords ws
      .ok (if t.valid ((ws.getD 1 0#64).extractLsb' 16 48) then some t else none, s)

/-- The whole tensor (R149). Address 0 binds no register (R135). (DESIGN CHOICE, log 101.) -/
def Region.whole (va : Word) (t : Tensor) : Option Region :=
  if va = 0#64 then none
  else some { tda := va, rank := t.rank, esz := t.esz, bounds := t.bounds
              boxes := [(t.bounds.take t.rank).map fun n => ⟨0, n, 1⟩] }

/-- `QBOX` (R150). -/
def execQbox (which : BitVec 3) (qd qa : BitVec 4) (v : Reg) (s : State) : Result :=
  .next (s.regionV v fun x c => s.endRegion c qd (boxOfQbox which.toNat x qa (c.q qa)))

/-- `QSTR` (R149). -/
def execQstr (qd : BitVec 4) (v : Reg) (s : State) : Result :=
  .next (s.regionV v fun x c =>
    match (s.setCtx c).readTensor x with
    | .error e => s.stopAt e
    | .ok (t, s1) =>
      match t.bind (Region.whole x) with
      | some r => s1.done (s1.me.ctx.setQ qd r)
      | none => s.trap (s.wordTrap .illegalCombination))

/-- R151: whether an address leads to a core scratchpad or to cluster-shared memory. -/
def tableHome (key : Nat) : Bool :=
  match storageOf key with
  | .core _ | .shared _ => true
  | _ => false

/-- R151: whether every word of a row-length table stands where it must. (DEDUCED, log 69.) -/
def State.tableOk (s : State) (va : Word) (m : Nat) : Except Trap Bool :=
  match (List.range (max m 1)).findSome? fun i =>
    match s.check (va + BitVec.ofNat 64 (4 * i)) 4 needR with
    | .error t => some t
    | .ok pl => if tableHome pl.key then none else some ⟨.protectionFault, va⟩ with
  | some t => .error t
  | none => .ok true

/-- `QRAG` (R151): the inner STEP stays that of `qa`. (DEDUCED, log 69.) -/
def qragStep (qd qa : BitVec 4) (s : State) (x : Word) (c : Context) : State :=
  let a := c.q qa
  let m := ((a.boxes.headD []).getD (a.rank - 2) Dim.pad).ext
  let fine := a.bound && a.rows.isNone && a.nbox == 1 && 2 ≤ a.rank && m ≤ 64
  match s.tableOk x (if fine then m else 1) with
  | .error t => s.trap t
  | .ok _ =>
    if !fine then s.trap (s.wordTrap .illegalCombination)
    else if a.ovf then s.trap (s.wordTrap .illegalCombination)
    else
      match (s.setCtx c).plainLoads x 4 m with
      | .error e => s.stopAt e
      | .ok (rows, s1) =>
        if rows.any (2 ^ 24 < ·) then s.trap (s.wordTrap .illegalCombination)
        else
          let box := (a.boxes.headD []).modify (a.rank - 1) fun d => { d with ext := 1 }
          let r : Region := { a with boxes := [box], rows := some rows }
          if rows.all (· == 0) then s1.done (s1.me.ctx.setQ qd Region.unbound)
          else if r.set.all boxInRange then s1.done (s1.me.ctx.setQ qd r)
          else s.trap (s.wordTrap .illegalCombination)

/-- `QRAG` (R151). -/
def execQrag (qd qa : BitVec 4) (v : Reg) (s : State) : Result :=
  .next (s.regionV v fun x c =>
    match alignCheck x 4 with
    | some t => s.trap t
    | none => qragStep qd qa s x c)

/-- `QLD` (R152). -/
def execQld (qd : BitVec 4) (v : Reg) (s : State) : Result :=
  .next (s.regionV v fun x c =>
    match alignCheck x 64 with
    | some t => s.trap t
    | none =>
      match (s.setCtx c).plainLoads x 8 40 with
      | .error e => s.stopAt e
      | .ok (vs, s1) =>
        match Region.load (vs.map (BitVec.ofNat 64)) with
        | some r => s1.done (s1.me.ctx.setQ qd r)
        | none => s.trap (s.wordTrap .illegalCombination))

/-- `QST` (R152). -/
def execQst (qa : BitVec 4) (v : Reg) (s : State) : Result :=
  .next (s.regionV v fun x c =>
    match alignCheck x 64 with
    | some t => s.trap t
    | none =>
      match (s.setCtx c).plainStores x 8 ((c.q qa).image.map BitVec.toNat) with
      | .error t => s.trap t
      | .ok s1 => s1.proceed)

/-- `QCLR` (R153). -/
def execQclr (qd : BitVec 4) (s : State) : Result := .next (s.done (s.me.ctx.setQ qd Region.unbound))
/-- `QMOV` (R153). -/
def execQmov (qd qa : BitVec 4) (s : State) : Result := .next (s.done (s.me.ctx.setQ qd (s.me.ctx.q qa)))

/-! ## Queries (R154 to R156) -/

/-- A count, at most 2^64 − 1 (R154). -/
def satWord (n : Nat) : Word := BitVec.ofNat 64 (min n (2 ^ 64 - 1))

def cntOf (which : Nat) (a : Region) : Word :=
  match which with
  | 0 => satWord a.points
  | 1 => BitVec.ofNat 64 a.nbox
  | 2 => BitVec.ofNat 64 a.rank
  | _ => if a.bound then BitVec.ofNat 64 (2 ^ a.esz) else 0#64

/-- R155: the box index plays no part in TDA and the header. (DESIGN CHOICE, log 101.) -/
def getOf (which b : Nat) (a : Region) : Word :=
  if which = 4 then a.tda
  else if which = 5 then a.header
  else if a.nbox ≤ b then 0#64
  else ((a.boxes.getD b []).getD which Dim.pad).entry

/-- `QSIZE` (R154). -/
def execQsize (x : Reg) (qa : BitVec 4) (s : State) : Result :=
  .next (s.attempt (s.me.ctx.writeReg .access 0 0 x (satWord (s.me.ctx.q qa).size)))
/-- `QCNT` (R154). -/
def execQcnt (which : BitVec 3) (x : Reg) (qa : BitVec 4) (s : State) : Result :=
  .next (s.attempt (s.me.ctx.writeReg .access 0 0 x (cntOf which.toNat (s.me.ctx.q qa))))
/-- `QGET` (R155). -/
def execQget (which : BitVec 3) (x : Reg) (qa b : BitVec 4) (s : State) : Result :=
  .next (s.attempt (s.me.ctx.writeReg .access 0 0 x (getOf which.toNat b.toNat (s.me.ctx.q qa))))

/-- Ends a query with a predicate. -/
def State.answer (s : State) (pd : BitVec 4) (b : Bool) : State := s.done (s.me.ctx.write (.p pd b))

/-- R156: the image's words without the header's counts and the copied bounds. -/
def eqImage (r : Region) : Word × Bool × Bool × List Word := (r.tda, r.ovf, r.rows.isSome, r.image.drop 4)

/-- `QEQ` (R156). -/
def execQeq (pd qa qb : BitVec 4) (s : State) : Result :=
  .next (s.answer pd (eqImage (s.me.ctx.q qa) == eqImage (s.me.ctx.q qb)))
/-- `QLE` (R156). -/
def execQle (pd qa qb : BitVec 4) (s : State) : Result :=
  let a := s.me.ctx.q qa
  let b := s.me.ctx.q qb
  .next (if clash a b then s.trap (s.wordTrap .illegalCombination)
    else if b.ovf then s.trap (overflowTrap qb)
    else s.answer pd (canonDiff a.rank a.set b.set).isEmpty)
/-- `QEMP` (R156). -/
def execQemp (pd qa : BitVec 4) (s : State) : Result := .next (s.answer pd (!(s.me.ctx.q qa).bound))
/-- `QOVF` (R156). -/
def execQovf (pd qa : BitVec 4) (s : State) : Result := .next (s.answer pd (s.me.ctx.q qa).ovf)

end Sys2Proof.Machine
end

