-- ==== Sys2Proof/Machine/Engine.lean ====
section
/-! DEFINITION. What the engines share: their accesses at homes (R276, R314, R339) and the check of region operands (R157). -/

namespace Sys2Proof.Machine

/-- For whom a command of the strand in turn works. -/
def State.origin (s : State) : Origin := ⟨s.me.sid, s.me.launch, s.me.core, s.root⟩

/-! ## Where an engine's addresses lead -/

/-- R157, R360: whether a page gives the permission that an operand's role needs, inside the partition. -/
def pageGrants (p : Partition) (e : TlbEntry) (va : Nat) (need : Need) : Bool :=
  (!need.r || leafR e.leaf) && (!need.w || leafW e.leaf) &&
    (leafHost e.leaf || leafFab e.leaf || p.ownsPa (leafPa e.leaf + (va - e.base)))

/-- The place of an engine's address (R6, R157 step 3). The alias means the core that issued the command. (DEDUCED, log 76.) -/
def State.engineLocate (s : State) (o : Origin) (va : Word) (need : Need) : Except NoPlace Place :=
  let a := va.toNat
  if !canonical va then .error .translation
  else if onChipLo ≤ a ∧ a < onChipHi then windowPlace (s.part o.launch.part) o.core a need
  else
    let found := s.buffered o.core o.root a
    match (match found with | some e => some e | none => walk (s.part o.launch.part) s.mem o.root a) with
    | none => .error .translation
    | some e =>
      if pageGrants (s.part o.launch.part) e a need then
        .ok { key := pageKey e a, page := some e, walked := found.isNone }
      else .error .protection

/-- The trap of a failed lookup. -/
def NoPlace.trap (e : NoPlace) (va : Word) : Trap :=
  match e with
  | .translation => ⟨.translationFault, va⟩
  | .protection => ⟨.protectionFault, va⟩

/-- The unit of a window that an address lies in (R6). -/
def unitOf (a : Nat) : Option (Nat × Nat) :=
  if coreWindow ≤ a ∧ a < coreWindow + 1536 * 0x40000 then some (0, (a - coreWindow) / 0x40000)
  else if sharedWindow ≤ a ∧ a < sharedWindow + 192 * 0x200000 then some (1, (a - sharedWindow) / 0x200000)
  else if chipWindow ≤ a ∧ a < chipWindow + 4 * 0x4000000 then some (2, (a - chipWindow) / 0x4000000)
  else if aliasWindow ≤ a ∧ a < aliasWindow + 0x40000 then some (3, 0)
  else none

/-- R6, R282: whether addresses lie in more than one unit. -/
def manyUnits (as : List Nat) : Bool :=
  match as.filterMap unitOf with
  | [] => false
  | u :: us => us.any (· != u)

/-! ## Accesses -/

/-- R276, R125: an engine read of the word of a key: its data, or nothing where it is poisoned. A word of another
package, which that package's strands write, reads as a free value. (DESIGN CHOICE, log 17.) -/
def State.engineRead (s : State) (key : Nat) : Option Word32 × State :=
  let k := key / 4 * 4
  if 2 ^ 52 ≤ k then
    let d := s.draw
    (some (BitVec.ofNat 32 d.1), d.2)
  else if isHost k && s.host.linkDown then (none, s)
  else
    let s := (s.touchUnder s.fillMask k).hostTouch k false
    if s.mem.poisoned k then (none, s) else (some (s.wordAt (k / 4)), s)

/-- A read of the word of a key by engine work that may have read it ahead. (DEDUCED, log 92.) -/
def State.sourceRead (s : State) (seen : List (Nat × Option Word32)) (key : Nat) : Option Word32 × State :=
  match seen.find? fun x => x.1 == key / 4 with
  | some x => (x.2, s)
  | none => s.engineRead key

/-- Bytes of one word, by their offset in it. -/
abbrev WordBytes := List (Nat × Byte)

def putBytes (m : Mem) (k : Nat) (bs : WordBytes) : Mem := bs.foldl (fun m b => m.setByte (k + b.1) b.2) m

/-- R276: the bytes of a word are written and it is set full in one step; the bytes beside them in a poisoned word become
zero (R125). `full` is false for words whose full/empty bits an engine leaves alone. -/
def engineStore (m : Mem) (k : Nat) (full : Bool) (bs : WordBytes) : Mem :=
  let m := if m.poisoned k then (m.write k 4 0).setPoison k false else m
  let m := putBytes m k bs
  if full then m.setFull k true else m

/-- R276, R314: an engine write of bytes of the word of a key, with the wakes that follow. The result is its stamp. -/
def State.engineWrite (s : State) (key : Nat) (full : Bool) (bs : WordBytes) : State × Nat :=
  let k := key / 4 * 4
  if 2 ^ 52 ≤ k then (s, 0)
  else if isHost k && s.host.linkDown then ({ s with host := { s.host with dropSt := s.host.dropSt + 1 } }, 0)
  else
    let s := s.hostTouch k true
    let r := s.engineStamp k
    let t := { r.1 with
      mem := engineStore s.mem k (full && !isHost k) bs
      writers := Tab.put none s.writers (k / 4) none }
    (t.wake s.mem [k], r.2)

/-- The bytes of a word. -/
def bytesOfWord (w : Word32) : WordBytes :=
  [(0, w.extractLsb' 0 8), (1, w.extractLsb' 8 8), (2, w.extractLsb' 16 8), (3, w.extractLsb' 24 8)]

/-- An engine write of `n` words. (DEDUCED, log 76.) -/
def State.engineWriteWords (s : State) (key : Nat) (full : Bool) : List Word32 → State × Nat
  | [] => (s, 0)
  | w :: ws =>
    let r := s.engineWrite key full (bytesOfWord w)
    let q := r.1.engineWriteWords (key + 4) full ws
    (q.1, max r.2 q.2)

/-- An engine read of `n` words of one page or unit; a poisoned word reads as zero. -/
def State.engineReadWords (s : State) (key : Nat) : Nat → List Word32 × State
  | 0 => ([], s)
  | n + 1 =>
    let r := s.engineRead key
    let q := r.2.engineReadWords (key + 4) n
    (r.1.getD 0#32 :: q.1, q.2)

/-- 64-bit words put together from 32-bit ones. -/
def pairWords : List Word32 → List Word
  | a :: b :: r => (b ++ a) :: pairWords r
  | _ => []

/-- R186: whether an address of an engine lies in a page mapped executable. -/
def Place.exec (pl : Place) : Bool := (pl.page.map fun e => leafX e.leaf).getD false

/-- An engine's lookup with the effects of the walk (R306), for an access under the way mask of the launch that it works for
(R316); no engine writes to a page mapped executable (R186). (DEDUCED, log 76.) -/
def State.enginePlace (s : State) (o : Origin) (va : Word) (need : Need) : Except NoPlace (Nat × State) :=
  match s.engineLocate o va need with
  | .error e => .error e
  | .ok pl =>
    if need.w && pl.exec then .error .protection
    else .ok (pl.key, { (s.usePage o.launch.part o.core true pl).1 with fillMask := s.launchMask o.launch.part o.launch.tag })

/-! ## Region operands (R157) -/

/-- The addresses of the points of an operand, in canonical order (R137). -/
def boxAddrs (t : Tensor) (b : Box) : List Word := (Box.points b).map t.addr
def Operand.addrs (op : Operand) : List Word := op.region.set.flatMap (boxAddrs op.tensor)

/-- Whether a point lies in bounds (R136). -/
def inBounds : List Int → List Nat → Bool
  | [], _ => true
  | c :: cs, n :: ns => 0 ≤ c && c < (n : Int) && inBounds cs ns
  | _ :: _, [] => false

/-- The boxes of an operand as R157 judges them: the rows of a ragged box are one box (R141). -/
def Region.parts (r : Region) : List (List Box) := if r.rows.isSome then [r.set] else r.set.map fun b => [b]

/-- R157 step 2, R106: the first point, which is the one of lowest address, of the first box that holds a point out of bounds. -/
def Region.outside (r : Region) : Option (List Int) :=
  (r.parts.find? fun bs => bs.any fun b => (Box.points b).any fun p => !inBounds p r.bounds).bind fun bs =>
    (bs.flatMap Box.points).head?

/-- The lowest address of a box. -/
def lowestAddr (l : List Word) : Word :=
  match l with
  | [] => 0#64
  | a :: r => r.foldl (fun m x => if x.toNat < m.toNat then x else m) a

/-- R157 step 3 for one box: `ok` judges the place of each address. -/
def State.boxFault (s : State) (o : Origin) (t : Tensor) (need : Need) (ok : Nat → Bool) (bs : List Box) : Option Trap :=
  let as := bs.flatMap (boxAddrs t)
  (as.findSome? fun a =>
    match s.engineLocate o a need with
    | .error e => some e
    | .ok pl => if ok pl.key then none else some .protection).map fun e => e.trap (lowestAddr as)

/-- The descriptor of a region, as an engine reads it at acceptance; one that R132 refuses raises IllegalCombination. A TDA
that is no multiple of 64 is looked up as one page. (DESIGN CHOICE, log 102.) -/
def State.engineTensor (s : State) (o : Origin) (tda : Word) : Except Trap (Tensor × State) :=
  match s.enginePlace o tda needR with
  | .error e => .error (e.trap tda)
  | .ok (k, s) =>
    let r := s.engineReadWords k 16
    let ws := pairWords r.1
    let t := Tensor.ofWords ws
    if t.valid ((ws.getD 1 0#64).extractLsb' 16 48) then .ok (t, r.2) else .error (s.wordTrap .illegalCombination)

/-- An unbound operand. -/
def Operand.unbound : Operand := ⟨Region.unbound, ⟨0#64, 0, 0, [], []⟩⟩

/-- R157 steps 2 to 4. `ok` is a further condition on where the bytes lie, whose failure is a ProtectionFault. (DEDUCED, log 62.) -/
def State.checkRegion (s : State) (o : Origin) (r : Region) (need : Need) (ok : Nat → Bool) :
    Except Trap (Operand × State) :=
  if !r.bound then .ok (Operand.unbound, s)
  else
    match s.engineTensor o r.tda with
    | .error t => .error t
    | .ok (t, s1) =>
      match r.outside with
      | some p => .error ⟨.protectionFault, t.addr p⟩
      | none =>
        match r.parts.findSome? (s1.boxFault o t need ok) with
        | some t => .error t
        | none => .ok (⟨r, t⟩, s1)

/-- The storage of a core's scratchpad, and of its cluster's shared memory too. -/
def inCore (core key : Nat) : Bool := storageOf key == .core core
def inReach (core key : Nat) : Bool := inCore core key || storageOf key == .shared (clusterOfCore core)

/-- Ends an instruction that writes a predicate of the access half. -/
def State.ansPred (s : State) (c : Context) (pd : BitVec 4) (b : Bool) : State := s.done (c.write (.p pd b))

end Sys2Proof.Machine
end

