-- ==== Sys2Proof/Machine/CopyUnit.lean ====
section
/-! DEFINITION. The copy unit: copies and their pieces (R271 to R282), batches (R283), arrival words (R285, R286) and counters (R291). -/

namespace Sys2Proof.Machine

/-! ## Counters (R291) -/

/-- The place of a counter of a selector below 23, relative to a core. -/
def counterOf (core sel : Nat) : Nat := if sel < 16 then core * 16 + sel else 24576 + 8 * clusterOfCore core + (sel - 16)
def State.counter (s : State) (n : Nat) : Word := Tab.get 0#64 s.counters n
def State.setCounter (s : State) (n : Nat) (v : Word) : State := { s with counters := Tab.put 0#64 s.counters n v }

/-! ## Batches (R283) -/

/-- U: the sealed batches not yet finished. -/
def Strand.unfinished (m : Strand) : Nat := (m.batchNext - m.batchOldest).toNat

/-- Whether an accepted copy of a strand belongs to a batch. -/
def State.batchLive (s : State) (sid : StrandId) (b : BitVec 16) : Bool :=
  s.copies.any fun c => c.origin.sid == sid && c.batch == b

/-- R283: finished batches advance OLDEST. -/
def State.advanceBatches (s : State) (sid : StrandId) : State :=
  s.modify sid fun m =>
    (List.range 16).foldl (fun m _ =>
      if m.batchOldest = m.batchNext ∨ s.batchLive sid m.batchOldest then m else { m with batchOldest := m.batchOldest + 1 }) m

/-- Whether a batch number is that of a finished batch, and how long ago it finished. -/
def Strand.finishedAge (m : Strand) (b : BitVec 16) : Nat :=
  if m.unfinished < (b - m.batchOldest).toNat then (m.batchOldest - b).toNat else 0

/-- The oldest finished batch with an undelivered error (R284). -/
def Strand.oldestError (m : Strand) : Option (BitVec 16) :=
  m.batchErr.foldl (fun (best : Option (BitVec 16)) e =>
    if m.finishedAge e.1 = 0 then best
    else
      match best with
      | none => some e.1
      | some b => if m.finishedAge b < m.finishedAge e.1 then some e.1 else best) none

/-! ## Firing (R292) -/

/-- R157 on the memory sides of a prepared copy. -/
def State.firingOk (s : State) (c : Copy) : Bool :=
  let ok (op : Option Operand) (need : Need) : Bool :=
    match op with
    | none => true
    | some op => op.addrs.all fun a =>
        match s.engineLocate c.origin a need with
        | .ok _ => true
        | .error _ => false
  ok c.src needR && ok c.dst needW

/-- A trigger fires: its copy starts, or fails. -/
def State.fire (s : State) (c : Copy) : Copy :=
  if s.firingOk c then { c with state := .queued } else { c with state := .running, todo := [], err := 1 }

/-- R292: the triggers of a counter are compared. -/
def State.compareTriggers (s : State) (n : Nat) : State :=
  { s with copies := s.copies.map fun c =>
      match c.state with
      | .armed _ k t => if k = n ∧ t.toNat ≤ (s.counter n).toNat then s.fire c else c
      | _ => c }

/-- A piece is added to a counter, and its triggers are compared. -/
def State.addCounter (s : State) (n b : Nat) : State :=
  (s.setCounter n (s.counter n + BitVec.ofNat 64 b)).compareTriggers n

/-! ## Arrival words (R285, R286) -/

def State.arrivalKeep (s : State) (key : Nat) : ArrivalKeep := Tab.get {} s.arrivals key
def State.setArrivalKeep (s : State) (key : Nat) (a : ArrivalKeep) : State := { s with arrivals := Tab.put {} s.arrivals key a }

/-- A word of an arrival word as an engine reads it. -/
def State.plainWord (s : State) (key : Nat) : Nat := if s.mem.poisoned key then 0 else s.mem.read key 4

/-- R286: a piece of `b` bytes with a stamp is added at the word's home. -/
def State.addPiece (s : State) (key b stamp : Nat) : State :=
  let count := (s.plainWord key + b) % 2 ^ 32
  let target := s.plainWord (key + 4)
  let adv := if target = 0 then 0 else count / target
  let left := if target = 0 then count else count % target
  let gen := (s.plainWord (key + 8) + adv) % 2 ^ 32
  let s := (s.engineWrite key false (bytesOfWord (BitVec.ofNat 32 left))).1
  let s := if adv = 0 then s else (s.engineWrite (key + 8) false (bytesOfWord (BitVec.ofNat 32 gen))).1
  let k := s.arrivalKeep key
  s.setArrivalKeep key ⟨s.tick, max k.stamp stamp⟩

/-- R287, R428: an arrival word starts anew. `wdog` is its last word. (DEDUCED, log 63.) -/
def State.initArrival (s : State) (key target wdog : Nat) (f : State → Nat → Word32 → State) : State :=
  let s := f (f (f (f s key 0#32) (key + 4) (BitVec.ofNat 32 target)) (key + 8) 0#32) (key + 12) (BitVec.ofNat 32 wdog)
  s.setArrivalKeep key { s.arrivalKeep key with t0 := s.tick }

/-! ## Pieces (R275, R276) -/

/-- The bytes of an element at an address. -/
def elemBytes (esz : Nat) (a : Nat) : List Nat := (List.range (2 ^ esz)).map (a + ·)

/-- Points matched byte by byte: destination addresses with their sources. -/
def matchBytes (esz : Nat) (dst src : List Word) : List (Nat × ByteSource) :=
  (dst.zip src).flatMap fun x =>
    (elemBytes esz x.1.toNat).zip ((elemBytes esz x.2.toNat).map ByteSource.byte)

/-- Adds a byte to the piece of its word. -/
def addToPieces (x : Nat × ByteSource) : List CopyPiece → List CopyPiece
  | [] => [[x]]
  | [] :: r => addToPieces x r
  | (y :: p) :: r => if y.1 / 4 = x.1 / 4 then (y :: p ++ [x]) :: r else (y :: p) :: addToPieces x r

/-- R276: the destination bytes grouped by their words, in the order of their first bytes. -/
def groupPieces (xs : List (Nat × ByteSource)) : List CopyPiece := xs.foldl (fun ps x => addToPieces x ps) []

/-! ## Offering and running -/

/-- What a command that has passed its checks will do. -/
structure Prepared where
  lss : Bool := false
  lsd : Bool := false
  src : Option Operand := none
  dst : Option Operand := none
  signal : Signal := .none
  todo : List CopyPiece
  /-- Bytes of the source side that no destination byte takes (R279). -/
  unused : List Nat := []
  deriving DecidableEq, Repr

/-- The commands of a cluster in its queue, armed ones included (R271). -/
def State.queueLoad (s : State) (cluster : Nat) : Nat := (s.copies.filter fun c => c.cluster == cluster).length
/-- The triggers that a core holds. -/
def State.triggerLoad (s : State) (core : Nat) : Nat :=
  (s.copies.filter fun c =>
    match c.state with
    | .armed .. => c.origin.core == core
    | _ => false).length

/-- R274: a command that has passed its checks is offered to the queue of the strand's cluster. -/
def State.offerCopy (s : State) (c : Context) (pd : BitVec 4) (st : CopyState) (p : Prepared) : State :=
  let armed : Bool := match st with
    | .armed .. => true
    | _ => false
  if 64 ≤ s.queueLoad s.myCluster ∨ (armed ∧ 32 ≤ s.triggerLoad s.me.core) then s.ansPred c pd false
  else
    let o := s.stampOrder
    let k : Copy := {
      id := o.1, cluster := s.myCluster, origin := s.origin, batch := s.me.batchNext, state := st
      lss := p.lss, lsd := p.lsd, src := p.src, dst := p.dst, signal := p.signal, todo := p.todo, unused := p.unused }
    let t := { o.2 with copies := o.2.copies ++ [k], me := { o.2.me with batchUsed := true } }
    let t := match st with
      | .armed _ n _ => t.compareTriggers n
      | _ => t
    t.ansPred c pd true

def State.copy? (s : State) (id : Nat) : Option Copy := s.copies.find? fun c => c.id == id
def State.putCopy (s : State) (c : Copy) : State := { s with copies := s.copies.map fun x => if x.id = c.id then c else x }

/-- The bytes of its source side that a source names; the scales of an EXP copy are none of them (R6). (DESIGN CHOICE, log 106.) -/
def ByteSource.addrs : ByteSource → List Nat
  | .byte a => [a]
  | .const _ => []
  | .expand e _ _ _ => [e]

/-- R282: the error with which a copy fails as it starts, or 0. -/
def State.startError (s : State) (c : Copy) : Nat :=
  let dst := if c.lsd then [] else c.todo.flatMap fun p => p.map (·.1)
  let src := (if c.lss then [] else c.todo.flatMap fun p => p.flatMap fun x => x.2.addrs) ++ c.unused
  let fails (need : Need) (a : Nat) : Bool :=
    match s.engineLocate c.origin (BitVec.ofNat 64 a) need with
    | .ok _ => false
    | .error _ => true
  let exec (a : Nat) : Bool :=
    match s.engineLocate c.origin (BitVec.ofNat 64 a) needW with
    | .ok pl => pl.exec
    | .error _ => false
  if manyUnits dst || manyUnits src then 2
  else if dst.any exec then 3
  else if dst.any (fails needW) || src.any (fails needR) then 1
  else 0

/-- `COPY_START` (R271): eight commands of a unit run at once. -/
def copyStart (id : Nat) (s : State) : State :=
  match s.copy? id with
  | none => s
  | some c =>
    let running := (s.copies.filter fun x => x.cluster == c.cluster && x.state == .running).length
    if c.state ≠ .queued ∨ 8 ≤ running then s
    else
      match s.startError c with
      | 0 => s.putCopy { c with state := .running }
      | e => s.putCopy { c with state := .running, todo := [], err := e }

/-- R276, R291: POISON of a cluster counts `n` poisoned source words. -/
def State.countCopyPoison (s : State) (cluster n : Nat) : State :=
  let i := 24576 + 8 * cluster + 4
  if n = 0 then s else s.setCounter i (s.counter i + BitVec.ofNat 64 n)

/-- The number under which a copy keeps a source word: lane slices lie above every address. -/
def sourceKey (lanes : Bool) (a : Nat) : Nat := if lanes then 2 ^ 62 + a / 4 else a / 4

/-- R276: the source word of an address, read once: its data, or nothing where it was poisoned. (DEDUCED, log 61.) -/
def State.copyWord (s : State) (c : Copy) (lanes : Bool) (a : Nat) : Except NoPlace (Option Word32 × State × Copy) :=
  let i := sourceKey lanes a
  match c.seen.find? fun x => x.1 == i with
  | some x => .ok (x.2, s, c)
  | none =>
    let got : Except NoPlace (Option Word32 × State) :=
      if lanes then
        match s.strand? c.origin.sid with
        | some m =>
          if 4096 * m.ctx.vec.w ≤ a then let d := s.draw; .ok (some (BitVec.ofNat 32 d.1), d.2)
          else if m.ctx.vec.slice.poisoned a then .ok (none, s)
          else .ok (some (BitVec.ofNat 32 (m.ctx.vec.slice.read (a / 4 * 4) 4)), s)
        | none => .ok (some 0#32, s)
      else
        match s.enginePlace c.origin (BitVec.ofNat 64 a) needR with
        | .error e => .error e
        | .ok (k, s) => .ok (s.engineRead k)
    match got with
    | .error e => .error e
    | .ok (w, s) =>
      .ok (w, s.countCopyPoison c.cluster (if w.isNone then 1 else 0), { c with seen := (i, w) :: c.seen })

/-- The byte that a source gives. (DESIGN CHOICE, log 65.) -/
def State.sourceByte (s : State) (c : Copy) : ByteSource → Except NoPlace (Byte × State × Copy)
  | .const b => .ok (b, s, c)
  | .byte a =>
    match s.copyWord c c.lss a with
    | .error e => .error e
    | .ok (w, s, c) => .ok (BitVec.ofNat 8 (elemOf8 (w.getD 0#32) a), s, c)
  | .expand e x fmt hi =>
    match s.copyWord c c.lss e with
    | .error e => .error e
    | .ok (w, s, c) =>
      match s.copyWord c false x with
      | .error e => .error e
      | .ok (v, s, c) =>
        let r := (deQuant (tagFmt fmt) bf16 (elemOf8 (w.getD 0#32) e) (elemOf8 (v.getD 0#32) x)).1
        .ok (BitVec.ofNat 8 (if hi then r / 256 else r), s, c)
where
  elemOf8 (w : Word32) (a : Nat) : Nat := w.toNat / 2 ^ (8 * (a % 4)) % 256

/-- The bytes of a piece. (DEDUCED, log 61.) -/
def State.pieceBytes (s : State) (c : Copy) : CopyPiece → Except NoPlace (WordBytes × State × Copy)
  | [] => .ok ([], s, c)
  | (d, x) :: r =>
    match s.sourceByte c x with
    | .error e => .error e
    | .ok (b, s, c) =>
      match s.pieceBytes c r with
      | .error e => .error e
      | .ok (bs, s, c) => .ok ((d % 4, b) :: bs, s, c)

/-- R276, R277: the bytes of a destination word are written. The result is the stamp of the write. (DESIGN CHOICE, log 65.) -/
def State.writePiece (s : State) (c : Copy) (d : Nat) (bs : WordBytes) : Except NoPlace (State × Nat) :=
  if c.lsd then
    .ok (s.modify c.origin.sid fun m =>
      if 4096 * m.ctx.vec.w ≤ d then m
      else { m with ctx := { m.ctx with vec := { m.ctx.vec with slice := engineStore m.ctx.vec.slice (d / 4 * 4) true bs } } }, 0)
  else
    match s.enginePlace c.origin (BitVec.ofNat 64 d) needW with
    | .error e => .error e
    | .ok (k, s) => .ok (s.engineWrite k true bs)

/-- `COPY_PIECE_WRITE` (R276). A page that has gone since acceptance ends the copy with ERR 1 (R282). (DEDUCED, log 61.) -/
def copyPieceWrite (id j : Nat) (s : State) : State :=
  match s.copy? id with
  | none => s
  | some c =>
    match c.state, c.todo[j]? with
    | .running, some (x :: p) =>
      let fail := s.putCopy { c with todo := [], err := 1 }
      match s.pieceBytes c (x :: p) with
      | .error _ => fail
      | .ok (bs, s1, c1) =>
        match s1.writePiece c1 x.1 bs with
        | .error _ => fail
        | .ok (s2, w) =>
          s2.putCopy { c1 with
            todo := c.todo.eraseIdx j
            uncounted := if c.signal = .none then [] else c.uncounted ++ [(bs.length, w)]
            stamp := max c.stamp w }
    | .running, some [] => s.putCopy { c with todo := c.todo.eraseIdx j }
    | _, _ => s

/-- A copy ends (R283): its entry frees, its batch may finish, and its error is recorded (R282, R291). A copy of a graph
node has no strand: its error goes to the node (R370). -/
def State.endCopy (s : State) (c : Copy) : State :=
  let sid := c.origin.sid
  let n := 24576 + 8 * c.cluster + 6
  let s := if c.err = 0 then s else s.setCounter n (s.counter n + 1#64)
  let s := { s with copies := s.copies.filter fun x => x.id != c.id }
  let s := s.engineDone c.origin c.err c.stamp
  if sid = Strand.absent.sid then s
  else
    (s.modify sid fun m =>
      { m with
        batchErr := if c.err = 0 ∨ m.batchErr.any (fun e => e.1 == c.batch) then m.batchErr
          else m.batchErr ++ [(c.batch, c.err)]
        batchStamps := if c.stamp = 0 then m.batchStamps else m.batchStamps ++ [(c.batch, c.stamp)] }).advanceBatches sid

/-- `COPY_COMPLETION` (R282). -/
def copyCompletion (id : Nat) (s : State) : State :=
  match s.copy? id with
  | none => s
  | some c => if c.state = .running ∧ c.todo = [] ∧ c.uncounted = [] then s.endCopy c else s

/-- The oldest uncounted piece of a copy is taken: its bytes and stamp. -/
def State.takePiece (s : State) (c : Copy) : Option ((Nat × Nat) × State) :=
  match c.uncounted with
  | [] => none
  | p :: r => some (p, s.putCopy { c with uncounted := r })

/-- The key of an arrival word of this package. -/
def ownArrival (key : Nat) : Bool := key % 16 == 0 && coreWindow ≤ key && key < 2 ^ 51

/-- `ARRIVAL_PIECE` (R286). A piece for another package's word leaves the model; one from another package raises RW
(R342), which stands for the stamp of what it counts (R339). (DEDUCED, log 63.) -/
def arrivalPiece (from_ : PieceSource) (s : State) : State :=
  match from_ with
  | .outside key b =>
    if !ownArrival key then s
    else
      let t := s.allWays.addPiece key b s.rw
      { t with rw := max t.rw (max (t.stampAt key).wts (t.stampAt (key + 8)).wts) }
  | .copy id =>
    match s.copy? id with
    | none => s
    | some c =>
      match c.signal, s.takePiece c with
      | .arrival va, some (p, s) =>
        match s.enginePlace c.origin (BitVec.ofNat 64 va) needW with
        | .ok (k, t) => if ownArrival k then t.addPiece k p.1 p.2 else s
        | .error _ => s
      | _, _ => s

/-- `COUNTER_PIECE` (R291). -/
def counterPiece (from_ : PieceSource) (s : State) : State :=
  match from_ with
  | .outside n b => if n < 24576 then s.addCounter n b else s
  | .copy id =>
    match s.copy? id with
    | none => s
    | some c =>
      match c.signal, s.takePiece c with
      | .counter pkg n, some (p, s) => if pkg = s.pkg then s.addCounter n p.1 else s
      | _, _ => s

/-- `COPY_START` (R271). -/
def execCopyStart (id : Nat) (s : State) : Result := .next (copyStart id s)
/-- `COPY_PIECE_WRITE` (R276). -/
def execCopyPieceWrite (id j : Nat) (s : State) : Result := .next (copyPieceWrite id j s)
/-- `COPY_COMPLETION` (R282). -/
def execCopyCompletion (id : Nat) (s : State) : Result := .next (copyCompletion id s)
/-- `ARRIVAL_PIECE` (R286). -/
def execArrivalPiece (from_ : PieceSource) (s : State) : Result := .next (arrivalPiece from_ s)
/-- `COUNTER_PIECE` (R291). -/
def execCounterPiece (from_ : PieceSource) (s : State) : Result := .next (counterPiece from_ s)

/-! ## The end of a strand or context (R295) -/

/-- R293: removes an unfired trigger; its copy counts as complete, having performed nothing. -/
def State.disarmCopy (s : State) (c : Copy) : State :=
  let s := { s with copies := s.copies.filter fun x => x.id != c.id }
  s.advanceBatches c.origin.sid

/-- The unfired triggers of a strand, the oldest first. -/
def State.triggersOf (s : State) (sid : StrandId) : List Copy :=
  s.copies.filter fun c => c.origin.sid == sid && (match c.state with
    | .armed .. => true
    | _ => false)

/-- R295: the copies of a killed context complete with ERR 4. -/
def State.killCopies (s : State) (cluster : Nat) (mine : LaunchRef → Bool) : State :=
  (s.copies.filter fun c => c.cluster == cluster && mine c.origin.launch).foldl (fun s c => s.endCopy { c with err := 4 }) s

end Sys2Proof.Machine
end

