-- ==== Sys2Proof/Machine/Copy.lean ====
section
/-! DEFINITION. The instructions of the copy unit, majors 0x38 and 0x39 (R272 to R293), and the watchdog (R289). -/

namespace Sys2Proof.Machine

/-- A control word (R273). -/
structure Control where
  lss : Bool
  lsd : Bool
  exp : Bool
  signal : Signal
  deriving DecidableEq, Repr

def Control.ofWord (c : Word) : Option Control :=
  let fields (x : Signal) : Option Control := some ⟨c.getLsbD 63, c.getLsbD 62, c.getLsbD 61, x⟩
  let core := (c.extractLsb' 38 2).toNat * 384 + (c.extractLsb' 29 9).toNat
  if c.getLsbD 60 then none
  else if c.extractLsb' 58 2 = 0#2 then (if c.extractLsb' 0 58 = 0#58 then fields .none else none)
  else if c.extractLsb' 58 2 = 1#2 then
    if c.extractLsb' 47 11 = 0#11 ∧ c.extractLsb' 0 4 = 0#4 then fields (.arrival (c.extractLsb' 0 48).toNat) else none
  else if c.extractLsb' 58 2 = 2#2 then
    if c.extractLsb' 50 8 = 0#8 ∧ c.extractLsb' 0 25 = 0#25 ∧ (c.extractLsb' 29 9).toNat < 384 then
      fields (.counter (c.extractLsb' 40 10) (core * 16 + (c.extractLsb' 25 4).toNat))
    else none
  else none

/-- The outcome of the checks of a command. -/
abbrev Checked (α : Type) := Except Trap (α × State)

/-- IllegalCombination at the instruction now issuing. -/
def State.bad (s : State) : Trap := s.wordTrap .illegalCombination

/-! ## The sides of a copy (R274 step 3) -/

/-- R277: the operand of a side in lane slices, with the bounds check of R157 alone. -/
def State.laneSide (s : State) (o : Origin) (r : Region) : Checked Operand :=
  if !r.bound then .ok (Operand.unbound, s)
  else
    match s.engineTensor o r.tda with
    | .error t => .error t
    | .ok (t, s) =>
      match r.outside with
      | some p => .error ⟨.protectionFault, t.addr p⟩
      | none => .ok (⟨r, t⟩, s)

def State.side (s : State) (lanes : Bool) (r : Region) (need : Need) : Checked Operand :=
  if lanes then s.laneSide s.origin r else s.checkRegion s.origin r need fun _ => true

/-- R274 step 5, R277: the lane state, and the range of the offsets. -/
def State.laneRange (s : State) (lanes : Bool) (op : Operand) : Option Trap :=
  if !lanes then none
  else if s.me.ctx.W = 0 then some ⟨.noVectorWidth, 0#64⟩
  else
    (op.addrs.find? fun a => 4096 * s.me.ctx.W < a.toNat + 2 ^ op.region.esz).map fun a => ⟨.protectionFault, a⟩

/-- R274 step 4: the addresses that a control word names. -/
def State.checkSignal (s : State) (raw : Word) : Signal → Checked Bool
  | .none => .ok (true, s)
  | .arrival va =>
    let a := BitVec.ofNat 64 va
    match s.check a 16 needW with
    | .error t => .error t
    | .ok pl => if isHost pl.key then .error ⟨.protectionFault, a⟩ else .ok (true, s)
  | .counter pkg n =>
    if pkg = s.pkg then
      if s.ownerOfCluster (clusterOfCore (n / 16)) = some s.me.launch.part then .ok (true, s)
      else .error ⟨.protectionFault, raw⟩
    else
      let d := s.draw
      if d.1 % 2 = 0 then .ok (true, d.2) else .error ⟨.protectionFault, raw⟩

/-! ## Expansion (R278) -/

/-- A scale extension. -/
structure ScaleExt where
  base : Word
  fmt : Tag
  pitches : List Nat
  deriving DecidableEq, Repr

/-- The extension that eight words hold, if it is valid for a rank. (DEDUCED, log 64.) -/
def ScaleExt.ofWords (rank : Nat) (ws : List Word) : Option ScaleExt :=
  let w (i : Nat) : Word := ws.getD i 0#64
  let f := (w 1).extractLsb' 0 8
  let ps := [w 2, w 3, w 4]
  if f.toNat < 0x21 ∨ 0x3F < f.toNat ∨ f.extractLsb' 0 3 = 0#3 ∨ (w 1).extractLsb' 8 56 ≠ 0#56 ∨
      (ps.drop (rank - 1)).any (· != 0#64) ∨ [w 5, w 6, w 7].any (· != 0#64) then none
  else some ⟨w 0, f.setWidth 6, ps.map BitVec.toNat⟩

/-- The address of the scale of a source point. -/
def ScaleExt.addr (x : ScaleExt) (rank : Nat) (p : List Int) : Word :=
  let outer := (p.take (rank - 1)).zip x.pitches
  outer.foldl (fun a (y : Int × Nat) => a + BitVec.ofInt 64 y.1 * BitVec.ofNat 64 y.2)
    (x.base + BitVec.ofInt 64 (p.getD (rank - 1) 0 / 32))

/-- The extension behind a descriptor, read as source words (R276). (DEDUCED, log 64.) -/
def State.scaleExt (s : State) (r : Region) : Checked ScaleExt :=
  let va := r.tda + 64#64
  match s.enginePlace s.origin va needR with
  | .error e => .error (e.trap va)
  | .ok (k, s) =>
    let bad := ((List.range 16).filter fun i => k + 4 * i < 2 ^ 52 && s.mem.poisoned (k + 4 * i)).length
    let w := s.engineReadWords k 16
    match ScaleExt.ofWords r.rank (pairWords w.1) with
    | some x => .ok (x, w.2.countCopyPoison s.myCluster bad)
    | none => .error s.bad

/-- R278: whether every point of an on-chip destination lies where an expansion may write. -/
def onChip (op : Operand) : Bool := op.addrs.all fun a => onChipLo ≤ a.toNat && a.toNat < onChipHi

/-- R278: expanded points, byte by byte. (DEDUCED, log 64.) -/
def expandBytes (x : ScaleExt) (rank : Nat) (dst src : Operand) : List (Nat × ByteSource) :=
  let pts := src.region.set.flatMap Box.points
  ((dst.addrs.zip (src.addrs.zip pts))).flatMap fun (y : Word × Word × List Int) =>
    let s := (x.addr rank y.2.2).toNat
    [(y.1.toNat, .expand y.2.1.toNat s x.fmt false), (y.1.toNat + 1, .expand y.2.1.toNat s x.fmt true)]

/-! ## `CPY`, `CFILL`, `HALO` (R275, R278, R280, R281) -/

/-- R274 steps 3 to 5 for a copy of qs into qd. -/
def State.prepareCopy (s : State) (qd qs : BitVec 4) (raw : Word) (k : Control) : Checked Prepared :=
  let d := s.me.ctx.q qd
  let q := s.me.ctx.q qs
  let nothing := !d.bound && !q.bound
  if d.ovf then .error (overflowTrap qd)
  else if d.points ≠ q.points ∨ (!nothing ∧ (if k.exp then q.esz ≠ 0 ∨ d.esz ≠ 1 else q.esz ≠ d.esz)) then .error s.bad
  else
    let ext : Checked (Option ScaleExt) :=
      if k.exp && !nothing then
        match s.scaleExt q with
        | .error t => .error t
        | .ok (x, s) => .ok (some x, s)
      else .ok (none, s)
    match ext with
    | .error t => .error t
    | .ok (x, s) =>
      match s.side k.lss q needR with
      | .error t => .error t
      | .ok (src, s) =>
        match s.side k.lsd d needW with
        | .error t => .error t
        | .ok (dst, s) =>
          if x.isSome && !k.lsd && !onChip dst then .error s.bad
          else
            match s.checkSignal raw k.signal with
            | .error t => .error t
            | .ok (_, s) =>
              match (s.laneRange k.lss src).orElse fun _ => s.laneRange k.lsd dst with
              | some t => .error t
              | none =>
                let bs := match x with
                  | some x => expandBytes x q.rank dst src
                  | none => matchBytes d.esz dst.addrs src.addrs
                .ok ({ lss := k.lss, lsd := k.lsd
                       src := if k.lss then none else some src
                       dst := if k.lsd then none else some dst
                       signal := k.signal, todo := groupPieces bs }, s)

/-- A command of the access half with one scalar operand. -/
def State.command (s : State) (v : Reg) (f : Word → Context → State) : State :=
  match s.me.ctx.read .access v with
  | .error q => s.hold q
  | .ok (x, c) => f x c

/-- `CPY` (R275). -/
def execCpy (pd qd qs : BitVec 4) (c : Reg) (s : State) : Result :=
  .next (s.command c fun raw c1 =>
    match Control.ofWord raw with
    | none => s.trap s.bad
    | some k =>
      match s.prepareCopy qd qs raw k with
      | .error t => s.trap t
      | .ok (p, s1) => s1.offerCopy c1 pd .queued p)

/-- `CFILL` (R281). -/
def execCfill (pd qd : BitVec 4) (v : Reg) (s : State) : Result :=
  .next (s.command v fun x c =>
    let d := s.me.ctx.q qd
    if d.ovf then s.trap (overflowTrap qd)
    else
      match s.checkRegion s.origin d needW fun _ => true with
      | .error t => s.trap t
      | .ok (dst, s1) =>
        let bs := dst.addrs.flatMap fun a =>
          (List.range (2 ^ d.esz)).map fun i => (a.toNat + i, ByteSource.const (x.extractLsb' (8 * i) 8))
        s1.offerCopy c pd .queued { dst := some dst, todo := groupPieces bs })

/-- R280: the neighbour of a cluster on its die's mesh. -/
def neighbour (cluster : Nat) (dir : Nat) : Option Nat :=
  let l := cluster % 48
  let row := l / 8
  let col := l % 8
  match dir with
  | 0 => if row = 0 then none else some (cluster - 8)
  | 1 => if col = 7 then none else some (cluster + 1)
  | 2 => if row = 5 then none else some (cluster + 8)
  | _ => if col = 0 then none else some (cluster - 1)

/-- `HALO` (R280): the bytes count at the neighbour's mailbox counter of the opposite side. -/
def execHalo (pd qd qs : BitVec 4) (v : Reg) (s : State) : Result :=
  .next (s.command v fun x c =>
    match (if x.extractLsb' 2 62 = 0#62 then neighbour s.myCluster x.toNat else none) with
    | none => s.trap s.bad
    | some n =>
      match s.prepareCopy qd qs 0#64 ⟨false, false, false, .none⟩ with
      | .error t => s.trap t
      | .ok (p, s1) =>
        match s1.checkRegion s.origin (s.me.ctx.q qd) needW (fun k => storageOf k == .shared n) with
        | .error t => s.trap t
        | .ok (_, s2) =>
          s2.offerCopy c pd .queued { p with signal := .counter s.pkg (24576 + 8 * n + (x.toNat + 2) % 4) })

/-! ## `CPYG` and `CPYS` (R279) -/

/-- A region's box with its dimension 0 replaced by one coordinate. -/
def Region.rowAt (r : Region) (c : Int) : Region :=
  { r with boxes := [(r.boxes.headD []).set 0 ⟨c, 1, 1⟩] }

/-- The rows of a packed side. -/
def Region.packedRows (r : Region) (n : Nat) : List Region :=
  let d := (r.boxes.headD []).getD 0 Dim.pad
  (List.range n).map fun i => r.rowAt (d.start + ((i * d.step : Nat) : Int))

/-- Checks every row of a side under R157. -/
def State.checkRows (s : State) (need : Need) : List Region → Checked (List Operand)
  | [] => .ok ([], s)
  | r :: rs =>
    match s.checkRegion s.origin r need fun _ => true with
    | .error t => .error t
    | .ok (op, s) =>
      match s.checkRows need rs with
      | .error t => .error t
      | .ok (ops, s) => .ok (op :: ops, s)

/-- R279: the conditions on the packed side and the template. (DEDUCED, log 62.) -/
def rowsFine (packed tmpl : Region) : Bool :=
  packed.bound && tmpl.bound && packed.rows.isNone && tmpl.rows.isNone && !packed.ovf && !tmpl.ovf &&
    packed.nbox == 1 && tmpl.nbox == 1 && packed.rank == tmpl.rank && 2 ≤ packed.rank && packed.esz == tmpl.esz &&
    ((packed.boxes.headD []).getD 0 Dim.pad).ext ≤ 32 && ((tmpl.boxes.headD []).getD 0 Dim.pad).ext == 1 &&
    packed.points == ((packed.boxes.headD []).getD 0 Dim.pad).ext * tmpl.points

/-- Whether a later element of a list is equal to the first. -/
def dropEarlier : List (Int × Operand × Operand) → List (Operand × Operand)
  | [] => []
  | (i, x) :: r => if r.any (fun y => y.1 == i) then dropEarlier r else x :: dropEarlier r

/-- R279. `gather` tells `CPYG` from `CPYS`. (DEDUCED, log 62.) -/
def State.rowCopy (s : State) (gather : Bool) (pd qd qs : BitVec 4) (v : Word) (c : Context) : State :=
  let packed := s.me.ctx.q (if gather then qd else qs)
  let tmpl := s.me.ctx.q (if gather then qs else qd)
  let n := ((packed.boxes.headD []).getD 0 Dim.pad).ext
  let vx := v.extractLsb' 0 4
  let t := s.me.ctx.vtag vx
  if v.extractLsb' 4 60 ≠ 0#60 then s.trap s.bad
  else if (s.me.ctx.q qd).ovf then s.trap (overflowTrap qd)
  else if gather ∧ tmpl.ovf then s.trap (overflowTrap qs)
  else if rowsFine packed tmpl = false then s.trap s.bad
  else if s.me.ctx.W = 0 then s.trap ⟨.noVectorWidth, 0#64⟩
  else if t ≠ tI32 ∧ t ≠ tU32 then s.trap ⟨.tagMismatch, t.setWidth 64⟩
  else if s.me.ctx.W < n then s.trap s.bad
  else
    let ix := (List.range n).map fun i => intVal (t == tI32) 32 (s.me.ctx.lane vx i).toNat
    let rows := ix.map tmpl.rowAt
    let pack := packed.packedRows n
    match s.checkRows needR (if gather then rows else pack) with
    | .error e => s.trap e
    | .ok (src, s1) =>
      match s1.checkRows needW (if gather then pack else rows) with
      | .error e => s.trap e
      | .ok (dst, s2) =>
        let pairs := if gather then dst.zip src else dropEarlier (ix.zip (dst.zip src))
        s2.offerCopy c pd .queued
          { todo := groupPieces (pairs.flatMap fun x => matchBytes packed.esz x.1.addrs x.2.addrs)
            unused := src.flatMap fun x => x.addrs.flatMap fun a => elemBytes packed.esz a.toNat }

/-- `CPYG` (R279). -/
def execCpyg (pd qd qs : BitVec 4) (v : Reg) (s : State) : Result :=
  .next (s.command v fun x c => s.rowCopy true pd qd qs x c)
/-- `CPYS` (R279). -/
def execCpys (pd qd qs : BitVec 4) (v : Reg) (s : State) : Result :=
  .next (s.command v fun x c => s.rowCopy false pd qd qs x c)

/-! ## Triggers (R292, R293) -/

/-- `ARM` (R292). -/
def execArm (pd qd qs : BitVec 4) (b : Reg) (s : State) : Result :=
  .next (s.command b fun va _ =>
    match alignCheck va 8 with
    | some t => s.trap t
    | none =>
      match s.plainLoads va 8 4 with
      | .error e => s.stopAt e
      | .ok (vs, s1) =>
        let w (i : Nat) : Word := BitVec.ofNat 64 (vs.getD i 0)
        match (if (w 0).toNat < 20 ∧ w 3 = 0#64 then Control.ofWord (w 2) else none) with
        | none => s.trap s.bad
        | some k =>
          match s1.prepareCopy qd qs (w 2) k with
          | .error t => s.trap t
          | .ok (p, s2) =>
            s2.offerCopy (s2.me.ctx.dropSq (popsOf [b])) pd (.armed va (counterOf s.me.core (w 0).toNat) (w 1)) p)

/-- `DISARM` (R293). -/
def execDisarm (pd : BitVec 4) (b : Reg) (s : State) : Result :=
  .next (s.command b fun va c =>
    match (s.triggersOf s.me.sid).find? (fun k => match k.state with
      | .armed a _ _ => a == va
      | _ => false) with
    | none => s.ansPred c pd false
    | some k => (s.disarmCopy k).ansPred c pd true)

/-- `CNTRD` (R291). -/
def execCntrd (x which : Reg) (s : State) : Result :=
  .next (s.command which fun i c =>
    if 23 ≤ i.toNat then s.trap s.bad
    else s.attempt (c.writeReg .access 0 0 x (s.counter (counterOf s.me.core i.toNat))))

/-- An instruction of two scalar sources, of which the first pops first (R272). -/
def State.command2 (s : State) (a b : Reg) (f : Word → Word → Context → State) : State :=
  match s.me.ctx.read .access a with
  | .error q => s.hold q
  | .ok (x, c) =>
    match c.read .access b with
    | .error q => s.hold q
    | .ok (y, c) => f x y c

/-- `CNTSET` (R291). -/
def execCntset (which v : Reg) (s : State) : Result :=
  .next (s.command2 which v fun i x c =>
    if 23 ≤ i.toNat then s.trap s.bad
    else
      let n := counterOf s.me.core i.toNat
      ((s.setCounter n x).compareTriggers n).done c)

/-! ## Batches (R283, R284) -/

/-- `CSEAL` (R283). -/
def execCseal (x : Reg) (s : State) : Result :=
  .next (if 15 ≤ s.me.unfinished then s.block
    else
      match s.me.ctx.writeReg .access 0 0 x (s.me.batchNext.setWidth 64) with
      | .error q => s.hold q
      | .ok c =>
        (({ s with me := { s.me with batchNext := s.me.batchNext + 1, batchUsed := false } } : State).done c).advanceBatches s.me.sid)

/-- R284 step 2, R314: `CWAIT` completes: the strand's timestamp rises to the stamps of the finished batches. -/
def State.takeBatchStamps (s : State) : State :=
  let old := s.me.batchStamps.filter fun x => s.me.finishedAge x.1 != 0
  ({ s with me := { s.me with batchStamps := s.me.batchStamps.filter fun x => s.me.finishedAge x.1 == 0 } } : State).raiseTs
    (old.foldl (fun t x => max t x.2) 0)

/-- `CWAIT` (R284). -/
def execCwait (n : Reg) (s : State) : Result :=
  .next (s.command n fun v c =>
    if 15 < v.toNat then s.trap s.bad
    else if v.toNat < s.me.unfinished then s.park (.batch v.toNat)
    else
      match s.me.oldestError with
      | some b =>
        ({ s with me := { s.me with batchErr := s.me.batchErr.filter fun e => e.1 != b } } : State).trap
          ⟨.engineError, b.setWidth 64⟩
      | none => s.takeBatchStamps.done c)

/-! ## Arrival words (R287 to R289) -/

/-- An access of an instruction that names an arrival word. (DEDUCED, log 63.) -/
def State.arrivalPlace (s : State) (va : Word) (need : Need) : Except Trap (Place × State × Bool) :=
  match s.check va 16 need with
  | .error t => .error t
  | .ok pl =>
    if isHost pl.key then .error ⟨.protectionFault, va⟩
    else
      let r := s.usePage s.me.launch.part s.me.core false pl
      .ok (pl, r.1, r.2)

/-- `AWINIT` (R287). -/
def execAwinit (aw v : Reg) (s : State) : Result :=
  .next (s.command2 aw v fun va x c =>
    match s.arrivalPlace va needW with
    | .error t => s.trap t
    | .ok (pl, s1, priv) =>
      if x.extractLsb' 56 8 ≠ 0#8 then s.trap s.bad
      else if 2 ^ 52 ≤ pl.key then
        let low := (x.extractLsb' 0 32 ++ 0#32 : Word)
        let high := (0#8 ++ x.extractLsb' 32 24 ++ 0#32 : Word)
        ({ s1 with remoteOps := s1.remoteOps ++ [⟨s.me.sid, va, pl.key, 8, .store low, .none, 0, true, s.me.launch, s.tick, false⟩,
            ⟨s.me.sid, va, pl.key + 8, 8, .store high, .none, 0, true, s.me.launch, s.tick, false⟩] } : State).done c
      else
        let s2 := s1.writeAt pl.key 16 priv fun m =>
          storeMem m pl.key 16 ((x.extractLsb' 0 32).toNat * 2 ^ 32 + (x.extractLsb' 32 24).toNat * 2 ^ 96)
        (s2.setArrivalKeep pl.key { s2.arrivalKeep pl.key with t0 := s2.tick }).done c)

/-- R288: whether a wait for a generation is over. -/
def genPassed (now : Nat) (gen : Word) : Bool :=
  let d := (BitVec.ofNat 32 now - gen.setWidth 32).toNat
  1 ≤ d && d < 2 ^ 31

/-- STALL of an arrival word. -/
def State.stalled (s : State) (key : Nat) : Bool := (s.mem.byte (key + 15)).getLsbD 7

/-- R289: STALL of an arrival word; that of another package's word is held there, and is a free value. -/
def State.stalledAt (s : State) (key : Nat) : Bool × State :=
  if 2 ^ 52 ≤ key then
    let d := s.draw
    (d.1 % 2 == 1, d.2)
  else (s.stalled key, s)

/-- `AWWAIT` (R288). Another package's arrival word is held there: what it reads as is a free value. -/
def execAwwait (aw gen : Reg) (s : State) : Result :=
  .next (s.command2 aw gen fun va g c =>
    match s.arrivalPlace va needR with
    | .error t => s.trap t
    | .ok (pl, s1, priv) =>
      if 2 ^ 52 ≤ pl.key then
        let d := s1.draw
        if genPassed d.1 g then d.2.done c
        else
          let t := d.2.stalledAt pl.key
          if t.1 then s.trap ⟨.arrivalStall, va⟩ else t.2.park (.arrival pl.key va g)
      else
        match s1.readHome va (pl.key + 8) 4 false with
        | .error t => s.trap t
        | .ok (v, s2) =>
          if genPassed v g then
            let s3 := s2.stampRead (pl.key + 8) 4 priv
            (s3.raiseTs (s3.arrivalKeep pl.key).stamp).done (s3.me.ctx.dropSq (popsOf [aw, gen]))
          else if s2.stalled pl.key then s.trap ⟨.arrivalStall, va⟩
          else s1.park (.arrival pl.key va g))

/-- WDOG of an arrival word, in ticks (R285). -/
def State.watchdog (s : State) (key : Nat) : Nat :=
  let w := s.mem.read (key + 12) 3
  if w = 0 then 2 ^ 24 else w

/-- The strands parked on an arrival word, with the address that each names. -/
def State.waitersAt (s : State) (key : Nat) : List (StrandId × Word) :=
  s.strands.filterMap fun m =>
    match m.frame, m.wait with
    | .parked, some (.arrival k va _) => if k = key then some (m.sid, va) else none
    | .parked, some (.region _ (some (k, va))) => if k = key then some (m.sid, va) else none
    | _, _ => none

/-- R109: an error waits for a parked strand, which returns to its wait to take it. -/
def Strand.raiseAtWait (m : Strand) (cause : Nat) (v : Word) : Strand := { m.retry with pendingTrap := some (cause, v) }

/-- `ARRIVAL_WATCHDOG_EXPIRY` (R289). When the watchdog of another package's word expires, that package knows. -/
def arrivalWatchdogExpiry (key : Nat) (s : State) : State :=
  let ws := s.waitersAt key
  if ws.isEmpty then s
  else if 2 ^ 52 ≤ key then ws.foldl (fun s w => s.modify w.1 fun m => m.raiseAtWait 0x11 w.2) s
  else if s.tick < (s.arrivalKeep key).t0 + s.watchdog key then s
  else
    let b := s.mem.byte (key + 15)
    let s := (({ s with mem := s.mem.setByte (key + 15) (b ||| 0x80#8) } : State).allWays.engineStamp (key + 12)).1
    ws.foldl (fun s w => s.modify w.1 fun m => m.raiseAtWait 0x11 w.2) s

/-- `ARRIVAL_WATCHDOG_EXPIRY` (R289). -/
def execArrivalWatchdogExpiry (key : Nat) (s : State) : Result := .next (arrivalWatchdogExpiry key s)

/-! ## `QWAIT` (R290) -/

/-- The keys of the words that hold a byte of a point of an operand. (DEDUCED, log 62.) -/
def State.operandWords (s : State) (o : Origin) (op : Operand) : List Nat :=
  op.addrs.flatMap fun a =>
    match s.engineLocate o a needW with
    | .ok pl => wordKeys pl.key (2 ^ op.region.esz)
    | .error _ => []

/-- R290: whether every word of a list is full. Words of another package are held there: a free value decides. -/
def State.allFull (s : State) (ws : List Nat) : Bool × State :=
  let here := (ws.filter (· < 2 ^ 52)).all s.mem.keptFull
  if ws.any (2 ^ 52 ≤ ·) then
    let d := s.draw
    (here && d.1 % 2 == 0, d.2)
  else (here, s)

/-- `QWAIT` (R290). -/
def execQwait (qa : BitVec 4) (aw : Reg) (s : State) : Result :=
  .next (s.command aw fun va c =>
    let r := s.me.ctx.q qa
    if r.ovf then s.trap (overflowTrap qa)
    else
      match s.checkRegion s.origin r needW fun k => !isHost k with
      | .error t => s.trap t
      | .ok (op, s1) =>
        if !r.bound then s1.done c
        else
          let word : Except Trap (Option (Nat × Word) × State) :=
            if aw = .zero then .ok (none, s1)
            else
              match s1.arrivalPlace va needW with
              | .error t => .error t
              | .ok (pl, s2, _) => .ok (some (pl.key, va), s2)
          match word with
          | .error t => s.trap t
          | .ok (w, s2) =>
            let ws := s2.operandWords s.origin op
            let f := s2.allFull ws
            let d := f.2.draw
            let f : Bool × State := if s.me.regionMet && !f.1 then (d.1 % 2 == 0, d.2) else f
            if f.1 then
              let t := (f.2.raiseTs (ws.foldl (fun t k => max t (f.2.stampAt k).wts) 0)).done c
              { t with me := { t.me with regionMet := false } }
            else
              let st : Bool × State :=
                match w with
                | some x => f.2.stalledAt x.1
                | none => (false, f.2)
              if st.1 then s.trap ⟨.arrivalStall, va⟩
              else
                let t := st.2.park (.region ws w)
                { t with me := { t.me with regionMet := false } })

end Sys2Proof.Machine
end

