-- ==== Sys2Proof/Machine/RouteEngine.lean ====
section
/-! DEFINITION. The expert routing engine: issue checks (R424 to R426), own counts and grants (R428, R429), rows and closing (R430), and the end of calls (R431 to R434). -/

namespace Sys2Proof.Machine

/-! ## Engine accesses by bytes -/

/-- `n` bytes from an address as an engine reads them, and how many of their words are poisoned. -/
def State.engineBytes (s : State) (o : Origin) (seen : List (Nat × Option Word32)) (va : Word) : Nat → Except NoPlace (List Byte × Nat × State)
  | 0 => .ok ([], 0, s)
  | n + 1 =>
    match s.enginePlace o va needR with
    | .error e => .error e
    | .ok (k, s) =>
      let w := s.sourceRead seen k
      match w.2.engineBytes o seen (va + 1#64) n with
      | .error e => .error e
      | .ok (bs, bad, s) =>
        let b := BitVec.ofNat 8 ((w.1.getD 0#32).toNat / 2 ^ (8 * (k % 4)))
        .ok (b :: bs, bad + (if w.1.isNone ∧ (k % 4 = 3 ∨ bs = []) then 1 else 0), s)

/-- A little-endian number as an engine reads it. -/
def State.engineNat (s : State) (o : Origin) (seen : List (Nat × Option Word32)) (va : Word) (n : Nat) : Except NoPlace (Nat × State) :=
  match s.engineBytes o seen va n with
  | .error e => .error e
  | .ok (bs, _, s) => .ok (leNat bs, s)

/-- R115: an engine event writes a word, unless it has written that word in an earlier step. While an event's words are being
found they are noted. (DESIGN CHOICE, log 108.) -/
def State.pieceWrite (s : State) (o : Origin) (va : Word) (k : Nat) (bs : List (Nat × Byte)) : State × Nat :=
  match s.ahead with
  | none => s.engineWrite k true bs
  | some a =>
    if a.finding then
      let w := s.engineWrite k true bs
      ({ w.1 with ahead := some { a with words := a.words ++ [{ origin := o, va := va, key := k, bytes := bs }] } }, w.2)
    else
      match a.words.find? fun x => x.key == k && x.bytes == bs with
      | some x => ({ s with ahead := some { a with words := a.words.erase x } }, x.stamp)
      | none => s.engineWrite k true bs

/-- R435: bytes written word by word, each word set full; the result has the largest stamp. -/
def State.writePieces (s : State) (o : Origin) : List (List (Nat × Byte)) → Except NoPlace (State × Nat)
  | [] => .ok (s, 0)
  | [] :: r => s.writePieces o r
  | ((a, b) :: p) :: r =>
    match s.enginePlace o (BitVec.ofNat 64 a) needW with
    | .error e => .error e
    | .ok (k, s) =>
      let w := s.pieceWrite o (BitVec.ofNat 64 a) k (((a, b) :: p).map fun x => (x.1 % 4, x.2))
      match w.1.writePieces o r with
      | .error e => .error e
      | .ok (s, t) => .ok (s, max w.2 t)

/-- Consecutive bytes cut into their words. -/
def cutWords (a : Nat) (bs : List Byte) : List (List (Nat × Byte)) :=
  let first := min bs.length ((4 - a % 4) % 4)
  let xs := bs.zipIdx.map fun (x : Byte × Nat) => (a + x.2, x.1)
  let rest := xs.drop first
  xs.take first :: (List.range ((rest.length + 3) / 4)).map fun i => (rest.drop (4 * i)).take 4

/-- An engine's write of consecutive bytes, word by word: the state, and the largest stamp. (DESIGN CHOICE, log 108.) -/
def State.engineStoreBytes (s : State) (o : Origin) (va : Word) (bs : List Byte) : Except NoPlace (State × Nat) :=
  s.writePieces o (cutWords va.toNat bs)

/-- The low `n` bytes of a number. -/
def bytesOf : Nat → Nat → List Byte
  | 0, _ => []
  | n + 1, v => BitVec.ofNat 8 v :: bytesOf n (v / 256)

/-! ## Engines, calls and records -/

def State.router (s : State) (die : Nat) : RouteEngine := Tab.get {} s.routers die
def State.setRouter (s : State) (die : Nat) (r : RouteEngine) : State := { s with routers := Tab.put {} s.routers die r }
def State.modifyRouter (s : State) (die : Nat) (f : RouteEngine → RouteEngine) : State := s.setRouter die (f (s.router die))

/-- The four engines' calls. -/
def State.routeCalls (s : State) : List RouteCall := (List.range 4).flatMap fun d => (s.router d).calls
def State.routeCall? (s : State) (die idx : Nat) : Option RouteCall := (s.router die).calls.find? fun c => c.idx == idx
def State.putRouteCall (s : State) (c : RouteCall) : State :=
  s.modifyRouter c.die fun r => { r with calls := r.calls.map fun x => if x.idx = c.idx then c else x }

/-- Adds an error to a call. -/
def RouteCall.fail (c : RouteCall) (e : Nat) : RouteCall := if c.errs.contains e then c else { c with errs := e :: c.errs }

/-- This package's call for a handle and sequence number. -/
def State.homeCall (s : State) (h seq : Word32) : Option RouteCall :=
  s.routeCalls.find? fun c => !c.combine && c.desc.handle == h && c.seq == seq
def State.failHome (s : State) (h seq : Word32) (e : Nat) : State :=
  match s.homeCall h seq with
  | some c => s.putRouteCall (c.fail e)
  | none => s

/-- R427: the error that stands. -/
def pickError (errs : List Nat) : Nat := ([4, 3, 5, 2, 7, 1, 6].find? errs.contains).getD 0

def RouteEngine.modifyRecord (r : RouteEngine) (idx : Nat) (f : RouteRecord → RouteRecord) : RouteEngine :=
  match Tab.get none r.records (idx % 256) with
  | some x => if x.idx = idx then { r with records := Tab.put none r.records (idx % 256) (some (f x)) } else r
  | none => r

/-! ## The descriptor (R424 to R426) -/

/-- A way to load `n` bytes: a strand's plain load, or an engine's read for a graph node. -/
abbrev Loader := State → Word → Nat → Except Stop (Nat × State)

def strandLoader : Loader := fun s va n => s.plainLoad va n
def engineLoader (o : Origin) : Loader := fun s va n =>
  match s.engineNat o [] va n with
  | .error e => .error (.trap (e.trap va))
  | .ok r => .ok r

def loadMany (ld : Loader) (s : State) (va : Word) (n : Nat) : Nat → Except Stop (List Nat × State)
  | 0 => .ok ([], s)
  | k + 1 =>
    match ld s va n with
    | .error t => .error t
    | .ok (v, s) =>
      match loadMany ld s (va + BitVec.ofNat 64 n) n k with
      | .error t => .error t
      | .ok (vs, s) => .ok (v :: vs, s)

/-- The fields of a descriptor's sixteen words; nothing where R424 does not hold. -/
def RouteDesc.ofWords (ws : List Nat) : Option RouteDesc :=
  let w (i : Nat) : Word := BitVec.ofNat 64 (ws.getD i 0)
  let f (i lo n : Nat) : Nat := ((w i).extractLsb' lo n).toNat
  let thresh := if f 3 0 32 = 0 then 128 else f 3 0 32
  let rowOk (n : Nat) : Bool := n % 4 == 0 && 4 ≤ n && n ≤ 65536
  let tagOk (n : Nat) : Bool := n == 8 || n == 9
  if f 0 0 32 ≠ 0 ∧ 1 ≤ f 0 32 16 ∧ f 0 32 16 ≤ 1024 ∧ 1 ≤ f 0 48 16 ∧ f 0 48 16 ≤ 1024 ∧ 1 ≤ f 1 0 32 ∧
      f 1 0 32 ≤ 2 ^ 20 ∧ 1 ≤ f 1 32 8 ∧ f 1 32 8 ≤ 8 ∧ tagOk (f 1 40 8) ∧ tagOk (f 1 48 8) ∧ f 1 56 8 = 0 ∧
      rowOk (f 2 0 32) ∧ rowOk (f 2 32 32) ∧ thresh ≤ 65536 ∧ thresh * f 2 0 32 < 2 ^ 32 ∧ f 3 32 32 ≠ 0 ∧
      f 9 32 32 = 0 ∧ f 11 0 6 = 0 ∧ w 13 = 0#64 ∧ w 14 = 0#64 ∧ w 15 = 0#64 then
    some { handle := (w 0).extractLsb' 0 32, nmem := f 0 32 16, nexp := f 0 48 16, ntok := f 1 0 32, k := f 1 32 8
           yBf := f 1 40 8 == 9, oBf := f 1 48 8 == 9, rb := f 2 0 32, yrb := f 2 32 32, thresh := thresh
           timeout := f 3 32 32, choice := w 4, map := w 5, x := w 6, inv := w 7, drop := w 8, dropMax := f 9 0 32
           out := w 10, status := w 11, members := [], experts := [] }
  else none

/-- MEMBERS of a descriptor's words. -/
def memberTable (ws : List Nat) : Word := BitVec.ofNat 64 (ws.getD 12 0)

/-- R425: the first words of map entries, from a list of their eight 4-byte words each; nothing where one breaks the rules. (DEDUCED, log 66.) -/
def expertsOf (members : List (BitVec 10)) : List Nat → Option (List (BitVec 10 × Nat × Nat))
  | a :: c :: _ :: _ :: _ :: _ :: _ :: _ :: r =>
    let pkg := BitVec.ofNat 10 a
    if members.contains pkg ∧ a / 2 ^ 12 = 0 ∧ c ≤ 2 ^ 24 then
      (expertsOf members r).map fun l => (pkg, a / 2 ^ 10 % 4, c) :: l
    else none
  | _ => some []

/-- R426 steps 2 and 3, on a loader; `bad` is IllegalCombination. (DEDUCED, log 66.) -/
def State.routeDesc (s : State) (ld : Loader) (bad : Trap) (d : Word) : Except Stop (RouteDesc × State) :=
  match alignCheck d 128 with
  | some t => .error (.trap t)
  | none =>
    match loadMany ld s d 8 16 with
    | .error t => .error t
    | .ok (ws, s) =>
      match RouteDesc.ofWords ws with
      | none => .error (.trap bad)
      | some r =>
        match loadMany ld s (memberTable ws) 4 r.nmem with
        | .error t => .error t
        | .ok (ms, s) =>
          let members := ms.map (BitVec.ofNat 10)
          if ms.any (2 ^ 10 ≤ ·) ∨ (members.filter (· == s.pkg)).length ≠ 1 then .error (.trap bad)
          else
            match loadMany ld s r.map 4 (8 * r.nexp) with
            | .error t => .error t
            | .ok (es, s) =>
              match expertsOf members es with
              | none => .error (.trap bad)
              | some es => .ok ({ r with members := members, experts := es }, s)

/-- R426 step 4 for one extent: the first address that fails. -/
def State.extentFault (s : State) (o : Origin) (va : Word) (len : Nat) (need : Need) : Option Trap :=
  (List.range ((len + 3) / 4)).findSome? fun i =>
    let a := va + BitVec.ofNat 64 (4 * i)
    match s.engineLocate o a need with
    | .error e => some (e.trap a)
    | .ok pl =>
      if isHost pl.key || pl.exec then some ⟨.protectionFault, a⟩ else none

/-- R424: bytes per combined row. -/
def RouteDesc.orb (r : RouteDesc) : Nat :=
  if r.yBf && !r.oBf then r.yrb * 2 else if !r.yBf && r.oBf then r.yrb / 2 else r.yrb

/-- R426 step 4. (DEDUCED, log 66.) -/
def State.routeExtents (s : State) (o : Origin) (combine : Bool) (r : RouteDesc) : Option Trap :=
  let all : List (Bool × Word × Nat × Need) :=
    [(true, r.choice, 8 * (r.ntok * r.k), needR), (true, r.map, 32 * r.nexp, needR), (!combine, r.x, r.ntok * r.rb, needR),
      (true, r.inv, 4 * (r.ntok * r.k), if combine then needR else needW), (!combine, r.drop, 8 * r.dropMax, needW),
      (true, r.status, 64, needW), (combine, r.out, r.ntok * r.orb, needW)]
  all.findSome? fun x => if x.1 then s.extentFault o x.2.1 x.2.2.1 x.2.2.2 else none

/-- R427: a call handle. -/
def routeHandle (die idx : Nat) : Word := BitVec.ofNat 64 (die % 4 * 2 ^ 24 + idx % 65536)

/-- R426 step 5: the call is accepted by the engine of a die, which has room. The result is its handle. -/
def State.acceptRoute (s : State) (o : Origin) (combine : Bool) (r : RouteDesc) : Word × State :=
  let die := dieOfCore o.core
  let q := s.router die
  let n := Tab.get 0 s.routeSeqs r.handle.toNat
  let c : RouteCall := { die := die, idx := q.accepted, combine := combine, origin := o, desc := r
                         seq := if combine then 0#32 else BitVec.ofNat 32 n, start := s.tick }
  let s := if combine then s else
    { s with
      routeSeqs := Tab.put 0 s.routeSeqs r.handle.toNat (n + 1)
      routeHomes := Tab.put none s.routeHomes r.handle.toNat (some c) }
  (routeHandle die q.accepted, s.setRouter die { q with
    calls := q.calls ++ [c]
    accepted := q.accepted + 1
    records := Tab.put none q.records (q.accepted % 256) (some { idx := q.accepted, sid := o.sid, combine := combine }) })

/-! ## Experts at their home (R429, R430) -/

def RouteExpert.is (e : RouteExpert) (h seq : Word32) (expert : Nat) : Bool :=
  e.handle == h && e.seq == seq && e.expert == expert
def State.routeExpert? (s : State) (die : Nat) (h seq : Word32) (expert : Nat) : Option RouteExpert :=
  (s.router die).experts.find? fun e => e.is h seq expert
def State.putExpert (s : State) (e : RouteExpert) : State :=
  s.modifyRouter e.die fun r =>
    { r with experts := r.experts.map fun x => if x.is e.handle e.seq e.expert then e else x }

/-- R436: BUF or the arrival block faults: the expert takes no more rows and the home's call takes ERR 5. (DEDUCED, log 63.) -/
def State.expertFault (s : State) (e : RouteExpert) : State :=
  (s.putExpert { e with closed := true }).failHome e.handle e.seq 5

/-- R430: the closing step. -/
def State.closeExpert (s : State) (e : RouteExpert) : State :=
  match s.enginePlace e.origin e.ablk needW with
  | .error _ => s.expertFault e
  | .ok (k, s) =>
    let w := s.engineWriteWords (k + 16) true [BitVec.ofNat 32 e.counted, 0#32]
    let left := (w.1.plainWord (k + 4) + 2 ^ 32 - w.1.plainWord k) % 2 ^ 32
    (w.1.addPiece k left (max w.2 e.stamp)).putExpert { e with closed := true }

/-- R430: the closing condition. -/
def State.tryClose (s : State) (e : RouteExpert) : State :=
  if e.nmem ≤ e.answered ∧ (List.range (min e.next e.cap)).all e.written.contains then s.closeExpert e else s.putExpert e

/-- R430: rows counted in slot order, as far as they are written. -/
def State.countRows : Nat → State → RouteExpert → Except NoPlace (State × RouteExpert)
  | 0, s, e => .ok (s, e)
  | n + 1, s, e =>
    if e.written.contains e.counted then
      match s.enginePlace e.origin e.ablk needW with
      | .error x => .error x
      | .ok (k, s) => State.countRows n (s.addPiece k e.rb e.stamp) { e with counted := e.counted + 1 }
    else .ok (s, e)

/-- The bytes of a row. -/
def rowBytes (ws : List Word32) : List Byte := wordBytes ws

/-- R430: a row reaches its home. -/
def State.placeRow (s : State) (e : RouteExpert) (slot : Nat) (data : List Word32) : State :=
  if e.closed then
    match s.homeCall e.handle e.seq with
    | some c => s.putRouteCall { c with late := c.late + 1 }
    | none => s
  else
    match s.engineStoreBytes e.origin (e.buf + BitVec.ofNat 64 (slot * e.rb)) (rowBytes data) with
    | .error _ =>
      (s.closeExpert e).failHome e.handle e.seq 5
    | .ok (s, t) =>
      let e := { e with written := slot :: e.written, stamp := max e.stamp t }
      let s := match s.homeCall e.handle e.seq with
        | some c => s.putRouteCall { c with stamp := max c.stamp t }
        | none => s
      match State.countRows e.written.length s e with
      | .error _ => s.expertFault e
      | .ok (s, e) => s.tryClose e

/-- R430: an expert whose time is over is closed, whatever remains. -/
def State.settleExpert (s : State) (die : Nat) (h seq : Word32) (expert : Nat) : State :=
  match s.routeExpert? die h seq expert with
  | some e => if !e.closed && e.start + e.timeout < s.tick then s.closeExpert e else s
  | none => s

/-- `ROUTE_ROW_ARRIVAL` (R430): a row of this package's member that is on its way, or one from another package. -/
def routeRowArrival (row : RouteRow) (s0 : State) : State :=
  let s := s0.settleExpert (row.die % 4) row.handle row.seq row.expert
  let die := row.die % 4
  let q := s.router die
  let same (x : RouteRow) : Bool :=
    x.handle == row.handle && x.seq == row.seq && x.expert == row.expert && x.slot == row.slot
  match s.routeExpert? die row.handle row.seq row.expert with
  | none => s.setRouter die { q with rows := q.rows.filter fun x => !same x }
  | some e =>
    match q.rows.find? same with
    | some x => (s.setRouter die { q with rows := q.rows.filter fun x => !same x }).placeRow e x.slot x.data
    | none =>
      if e.own ≤ row.slot ∧ row.slot < min e.next e.cap ∧ !(e.written.contains row.slot) ∧ 4 * row.data.length = e.rb then
        s.placeRow e row.slot row.data
      else s

/-- R429, R436: a request is granted, or answered "closed". The answer goes to another package. -/
def State.serveRequest (s : State) (e : RouteExpert) (r : RouteRequest) : State :=
  if e.closed then s
  else if !r.agrees then (s.tryClose { e with answered := e.answered + 1 }).failHome e.handle e.seq 3
  else s.tryClose { e with next := e.next + r.count, answered := e.answered + 1 }

/-- `ROUTE_REQUEST` (R429). -/
def routeRequest (r : RouteRequest) (s0 : State) : State :=
  let die := r.die % 4
  let s := s0.settleExpert die r.handle r.seq r.expert
  let q := s.router die
  match s.routeExpert? die r.handle r.seq r.expert with
  | some e => s.serveRequest e r
  | none =>
    if (q.experts.any fun e => e.handle == r.handle && r.seq.toNat < e.seq.toNat) ||
        (q.killed.any fun k => k.1 == r.handle && r.seq.toNat ≤ k.2.toNat) then s
    else s.setRouter die { q with held := q.held ++ [r] }

/-- `EXPERT_CLOSE_TIMEOUT` (R430). -/
def expertCloseTimeout (die : Nat) (handle seq : Word32) (expert : Nat) (s : State) : State :=
  match s.routeExpert? die handle seq expert with
  | some e => if e.closed ∨ s.tick < e.start + e.timeout then s else s.closeExpert e
  | none => s

/-! ## A member's call (R428, R429) -/

/-- The choices of a call for an expert, in choice order. -/
def RouteCall.choicesOf (c : RouteCall) (e : Nat) : List Nat :=
  (c.choices.zipIdx.filter fun x => x.1 == e).map (·.2)
/-- How many earlier choices of the call name the same expert. -/
def RouteCall.rankOf (c : RouteCall) (i : Nat) : Nat :=
  ((c.choices.take i).filter fun e => e == c.choices.getD i 0).length
def RouteCall.expert (c : RouteCall) (e : Nat) : BitVec 10 × Nat × Nat := c.desc.experts.getD e (0#10, 0, 0)
def RouteCall.capOf (c : RouteCall) (e : Nat) : Nat := (c.expert e).2.2

/-- What becomes of a choice. -/
inductive Fate where
  | noChoice
  | slot (s : Nat)
  | dropped (why : Nat)
  deriving DecidableEq, Repr

/-- R428: the fate of choice i once its grant is known. -/
def RouteCall.fate (c : RouteCall) (i : Nat) : Fate :=
  let e := c.choices.getD i 0xFFFF
  if c.desc.nexp ≤ e then .noChoice
  else
    match c.grants.getD e .none with
    | .base b =>
      let s := b + c.rankOf i
      if c.capOf e ≤ s then .dropped 0 else if c.unsent.contains i then .dropped 1 else .slot s
    | _ => .dropped 1

/-- R428, R436: the rows of the member's choices for an expert whose base is known are sent: to an engine of this package,
or to another package. -/
def State.sendRow (s : State) (c : RouteCall) (e i slot : Nat) : State × RouteCall :=
  if c.broken then (s, { c with unsent := i :: c.unsent })
  else
    match s.engineBytes c.origin c.seen (c.desc.x + BitVec.ofNat 64 (i / c.desc.k * c.desc.rb)) c.desc.rb with
    | .error _ => (s, { (c.fail 5) with broken := true, unsent := i :: c.unsent })
    | .ok (bs, bad, s) =>
      let c := { c with pois := c.pois + bad }
      let h := c.expert e
      if h.1 = s.pkg then
        let data := (List.range (c.desc.rb / 4)).map fun j => BitVec.ofNat 32 (leNat ((bs.drop (4 * j)).take 4))
        (s.modifyRouter h.2.1 fun r => { r with rows := r.rows ++ [⟨h.2.1, c.desc.handle, c.seq, e, slot, data⟩] }, c)
      else (s, c)

/-- A member receives a base: its rows below CAP are sent. (DESIGN CHOICE, log 84.) -/
def State.takeBase (s : State) (c : RouteCall) (e b : Nat) : State × RouteCall :=
  let c := { c with grants := c.grants.set e (.base b) }
  ((c.choicesOf e).zipIdx.filter fun x => b + x.2 < c.capOf e).foldl
    (fun (acc : State × RouteCall) x => acc.1.sendRow acc.2 e x.1 (b + x.2)) (s, c)

/-- The EXP fields of the choices. (DESIGN CHOICE, log 84.) -/
def State.readChoices (s : State) (c : RouteCall) : Nat → Word → Except NoPlace (List Nat × State)
  | 0, _ => .ok ([], s)
  | n + 1, va =>
    match s.engineNat c.origin c.seen va 2 with
    | .error e => .error e
    | .ok (v, s) =>
      match s.readChoices c n (va + 8#64) with
      | .error e => .error e
      | .ok (vs, s) => .ok (v :: vs, s)

/-- R428: an expert of this package opens with the own slots of its member, and serves the requests that it held. -/
def State.openExpert (s : State) (c : RouteCall) (e : Nat) : State × RouteCall :=
  let h := c.expert e
  let die := h.2.1
  let at_ := c.desc.map + BitVec.ofNat 64 (32 * e)
  let addrs : Except NoPlace (Nat × Nat × State) :=
    match s.engineNat c.origin c.seen (at_ + 8#64) 8 with
    | .error x => .error x
    | .ok (buf, s) =>
      match s.engineNat c.origin c.seen (at_ + 16#64) 8 with
      | .error x => .error x
      | .ok (ablk, s) => .ok (buf, ablk, s)
  let own := (c.choicesOf e).length
  let x : RouteExpert := {
    die := die, handle := c.desc.handle, seq := c.seq, expert := e, origin := c.origin
    buf := BitVec.ofNat 64 (match addrs with | .ok (b, _, _) => b | .error _ => 0)
    ablk := BitVec.ofNat 64 (match addrs with | .ok (_, a, _) => a | .error _ => 0)
    cap := h.2.2, rb := c.desc.rb, nmem := c.desc.nmem, timeout := c.desc.timeout, start := s.tick
    own := own, next := own, answered := 1 }
  let s := match addrs with | .ok (_, _, t) => t | .error _ => s
  let q := s.router die
  let old (y : RouteExpert) : Bool := y.closed && y.handle == c.desc.handle && y.expert == e
  let mine (r : RouteRequest) : Bool := r.handle == c.desc.handle && r.seq == c.seq && r.expert == e
  let s := s.setRouter die { q with
    experts := q.experts.filter (fun y => !old y) ++ [x], held := q.held.filter fun r => !mine r }
  match (if x.ablk.toNat % 32 = 0 then s.enginePlace c.origin x.ablk needW else .error .protection) with
  | .error _ =>
    (s.putExpert { x with closed := true }, { c.fail 5 with grants := c.grants.set e (.base 0) })
  | .ok (k, s) =>
    let s := s.initArrival k (c.desc.thresh * c.desc.rb) (s.plainWord (k + 12) % 2 ^ 24) fun s k w =>
      (s.engineWrite k false (bytesOfWord w)).1
    let s := (s.engineWriteWords (k + 16) false [0#32, 0#32]).1
    let t := { s with mem := (s.mem.setFull (k + 16) false).setFull (k + 20) false }
    let s := t.wake s.mem [k + 16, k + 20]
    let r := s.takeBase c e 0
    let s := (q.held.filter mine).foldl (fun s r =>
      match s.routeExpert? die c.desc.handle c.seq e with
      | some x => s.serveRequest x r
      | none => s) (r.1.putRouteCall r.2)
    let s := match s.routeExpert? die c.desc.handle c.seq e with
      | some x => if x.closed then s else s.tryClose x
      | none => s
    (s, (s.routeCall? c.die c.idx).getD r.2)

/-- R428: the own count of a `ROUTE`. -/
def State.ownCount (s : State) (c : RouteCall) : State × RouteCall :=
  match s.readChoices c (c.desc.ntok * c.desc.k) c.desc.choice with
  | .error _ =>
    (s, { (c.fail 5) with
      choices := List.replicate (c.desc.ntok * c.desc.k) 0xFFFF, grants := List.replicate c.desc.nexp .none })
  | .ok (es, s) =>
    let c := { c with choices := es, grants := List.replicate c.desc.nexp .waiting }
    let c := if es.any fun e => c.desc.nexp ≤ e && e != 0xFFFF then c.fail 1 else c
    ((List.range c.desc.nexp).filter fun e => (c.expert e).1 == s.pkg).foldl
      (fun (acc : State × RouteCall) e => (acc.1.putRouteCall acc.2).openExpert acc.2 e) (s.putRouteCall c, c)

/-- Whether a call may start: an older `ROUTE` of the package on its handle has completed (R426). -/
def State.mayStart (s : State) (c : RouteCall) : Bool :=
  !c.running && (c.combine || !(s.routeCalls.any fun x =>
    !x.combine && x.desc.handle == c.desc.handle && x.seq != c.seq && x.seq.toNat < c.seq.toNat))

/-- `ROUTE_CALL_START` (R428): the oldest queued call that may start. -/
def routeCallStart (die : Nat) (s : State) : State :=
  match (s.router die).calls.find? s.mayStart with
  | none => s
  | some c =>
    let c := { c with running := true }
    let s := (s.putRouteCall c).modifyRouter die fun r => r.modifyRecord c.idx fun x => { x with state := 1 }
    if c.combine then s
    else
      let r := s.ownCount c
      r.1.putRouteCall r.2

/-- `ROUTE_GRANT` (R428, R429, R436): an answer from another package's home; one that comes later than 2 × TIMEOUT after the
acceptance is ignored. -/
def routeGrant (die : Nat) (call : BitVec 16) (expert : Nat) (answer : RouteAnswer) (s : State) : State :=
  match (s.router die).calls.find? fun c => c.running && !c.combine && c.idx % 65536 == call.toNat with
  | none => s
  | some c =>
    if c.grants.getD expert .none ≠ .waiting ∨ c.start + 2 * c.desc.timeout < s.tick then s
    else
      match answer with
      | .base b => let r := s.takeBase c expert b; r.1.putRouteCall r.2
      | .closed =>
        let c' := if (c.choicesOf expert).isEmpty then c else c.fail 6
        s.putRouteCall { c' with grants := c.grants.set expert .none }
      | .disagrees => s.putRouteCall { c.fail 3 with grants := c.grants.set expert .none }

/-- `ROUTE_GRANT_TIMEOUT` (R429). -/
def routeGrantTimeout (die : Nat) (call : BitVec 16) (s : State) : State :=
  match (s.router die).calls.find? fun c => c.running && !c.combine && c.idx % 65536 == call.toNat with
  | none => s
  | some c =>
    if s.tick < c.start + 2 * c.desc.timeout ∨ !(c.grants.contains .waiting) then s
    else
      s.putRouteCall { c.fail 2 with grants := c.grants.map fun g => if g = .waiting then .none else g }

/-! ## The end of a call (R431 to R434) -/

/-- R431: a drop record. -/
def dropRecord (e why j t : Nat) : Nat := e * 2 ^ 48 + why * 2 ^ 36 + j * 2 ^ 32 + t

/-- An engine's writes in a row, which stop at the first fault. (DESIGN CHOICE, log 108.) -/
def State.storeAll (s : State) (c : RouteCall) : List (Word × List Byte) → State × RouteCall
  | [] => (s, c)
  | (va, bs) :: r =>
    match s.engineStoreBytes c.origin va bs with
    | .error _ => (s, c.fail 5)
    | .ok (s, t) => s.storeAll { c with stamp := max c.stamp t } r

/-- R433: the status record. (DEDUCED, log 66.) -/
def RouteCall.statusBytes (c : RouteCall) (nchoice ndrop tend : Nat) : List Byte :=
  bytesOf 4 c.desc.handle.toNat ++ bytesOf 4 c.seq.toNat ++ bytesOf 4 nchoice ++ bytesOf 4 ndrop ++
    bytesOf 4 (min ndrop c.desc.dropMax) ++ bytesOf 4 (pickError c.errs) ++ bytesOf 8 c.start ++ bytesOf 8 tend ++
    bytesOf 4 c.late ++ bytesOf 4 c.pois ++ bytesOf 16 0

/-- A call ends: its status record is written and its engine record completes. -/
def State.endRoute (s : State) (c : RouteCall) (nchoice ndrop : Nat) : State :=
  let r := s.storeAll c [(c.desc.status, c.statusBytes nchoice ndrop s.tick)]
  (r.1.modifyRouter c.die fun q =>
    ({ q with calls := q.calls.filter fun x => x.idx != c.idx }).modifyRecord c.idx fun x =>
      { x with state := 2, err := pickError r.2.errs, ndrop := min ndrop 0xFFFFFF, stamp := r.2.stamp }).engineDone c.origin
    (pickError r.2.errs) r.2.stamp

/-- R428, R431: INV and DROP of a `ROUTE`. -/
def State.finishRoute (s : State) (c : RouteCall) : State :=
  let fates := (List.range (c.desc.ntok * c.desc.k)).map fun i => (i, c.fate i)
  let invs := fates.map fun x =>
    (c.desc.inv + BitVec.ofNat 64 (4 * x.1), bytesOf 4 (match x.2 with | .slot s => s | _ => 0xFFFFFFFF))
  let drops := fates.filterMap fun x =>
    match x.2 with
    | .dropped w => some (dropRecord (c.choices.getD x.1 0) w (x.1 % c.desc.k) (x.1 / c.desc.k))
    | _ => none
  let recs := (drops.take c.desc.dropMax).zipIdx.map fun x =>
    (c.desc.drop + BitVec.ofNat 64 (8 * x.2), bytesOf 8 x.1)
  let r := s.storeAll c (invs ++ recs)
  r.1.endRoute r.2 (fates.filter fun x => x.2 != .noChoice).length drops.length

/-- Whether a running `ROUTE` may complete: its grants are known and its rows at this package's homes have arrived. -/
def State.routeDone (s : State) (c : RouteCall) : Bool :=
  !(c.grants.contains .waiting) &&
    !((List.range 4).any fun d => (s.router d).rows.any fun r => r.handle == c.desc.handle && r.seq == c.seq)

/-- R434: element i of the output row of a slot, as an FP32 code; nothing where its home has no `ROUTE` of the handle. -/
def State.outputElem (s : State) (c : RouteCall) (e slot i : Nat) : Except NoPlace (Option Nat × Nat × State) :=
  let size := if c.desc.yBf then 2 else 4
  if (c.expert e).1 = s.pkg then
    match Tab.get none s.routeHomes c.desc.handle.toNat with
    | none => .ok (none, 0, s)
    | some h =>
      match s.engineNat h.origin c.seen (h.desc.map + BitVec.ofNat 64 (32 * e + 24)) 8 with
      | .error x => .error x
      | .ok (y, s) =>
        match s.engineBytes h.origin c.seen (BitVec.ofNat 64 (y + slot * h.desc.yrb + i * size)) size with
        | .error x => .error x
        | .ok (bs, bad, s) => .ok (some (leNat bs * if c.desc.yBf then 2 ^ 16 else 1), bad, s)
  else
    let d := s.draw
    let v := d.2.draw
    .ok (if d.1 % 2 = 0 then none else some (v.1 % 2 ^ (8 * size) * if c.desc.yBf then 2 ^ 16 else 1), 0, v.2)

/-- R434: one step of the combination of an element. (DESIGN CHOICE, log 84.) -/
def State.combineStep (s : State) (c : RouteCall) (i : Nat) (acc : Nat) (x : Nat × Nat × Nat) : State × RouteCall × Nat :=
  let (slot, e, g) := x
  if slot = 0xFFFFFFFF then (s, c, acc)
  else if c.desc.nexp ≤ e ∨ c.capOf e ≤ slot then (s, c.fail 1, acc)
  else
    match s.outputElem c e slot i with
    | .error _ => (s, c.fail 7, acc)
    | .ok (none, _, s) => (s, c.fail 7, acc)
    | .ok (some y, bad, s) => (s, { c with pois := c.pois + bad }, (fp32.fmaOp .rne false false g y acc).1)

/-- R434: an FP32 sum as an element of the output. -/
def combined (bf : Bool) (acc : Nat) : List Byte :=
  let f := if bf then bf16 else fp32
  let v := fp32.decode acc
  bytesOf (if bf then 2 else 4) (if v.isNaN then f.canonicalNaN else (f.round .rne false v).1)

/-- R434: the kept choices of a token: slot, expert and gate. -/
def State.tokenChoices (s : State) (c : RouteCall) (t : Nat) : List Nat → Except NoPlace (List (Nat × Nat × Nat) × State)
  | [] => .ok ([], s)
  | j :: js =>
    let i := t * c.desc.k + j
    match s.engineNat c.origin c.seen (c.desc.inv + BitVec.ofNat 64 (4 * i)) 4 with
    | .error e => .error e
    | .ok (slot, s) =>
      match s.engineNat c.origin c.seen (c.desc.choice + BitVec.ofNat 64 (8 * i)) 8 with
      | .error e => .error e
      | .ok (w, s) =>
        match s.tokenChoices c t js with
        | .error e => .error e
        | .ok (r, s) => .ok ((slot, w % 65536, w / 2 ^ 32) :: r, s)

/-- R434: one token's combined row. -/
def State.combineToken (s : State) (c : RouteCall) (t : Nat) : State × RouteCall :=
  if c.broken then (s, c)
  else
    match s.tokenChoices c t (List.range c.desc.k) with
    | .error _ => (s, { (c.fail 5) with broken := true })
    | .ok (xs, s) =>
      let c := { c with choices := c.choices ++ xs.map (·.2.1) }
      let n := c.desc.yrb / (if c.desc.yBf then 2 else 4)
      let r := (List.range n).foldl (fun (acc : State × RouteCall × List Byte) i =>
        let q := xs.foldl (fun (a : State × RouteCall × Nat) x => a.1.combineStep a.2.1 i a.2.2 x) (acc.1, acc.2.1, 0)
        (q.1, q.2.1, acc.2.2 ++ combined c.desc.oBf q.2.2)) (s, c, [])
      let w := r.1.storeAll r.2.1 [(c.desc.out + BitVec.ofNat 64 (t * c.desc.orb), r.2.2)]
      (w.1, if w.2.errs.contains 5 then { w.2 with broken := true } else w.2)

/-- `ROUTE_CALL_COMPLETE` (R432): the oldest call of the engine that may complete. -/
def routeCallComplete (die : Nat) (s : State) : State :=
  match (s.router die).calls.find? fun c => c.running && (c.combine || s.routeDone c) with
  | none => s
  | some c =>
    if c.combine then
      let r := (List.range c.desc.ntok).foldl (fun (a : State × RouteCall) t => a.1.combineToken a.2 t) (s, c)
      r.1.endRoute r.2 (r.2.choices.filter (· < c.desc.nexp)).length 0
    else s.finishRoute c

/-- R376, R436: the calls of a killed context complete with ERR 4, and its experts answer no more. -/
def State.killRoutes (s0 : State) (mine : LaunchRef → Bool) : State :=
  let gone := (s0.routeCalls.filter fun c => !c.combine && mine c.origin.launch).map fun c => (c.desc.handle, c.seq)
  let s := if gone.isEmpty then s0 else (List.range 4).foldl (fun s d => s.modifyRouter d fun q =>
    { q with
      killed := gone ++ q.killed
      held := q.held.filter fun r => !gone.any fun k => k.1 == r.handle && r.seq.toNat ≤ k.2.toNat }) s0
  (List.range 4).foldl (fun s d =>
    let dead := (s.router d).calls.filter fun c => mine c.origin.launch
    let s := dead.foldl (fun s c => s.modifyRouter d fun q =>
      ({ q with calls := q.calls.filter fun x => x.idx != c.idx }).modifyRecord c.idx fun x =>
        { x with state := 2, err := 4 }) s
    s.modifyRouter d fun q =>
      { q with
        experts := q.experts.map fun e => if mine e.origin.launch then { e with closed := true } else e
        rows := q.rows.filter fun r => !(dead.any fun c => c.desc.handle == r.handle && c.seq == r.seq) }) s

end Sys2Proof.Machine
end

