-- ==== Sys2Proof/Machine/Routing.lean ====
section
/-! DEFINITION. The routing instructions, major 0x3B (R423, R426, R432), and the routing engine's events. -/

namespace Sys2Proof.Machine

/-- R426: a routing call of the strand in turn. -/
def State.routeStep (s : State) (combine : Bool) (x desc : Reg) : State :=
  s.command desc fun d c =>
    match s.routeDesc strandLoader s.bad d with
    | .error e => s.stopAt e
    | .ok (r, s1) =>
      match s1.routeExtents s.origin combine r with
      | some t => s.trap t
      | none =>
        if 32 ≤ (s1.router (dieOfCore s.me.core)).calls.length then s.block
        else
          match c.writeReg .access 0 0 x 0#64 with
          | .error q => s.hold q
          | .ok _ =>
            let r := s1.acceptRoute s.origin combine r
            match (r.2.me.ctx.dropSq (popsOf [desc])).writeReg .access 0 0 x r.1 with
            | .error q => s.hold q
            | .ok c => r.2.done c

/-- `ROUTE` (R426). -/
def execRoute (x desc : Reg) (s : State) : Result := .next (s.routeStep false x desc)
/-- `RTINV` (R426, R434). -/
def execRtinv (x desc : Reg) (s : State) : Result := .next (s.routeStep true x desc)

/-- R427: a handle that the strand may name. -/
def State.routeHandleOk (s : State) (h : Word) : Bool :=
  h.extractLsb' 26 38 == 0#38 && h.extractLsb' 16 8 == 0#8 &&
    (List.range 48).any fun i =>
      s.ownerOfCluster ((h.extractLsb' 24 2).toNat * 48 + i) == some s.me.launch.part

/-- R427: the record that a handle names. -/
def State.routeRecord (s : State) (h : Word) : Option RouteRecord :=
  let q := s.router (h.extractLsb' 24 2).toNat
  let i := (h.extractLsb' 0 16).toNat
  match Tab.get none q.records (i % 256) with
  | some r => if r.idx % 65536 = i ∧ q.accepted - r.idx ≤ 256 then some r else none
  | none => none

/-- R427: the status word. -/
def routeStatus (h : Word) (r : Option RouteRecord) : Word :=
  match r with
  | none => 3#2 ++ 0#46 ++ h.extractLsb' 0 16
  | some r =>
    BitVec.ofNat 2 r.state ++ BitVec.ofNat 4 r.err ++ BitVec.ofBool r.delivered ++ 0#8 ++ BitVec.ofBool r.combine ++
      BitVec.ofNat 24 r.ndrop ++ 0#8 ++ h.extractLsb' 0 16

/-- Whether a wait on a call is over (R432). -/
def State.routeOver (s : State) (h : Word) : Bool :=
  match s.routeRecord h with
  | some r => r.state == 2
  | none => true

/-- R432: whether a wait takes EngineError. -/
def State.routeError (s : State) (h : Word) : Bool :=
  match s.routeRecord h with
  | some r => r.state == 2 && r.err != 0 && r.err != 6 && !r.delivered && r.sid == s.me.sid
  | none => false

def State.deliverRoute (s : State) (h : Word) : State :=
  match s.routeRecord h with
  | some r => s.modifyRouter (h.extractLsb' 24 2).toNat fun q => q.modifyRecord r.idx fun x => { x with delivered := true }
  | none => s

/-- `RTWAIT` (R432). -/
def execRtwait (h : Reg) (s : State) : Result :=
  .next (s.command h fun v c =>
    if s.routeHandleOk v = false then s.trap s.bad
    else if s.routeOver v = false then s.park (.route v)
    else if s.routeError v then (s.deliverRoute v).trap ⟨.engineError, v⟩
    else (s.raiseTs (((s.routeRecord v).map (·.stamp)).getD 0)).done c)

/-- `RTSTAT` (R432). -/
def execRtstat (x h : Reg) (s : State) : Result :=
  .next (s.command h fun v c =>
    if s.routeHandleOk v = false then s.trap s.bad
    else s.attempt (c.writeReg .access 0 0 x (routeStatus v (s.routeRecord v))))

/-- `ROUTE_CALL_START` (R428). -/
def execRouteCallStart (die : Nat) (s : State) : Result := .next (routeCallStart die s)
/-- `ROUTE_REQUEST` (R429). -/
def execRouteRequest (req : RouteRequest) (s : State) : Result := .next (routeRequest req s)
/-- `ROUTE_GRANT` (R428). -/
def execRouteGrant (die : Nat) (call : BitVec 16) (expert : Nat) (answer : RouteAnswer) (s : State) : Result :=
  .next (routeGrant die call expert answer s)
/-- `ROUTE_ROW_ARRIVAL` (R430). -/
def execRouteRowArrival (row : RouteRow) (s : State) : Result := .next (routeRowArrival row s)
/-- `EXPERT_CLOSE_TIMEOUT` (R430). -/
def execExpertCloseTimeout (die : Nat) (handle seq : Word32) (expert : Nat) (s : State) : Result :=
  .next (expertCloseTimeout die handle seq expert s)
/-- `ROUTE_GRANT_TIMEOUT` (R429). -/
def execRouteGrantTimeout (die : Nat) (call : BitVec 16) (s : State) : Result := .next (routeGrantTimeout die call s)
/-- `ROUTE_CALL_COMPLETE` (R432). -/
def execRouteCallComplete (die : Nat) (s : State) : Result := .next (routeCallComplete die s)

end Sys2Proof.Machine
end

