-- ==== Sys2Proof/Machine/Collective.lean ====
section
/-! DEFINITION. The communication masters: parameter blocks (R405 to R408), contributions (R411), coordinators (R409, R410), and how calls end (R412, R413). -/

namespace Sys2Proof.Machine

/-! ## Masters, calls and records (R402, R404) -/

def State.master (s : State) (k : Nat) : CollMaster := Tab.get {} s.masters k
def State.setMaster (s : State) (k : Nat) (m : CollMaster) : State := { s with masters := Tab.put {} s.masters k m }
def State.modifyMaster (s : State) (k : Nat) (f : CollMaster → CollMaster) : State := s.setMaster k (f (s.master k))

/-- Every call of the package that has not completed, with its cluster. -/
def State.collCalls (s : State) : List (Nat × CollCall) :=
  s.masters.flatMap fun (x : Nat × CollMaster) => x.2.calls.map fun c => (x.1, c)

/-- The call of a member of this package. -/
def State.collCall? (s : State) (handle seq : Word32) (rank : Nat) : Option (Nat × CollCall) :=
  s.collCalls.find? fun x => x.2.block.handle == handle && x.2.seq == seq && x.2.block.rank == rank

/-- The calls of this package's members with a handle and sequence number. -/
def State.collGroup (s : State) (handle seq : Word32) : List (Nat × CollCall) :=
  s.collCalls.filter fun x => x.2.block.handle == handle && x.2.seq == seq

def State.putCall (s : State) (k : Nat) (c : CollCall) : State :=
  s.modifyMaster k fun m => { m with calls := m.calls.map fun x => if x.idx = c.idx then c else x }

def CollMaster.modifyRecord (m : CollMaster) (idx : Nat) (f : CollRecord → CollRecord) : CollMaster :=
  match Tab.get none m.records (idx % 256) with
  | some r => if r.idx = idx then { m with records := Tab.put none m.records (idx % 256) (some (f r)) } else m
  | none => m

/-- R404: the record that a call number names. -/
def CollMaster.named (m : CollMaster) (call : BitVec 16) : Option CollRecord :=
  match Tab.get none m.records (call.toNat % 256) with
  | some r => if r.idx % 65536 = call.toNat ∧ m.accepted - r.idx ≤ 256 then some r else none
  | none => none

/-! ## Parameter blocks (R407, R408) -/

/-- Bytes per element of SRC and DST. -/
def CollBlock.esize (b : CollBlock) : Nat := tagBits b.fmt / 8
/-- The elements of SRC at this rank, which are the elements that it contributes. -/
def CollBlock.srcCount (b : CollBlock) : Nat :=
  if b.op = 1 ∨ b.op = 4 then b.nrank * b.count
  else if b.op = 3 ∧ b.rank ≠ b.root then 0
  else b.count
/-- The elements of DST. -/
def CollBlock.dstCount (b : CollBlock) : Nat := if b.op = 2 ∨ b.op = 4 then b.nrank * b.count else b.count
/-- The elements of RES at this rank. -/
def CollBlock.resCount (b : CollBlock) : Nat := if b.res = 0#64 then 0 else b.srcCount

/-- R407: the fields of a block's sixteen words; nothing where a field breaks its values. (DEDUCED, log 51.) -/
def CollBlock.ofWords (ws : List Nat) : Option CollBlock :=
  let w (i : Nat) : Word := BitVec.ofNat 64 (ws.getD i 0)
  let f (i lo n : Nat) : Nat := ((w i).extractLsb' lo n).toNat
  let tag (i lo : Nat) : Tag := (w i).extractLsb' lo 6
  let b : CollBlock :=
    { op := f 0 0 8, redop := f 0 8 8, fmt := tag 0 16, cfmt := tag 0 24, alg := f 0 32 8, fold := f 0 40 8 == 1
      scale := f 0 48 8, handle := (w 1).extractLsb' 0 32, nrank := f 1 32 16, rank := f 1 48 16, coord := f 2 0 16
      root := f 2 16 16, quorum := f 2 32 16, timeout := f 3 0 32, twilight := f 3 32 32, count := f 4 0 64
      members := w 5, src := w 6, dst := w 7, res := w 8, status := w 9 }
  let fmtOk := f 0 22 2 == 0 && (isFlt b.fmt || b.fmt == tI32 || b.fmt == tU32)
  let cfmtOk := f 0 24 8 == 0 || (f 0 30 2 == 0 && isB8 b.cfmt && isFlt b.fmt && b.count % 32 == 0)
  let lateOk := f 0 40 8 ≤ 1 && (!b.fold || b.res != 0#64)
  let scaleOk := b.scale ≤ 2 && (b.scale == 0 || (b.redop == 0 && isFlt b.fmt))
  let redOk := b.redop ≤ 2 && (b.op ≤ 1 || b.redop == 0)
  let rankOk := 1 ≤ b.nrank && b.nrank ≤ 1024 && b.rank < b.nrank && b.coord < b.nrank && b.root < b.nrank
  let rootOk := if b.op = 3 then b.coord == b.root else b.root == 0
  let zeroOk := f 0 56 8 == 0 && f 2 48 16 == 0 && (List.range 6).all fun i => w (10 + i) == 0#64
  let sizeOk := b.srcCount * b.esize ≤ 2 ^ 40 && b.dstCount * b.esize ≤ 2 ^ 40 && b.resCount * 4 ≤ 2 ^ 40
  if b.op ≤ 4 ∧ redOk ∧ fmtOk ∧ cfmtOk ∧ b.alg ≤ 4 ∧ lateOk ∧ scaleOk ∧ b.handle ≠ 0#32 ∧ rankOk ∧ rootOk ∧
      1 ≤ b.quorum ∧ b.quorum ≤ b.nrank ∧ 1 ≤ b.timeout ∧ 1 ≤ b.count ∧ b.status.extractLsb' 0 6 = 0#6 ∧ zeroOk ∧ sizeOk then
    some b
  else none

/-- R407: whether two blocks agree in every field but RANK, SRC, DST, RES and STATUS. -/
def CollBlock.agrees (a b : CollBlock) : Bool :=
  { a with rank := b.rank, src := b.src, dst := b.dst, res := b.res, status := b.status } == b

/-- The fields of a member-table word. -/
def memberPkg (w : Word32) : BitVec 10 := w.extractLsb' 0 10
def memberCluster (w : Word32) : Nat := (w.extractLsb' 10 8).toNat
def memberSess (w : Word32) : BitVec 10 := w.extractLsb' 18 10

/-- R405 steps 2 to 4, on a loader, for the master of a cluster; `bad` is IllegalCombination. (DEDUCED, log 51.) -/
def State.collBlock (s : State) (ld : Loader) (bad : Trap) (cluster : Nat) (pb : Word) :
    Except Stop (CollBlock × List Word32 × State) :=
  match alignCheck pb 128 with
  | some t => .error (.trap t)
  | none =>
    match loadMany ld s pb 8 16 with
    | .error t => .error t
    | .ok (ws, s) =>
      match CollBlock.ofWords ws with
      | none => .error (.trap bad)
      | some b =>
        match loadMany ld s b.members 4 b.nrank with
        | .error t => .error t
        | .ok (ms, s) =>
          let table := ms.map (BitVec.ofNat 32)
          let own := table.getD b.rank 0#32
          if table.any (fun w => w.extractLsb' 28 4 != 0#4) ∨ memberSess own ≠ 0#10 ∨ memberPkg own ≠ s.pkg ∨
              memberCluster own ≠ cluster then .error (.trap bad)
          else .ok (b, table, s)

/-- R405 step 5. -/
def State.collExtents (s : State) (o : Origin) (b : CollBlock) : Option Trap :=
  [(b.src, b.srcCount * b.esize, needR), (b.dst, b.dstCount * b.esize, needW), (b.res, b.resCount * 4, needRW),
    (b.status, 192, needW)].findSome? fun x => s.extentFault o x.1 x.2.1 x.2.2

/-- R404: a call handle. (DEDUCED, log 47.) -/
def collHandle (cluster idx : Nat) : Word := BitVec.ofNat 64 (cluster % 256 * 2 ^ 16 + idx % 65536)

/-! ## Contributions (R411) -/

/-- An element converted exactly to FP32; integers stay as they are. -/
def widen (fmt : Tag) (x : Nat) : Word32 :=
  BitVec.ofNat 32 (if isFlt fmt then (fp32.round .rne false ((tagFmt fmt).decode x)).1 else x)
/-- The result of an element as DST holds it. -/
def narrow (fmt : Tag) (x : Word32) : Nat :=
  if isFlt fmt then ((tagFmt fmt).round .rne false (fp32.decode x.toNat)).1 else x.toNat

/-- A sum of two elements: FP32 by RNE, or integers, which wrap. -/
def collAdd (fmt : Tag) (x y : Word32) : Word32 :=
  if isFlt fmt then BitVec.ofNat 32 (fp32.addOp .rne x.toNat y.toNat).1 else x + y

/-- One combination of a reduction (R411, R78). -/
def collCombine (b : CollBlock) (x y : Word32) : Word32 :=
  if b.redop = 0 then collAdd b.fmt x y
  else if isFlt b.fmt then BitVec.ofNat 32 (fp32.minMax (b.redop == 2) x.toNat y.toNat).1
  else
    let less := if b.fmt = tI32 then x.slt y else x.ult y
    if less = (b.redop == 1) then x else y

/-- What a run of FP32 elements becomes on its way: BlockQuant under RNE, then DeQuant (R217, R218). (DESIGN CHOICE, log 48.) -/
def requantOnce (cfmt : Tag) (xs : List Word32) : List Word32 :=
  let q := blockQuant (tagFmt cfmt) .rne (xs.map fun x => fp32.decode x.toNat)
  q.2.1.map fun y => BitVec.ofNat 32 (deQuant (tagFmt cfmt) fp32 y q.1).1
/-- How often a transmission quantises a run again: a draw, and no more often than a ring of the members passes it on. (DESIGN CHOICE, log 48.) -/
def CollBlock.hops (b : CollBlock) (draw : Nat) : Nat := draw % (2 * b.nrank - 1)
def requant (cfmt : Tag) : Nat → List Word32 → List Word32
  | 0, xs => xs
  | n + 1, xs => requant cfmt n (requantOnce cfmt xs)

/-- Cuts a list into runs of `n`; `fuel` bounds their number. -/
def runsOf (n : Nat) : Nat → List Word32 → List (List Word32)
  | 0, _ => []
  | _, [] => []
  | k + 1, xs => xs.take n :: runsOf n k (xs.drop n)

/-- The elements that one transmission quantises together: 32 under compression. -/
def CollBlock.runLength (b : CollBlock) : Nat := if b.cfmt = tNone then 1 else 32
def CollBlock.runs (b : CollBlock) (xs : List Word32) : List (List Word32) := runsOf b.runLength (xs.length + 1) xs

/-- R411: the contribution that elements and residuals form. (DESIGN CHOICE, log 48.) -/
def CollBlock.form (b : CollBlock) (xs : List Nat) (rs : List Word32) : Contribution :=
  let c := xs.zipIdx.map fun (x : Nat × Nat) => collAdd b.fmt (widen b.fmt x.1) (rs.getD x.2 0#32)
  { old := rs, c := c
    sent := if b.cfmt = tNone then c else (b.runs c).flatMap (requantOnce b.cfmt) }

/-- R411: the residual that sending leaves. (DEDUCED, log 49.) -/
def CollBlock.residual (b : CollBlock) (k : Contribution) : List Word32 :=
  if b.cfmt = tNone then k.c.map fun _ => 0#32
  else (k.c.zip k.sent).map fun x => BitVec.ofNat 32 (fp32.subOp .rne x.1.toNat x.2.toNat).1

/-- Elements of `n` bytes as the engine reads them; the spec gives a poisoned word of a collective no value. (DESIGN CHOICE, log 50.) -/
def State.collRead (s : State) (o : Origin) (seen : List (Nat × Option Word32)) (va : Word) (n : Nat) : Nat → Except NoPlace (List Nat × State)
  | 0 => .ok ([], s)
  | k + 1 =>
    match s.engineBytes o seen va n with
    | .error e => .error e
    | .ok (bs, bad, s) =>
      let d := s.draw
      let x := if bad = 0 then (leNat bs, s) else (d.1 % 2 ^ (8 * n), d.2)
      match x.2.collRead o seen (va + BitVec.ofNat 64 n) n k with
      | .error e => .error e
      | .ok (r, s) => .ok (x.1 :: r, s)

/-- Elements as bytes. -/
def elemsBytes (n : Nat) (xs : List Nat) : List Byte := xs.flatMap (bytesOf n)

/-- The bytes of FP32 or integer elements of RES. -/
def wordsBytes (xs : List Word32) : List Byte := elemsBytes 4 (xs.map BitVec.toNat)

/-- Writes RES; a member without one has nothing to write. (DEDUCED, log 49.) -/
def State.writeResidual (s : State) (c : CollCall) (xs : List Word32) : Except NoPlace (State × Nat) :=
  if c.block.resCount = 0 then .ok (s, 0) else s.engineStoreBytes c.origin c.block.res (wordsBytes xs)

/-- R411: the member reads SRC and RES, forms its contribution and leaves the residual. (DEDUCED, log 49.) -/
def State.contribute (s : State) (c : CollCall) : Except NoPlace (State × CollCall) :=
  let b := c.block
  match s.collRead c.origin c.seen b.src b.esize b.srcCount with
  | .error e => .error e
  | .ok (xs, s) =>
    match s.collRead c.origin c.seen b.res 4 b.resCount with
    | .error e => .error e
    | .ok (rs, s) =>
      let k := b.form xs (rs.map (BitVec.ofNat 32))
      match s.writeResidual c (b.residual k) with
      | .error e => .error e
      | .ok (s, t) => .ok (s, { c with formed := some k, stamp := max c.stamp t })

/-! ## How a call ends (R412, R413) -/

/-- What a status record says beside the call's own fields. -/
structure CollEnd where
  err : Nat
  present : List Nat := []
  twilight : Bool := false
  byRequest : Bool := false
  folded : Bool := false
  dropped : Bool := false
  tstart : Nat := 0
  tflush : Nat := 0
  deriving DecidableEq, Repr

def CollEnd.flags (e : CollEnd) (compressed : Bool) : Nat :=
  compressed.toNat + 2 * e.twilight.toNat + 4 * e.byRequest.toNat + 8 * e.folded.toNat + 16 * e.dropped.toNat

/-- LOSTMAP: the ranks that are not in the result. (DEDUCED, log 52.) -/
def lostMap (nrank : Nat) (present : List Nat) : List Byte :=
  (List.range 128).map fun i =>
    BitVec.ofNat 8 ((List.range 8).foldl (fun n j =>
      let r := 8 * i + j
      if r < nrank && !present.contains r then n + 2 ^ j else n) 0)

/-- R413: the bytes of a status record. (DEDUCED, log 52.) -/
def CollCall.statusBytes (c : CollCall) (e : CollEnd) : List Byte :=
  bytesOf 4 c.block.handle.toNat ++ bytesOf 4 c.seq.toNat ++ bytesOf 2 e.present.length ++
    bytesOf 2 (c.block.nrank - e.present.length) ++ bytesOf 1 e.err ++ bytesOf 1 (e.flags (c.block.cfmt != tNone)) ++
    bytesOf 2 0 ++ bytesOf 8 e.tstart ++ bytesOf 8 e.tflush ++ bytesOf 32 0 ++ lostMap c.block.nrank e.present

/-- A call leaves its master, and its record says how it ended. -/
def CollMaster.close (m : CollMaster) (idx : Nat) (e : CollEnd) (nrank stamp : Nat) : CollMaster :=
  ({ m with
    calls := m.calls.filter fun c => c.idx != idx
    mailbox := m.mailbox.filter fun x => x != MailEntry.call idx } : CollMaster).modifyRecord idx fun r =>
      { r with state := 2, err := e.err, present := e.present.length, lost := nrank - e.present.length, stamp := stamp }

/-- R413: the status record is written and the call completes. (DEDUCED, log 52.) -/
def State.endCall (s : State) (k : Nat) (c : CollCall) (e : CollEnd) : State :=
  match s.engineStoreBytes c.origin c.block.status (c.statusBytes e) with
  | .ok (s, t) =>
    (s.modifyMaster k fun m => m.close c.idx e c.block.nrank (max c.stamp t)).engineDone c.origin e.err (max c.stamp t)
  | .error _ =>
    (s.modifyMaster k fun m => m.close c.idx { e with err := 6 } c.block.nrank c.stamp).engineDone c.origin 6 c.stamp

/-! ## Coordinators (R409, R410) -/

def State.coord? (s : State) (handle seq : Word32) : Option Coordinator :=
  s.coords.find? fun x => x.handle == handle && x.seq == seq
def State.putCoord (s : State) (x : Coordinator) : State :=
  { s with coords := s.coords.map fun y => if y.handle = x.handle ∧ y.seq = x.seq then x else y }

/-- Whether the coordinator of a call is a member of this package. -/
def State.coordHere (s : State) (c : CollCall) : Bool :=
  let w := c.table.getD c.block.coord 0#32
  memberSess w == 0#10 && memberPkg w == s.pkg

/-- T of a call, where the member knows it; the spec gives no value where it does not. -/
def State.knownStart (s : State) (c : CollCall) : Nat × State :=
  match s.coord? c.block.handle c.seq with
  | some x => if x.stage = .held then s.draw else (x.tstart, s)
  | none => s.draw

/-- A call without a result completes with an error. -/
def State.failCall (s : State) (k : Nat) (c : CollCall) (err : Nat) : State :=
  let t := s.knownStart c
  t.2.endCall k c { err := err, tstart := t.1 % 2 ^ 64 }

/-- Every call of a list completes with an error. -/
def State.failCalls (s : State) (err : Nat) (l : List (Nat × CollCall)) : State :=
  l.foldl (fun s x => s.failCall x.1 x.2 err) s

/-- R410: whether the coordinator has flushed a sequence number of a handle, or a later one. -/
def State.flushedPast (s : State) (handle seq : Word32) : Bool :=
  s.coords.any fun x => x.handle == handle && x.stage == .flushed && seq.toNat ≤ x.seq.toNat

/-- Combines runs in an order, and with quantised transmissions, that R411 leaves open. (DESIGN CHOICE, log 48.) -/
def State.combineRuns (b : CollBlock) : Nat → List (List Word32) → State → List Word32 × State
  | 0, rs, s => (rs.headD [], s)
  | n + 1, rs, s =>
    match rs with
    | [] => ([], s)
    | [r] => (r, s)
    | rs =>
      let d := s.draw
      let r := rs.rotateLeft (d.1 % rs.length)
      let e := d.2.draw
      let i := e.1 % (r.length - 1)
      let p := e.2.draw
      let q := p.2.draw
      let go (k : Nat) (xs : List Word32) : List Word32 := if b.cfmt = tNone then xs else requant b.cfmt k xs
      let x := go (b.hops p.1) (r.headD [])
      let y := go (b.hops q.1) (r.tail.getD i [])
      State.combineRuns b n ((x.zip y).map (fun z => collCombine b z.1 z.2) :: r.tail.eraseIdx i) q.2

/-- R411: the scaling of a reduced value over `m` members. -/
def CollBlock.scaled (b : CollBlock) (m : Nat) (x : Word32) : Word32 :=
  if b.scale = 0 then x
  else
    let v := fp32.decode x.toNat
    let p := if b.scale = 2 then v.mul (Fp.fromInt b.nrank) else some v
    let q := p.bind fun p => (p.div (Fp.fromInt m)).1
    BitVec.ofNat 32 (fp32.finish .rne [v] q.isNone q).1

/-- R411: the reduction, run by run. (DESIGN CHOICE, log 48.) -/
def State.reduceRuns (s : State) (b : CollBlock) (datas : List (List Word32)) : Nat → Nat → List Word32 × State
  | 0, _ => ([], s)
  | n + 1, i =>
    let rs := datas.map fun d => (d.drop (i * b.runLength)).take b.runLength
    let r := State.combineRuns b datas.length rs s
    let q := r.2.reduceRuns b datas n (i + 1)
    (r.1.map (b.scaled datas.length) ++ q.1, q.2)

/-- R409: the flush of a call. -/
def State.flushCall (s : State) (x : Coordinator) (byRequest : Bool) : State :=
  match x.block with
  | none => s
  | some b =>
    let r := if b.op ≤ 1 then s.reduceRuns b (x.arrived.map (·.data)) ((b.srcCount + b.runLength - 1) / b.runLength) 0
      else ([], s)
    (r.2.modifyMaster x.cluster fun m =>
        { m with lostMembers := sat32 (m.lostMembers + (b.nrank - x.arrived.length)) }).putCoord
      { x with stage := .flushed, tflush := s.tick, twilight := x.stage == .twilight, byRequest := byRequest, reduced := r.1 }

/-- R409: a flush where all members, or inside Twilight a quorum, have arrived. -/
def State.tryFlush (s : State) (x : Coordinator) : State :=
  match x.block with
  | none => s
  | some b =>
    if x.arrived.length = b.nrank ∨ (x.stage = .twilight ∧ b.quorum ≤ x.arrived.length) then s.flushCall x false else s

/-- R409: T + TIMEOUT has come. (DEDUCED, log 53.) -/
def State.timeoutCoord (s : State) (x : Coordinator) : State :=
  match x.block with
  | none => s
  | some b =>
    if x.stage = .open_ ∧ x.tstart + b.timeout ≤ s.tick then
      if b.quorum ≤ x.arrived.length then s.flushCall x false else s.putCoord { x with stage := .twilight }
    else s

/-- R409: every member started completes with ERR 1. -/
def State.expireCoord (s : State) (x : Coordinator) : State :=
  match x.block with
  | none => s
  | some b =>
    if x.stage = .twilight ∧ x.tstart + b.timeout + b.twilight ≤ s.tick then
      let s := s.putCoord { x with stage := .failed }
      s.failCalls 1 ((s.collGroup x.handle x.seq).filter fun y => y.2.running)
    else s

/-- TIMEOUT and TIMEOUT + TWILIGHT of a call, where its coordinator has accepted it. -/
def Coordinator.timeout (x : Coordinator) : Nat :=
  match x.block with
  | some b => b.timeout
  | none => 0
def Coordinator.limit (x : Coordinator) : Nat :=
  match x.block with
  | some b => b.timeout + b.twilight
  | none => 0

/-- The moments of R409 that have passed by now. -/
def State.settleCoord (s : State) (handle seq : Word32) : State :=
  let s := match s.coord? handle seq with
    | some x => if x.tstart + x.timeout < s.tick then s.timeoutCoord x else s
    | none => s
  match s.coord? handle seq with
  | some x =>
    if x.tstart + x.limit < s.tick then s.expireCoord x else s
  | none => s

/-- Whether a contribution's block agrees with the coordinator's. -/
def Arrived.ok (a : Arrived) (b : CollBlock) : Bool :=
  match a.block with
  | some c => c.agrees b
  | none => a.agrees

/-- R409: a refused member of this package completes with ERR 3. -/
def State.refuse (s : State) (handle seq : Word32) (rank : Nat) : State :=
  match s.collCall? handle seq rank with
  | some (k, c) => s.failCall k c 3
  | none => s

/-- R410: a late member is counted at the coordinator's master. -/
def State.countLate (s : State) (handle seq : Word32) : State :=
  match s.coord? handle seq with
  | some x =>
    if (x.block.map (·.fold)).getD false then
      s.modifyMaster x.cluster fun m => { m with lateFold := sat32 (m.lateFold + 1) }
    else s.modifyMaster x.cluster fun m => { m with lateDrop := sat32 (m.lateDrop + 1) }
  | none => s

/-- R409, R410: a contribution or start notice reaches a coordinator of this package. -/
def State.arriveAt (s0 : State) (handle seq : Word32) (a : Arrived) : State :=
  let s := s0.settleCoord handle seq
  if s.flushedPast handle seq then s.countLate handle seq
  else
    match s.coord? handle seq with
    | none => { s with coords := s.coords ++ [{ handle := handle, seq := seq, arrived := [a] }] }
    | some x =>
      if x.arrived.any (fun y => y.rank == a.rank) then s
      else
        match x.stage, x.block with
        | .held, _ => s.putCoord { x with arrived := x.arrived ++ [a] }
        | .failed, _ => s
        | .flushed, _ => s
        | _, none => s
        | _, some b =>
          if a.rank < b.nrank ∧ a.ok b then
            let x := { x with arrived := x.arrived ++ [a] }
            (s.putCoord x).tryFlush x
          else s.refuse handle seq a.rank

/-- R409: the coordinator accepts its own call: T. Contributions that it holds are judged now. -/
def State.openCoord (s : State) (k : Nat) (c : CollCall) : State :=
  let h := c.block.handle
  let old := match s.coord? h c.seq with
    | some x => x.arrived
    | none => []
  let good := old.filter fun a => a.rank < c.block.nrank && a.ok c.block
  let x : Coordinator :=
    { handle := h, seq := c.seq, stage := .open_, cluster := k, origin := some c.origin.launch, block := some c.block
      table := c.table, tstart := s.tick, arrived := good }
  let rest := s.coords.filter fun y => !(y.handle == h && y.seq == c.seq)
  let s := { s with coords := rest ++ [x] }
  let s := (old.filter fun a => !(a.rank < c.block.nrank && a.ok c.block)).foldl (fun s a => s.refuse h c.seq a.rank) s
  s.tryFlush x

/-- R405 step 6: the call is accepted by the master of a cluster, which has room. The result is its handle. (DEDUCED, log 47.) -/
def State.acceptColl (s : State) (o : Origin) (k : Nat) (b : CollBlock) (table : List Word32) : Word × State :=
  let m := s.master k
  let n := Tab.get 0 s.collSeqs b.handle.toNat
  let c : CollCall := { idx := m.accepted, origin := o, block := b, table := table, seq := BitVec.ofNat 32 n, since := s.tick }
  let s := { s with collSeqs := Tab.put 0 s.collSeqs b.handle.toNat (n + 1) }
  let s := s.setMaster k { m with
    mailbox := m.mailbox ++ [.call m.accepted]
    calls := m.calls ++ [c]
    accepted := m.accepted + 1
    records := Tab.put none m.records (m.accepted % 256) (some { idx := m.accepted, sid := o.sid }) }
  (collHandle k m.accepted, if b.rank = b.coord then s.openCoord k c else s)

/-! ## The steps of a call -/

/-- Whether a session of a partition is open. (DEDUCED, log 53.) -/
def State.sessionOpen (s : State) (part : Fin 16) (sess : BitVec 10) : Bool :=
  match Tab.get none s.sessions (part.val * 1024 + sess.toNat) with
  | some x => x.state == 2
  | none => false

/-- R420: whether a member can reach its coordinator. (DEDUCED, log 53.) -/
def State.reachable (s : State) (c : CollCall) : Bool :=
  let w := c.table.getD c.block.coord 0#32
  memberSess w == 0#10 || s.sessionOpen c.origin.launch.part (memberSess w)

/-- Whether an earlier call of the same member on the same handle has not completed (R408). -/
def State.memberBusy (s : State) (c : CollCall) : Bool :=
  s.collCalls.any fun x =>
    x.2.block.handle == c.block.handle && x.2.block.rank == c.block.rank && x.2.seq.toNat < c.seq.toNat

/-- R402: a call at the head of the mailbox starts, where a step context is free. -/
def collCallStart (k : Nat) (s : State) : State :=
  let m := s.master k
  match m.mailbox with
  | .call i :: rest =>
    match m.calls.find? (fun c => c.idx == i) with
    | none => s.setMaster k { m with mailbox := rest }
    | some c =>
      if 3 ≤ (m.calls.filter (·.running)).length ∨ s.memberBusy c then s
      else
        let s := s.setMaster k (({ m with mailbox := rest } : CollMaster).modifyRecord i fun r => { r with state := 1 })
        let c := { c with running := true }
        if s.reachable c = false then s.failCall k c 7
        else
          match s.contribute c with
          | .error _ => s.failCall k c 6
          | .ok (s, c) => s.putCall k c
  | _ => s

/-- R409, R410: `CONTRIBUTION_ARRIVAL`. A member of this package contributes what it has formed; `data` and `agrees` are
what another package sends. Where the coordinator is elsewhere, a disagreement is what it has found. (DEDUCED, log 47.) -/
def contributionArrival (handle seq : Word32) (rank : Nat) (agrees : Bool) (data : List Word32) (s : State) : State :=
  match s.collCall? handle seq rank with
  | none => s.arriveAt handle seq ⟨rank, none, agrees, data⟩
  | some (k, c) =>
    match c.formed with
    | none => s
    | some f =>
      if s.coordHere c then
        if c.arrived then s
        else (s.putCall k { c with arrived := true }).arriveAt handle seq ⟨rank, some c.block, agrees, f.sent⟩
      else if agrees then s
      else s.failCall k c 3

/-- `COLL_TIMEOUT` (R409). -/
def collTimeout (handle seq : Word32) (s : State) : State :=
  match s.coord? handle seq with
  | some x => s.timeoutCoord x
  | none => s

/-- `TWILIGHT_EXPIRY` (R409), at the coordinator, or as a coordinator of another package tells its members. -/
def twilightExpiry (handle seq : Word32) (s : State) : State :=
  match s.coord? handle seq with
  | some x => s.expireCoord x
  | none => s.failCalls 1 ((s.collGroup handle seq).filter fun y => y.2.running && !s.coordHere y.2)

/-- The data that a flushed call holds for a rank: DST's elements before rounding, zero where a block was lost. -/
def Coordinator.dataFor (x : Coordinator) (b : CollBlock) (rank : Nat) : List Word32 :=
  let of (r : Nat) : List Word32 :=
    match x.arrived.find? (fun a => a.rank == r) with
    | some a => a.data
    | none => []
  let block (i : Nat) (l : List Word32) : List Word32 := (List.range b.count).map fun j => l.getD (i * b.count + j) 0#32
  if b.op = 0 then x.reduced
  else if b.op = 1 then block rank x.reduced
  else if b.op = 2 then (List.range b.nrank).flatMap fun r => block 0 (of r)
  else if b.op = 3 then block 0 (of b.root)
  else (List.range b.nrank).flatMap fun r => block rank (of r)

/-- The transmissions of a result: each run is quantised as often as it is forwarded (R411). -/
def State.transmit (s : State) (b : CollBlock) : List (List Word32) → List Word32 × State
  | [] => ([], s)
  | r :: rs =>
    let d := s.draw
    let q := d.2.transmit b rs
    (requant b.cfmt (b.hops d.1) r ++ q.1, q.2)

/-- What a flush sends to a member of this package. -/
def State.resultFor (s : State) (x : Coordinator) (b : CollBlock) (rank : Nat) : CollResult × State :=
  let xs := x.dataFor b rank
  let r := if b.cfmt = tNone then (xs, s) else s.transmit b (b.runs xs)
  ({ present := x.arrived.map (·.rank), tstart := BitVec.ofNat 64 x.tstart, tflush := BitVec.ofNat 64 x.tflush
     twilight := x.twilight, byRequest := x.byRequest, data := r.1 }, r.2)

/-- R409: the result of a call for a member: from the coordinator of this package once it has flushed, or as a
coordinator of another package sends it through the domain or an open session. -/
def State.resultOf (s : State) (c : CollCall) (res : CollResult) : Option (CollResult × State) :=
  if s.coordHere c then
    match s.coord? c.block.handle c.seq with
    | some x => if x.stage = .flushed then some (s.resultFor x c.block c.block.rank) else none
    | none => none
  else if s.reachable c then some (res, s)
  else none

/-- How a call with a result ends, without its error. -/
def endingOf (r : CollResult) (err : Nat) : CollEnd :=
  { err := err, present := r.present, twilight := r.twilight, byRequest := r.byRequest
    tstart := r.tstart.toNat, tflush := r.tflush.toNat }

/-- R408: the blocks of DST that a result writes, as addresses and bytes. -/
def CollBlock.dstBlocks (b : CollBlock) (r : CollResult) : List (Word × List Byte) :=
  let bytes (i : Nat) : List Byte :=
    elemsBytes b.esize ((List.range b.count).map fun j => narrow b.fmt (r.data.getD (i * b.count + j) 0#32))
  if b.op = 2 ∨ b.op = 4 then
    (r.present.filter (· < b.nrank)).map fun i => (b.dst + BitVec.ofNat 64 (i * b.count * b.esize), bytes i)
  else [(b.dst, bytes 0)]

/-- Writes blocks of bytes in turn; the result has the largest stamp. (DESIGN CHOICE, log 108.) -/
def State.writeBlocks (s : State) (o : Origin) : List (Word × List Byte) → Except NoPlace (State × Nat)
  | [] => .ok (s, 0)
  | x :: r =>
    match s.engineStoreBytes o x.1 x.2 with
    | .error e => .error e
    | .ok (s, t) =>
      match s.writeBlocks o r with
      | .error e => .error e
      | .ok (s, u) => .ok (s, max t u)

/-- R410: a late member's call ends. -/
def State.endLate (s : State) (k : Nat) (c : CollCall) (r : CollResult) : State :=
  let s := if s.coordHere c && !c.arrived then s.countLate c.block.handle c.seq else s
  let xs := match c.formed with
    | some f => if c.block.fold then f.c else f.old
    | none => []
  let e : CollEnd := { endingOf r 5 with folded := c.block.fold, dropped := !c.block.fold }
  match (if c.formed.isSome then s.writeResidual c xs else .ok (s, 0)) with
  | .error _ => s.endCall k c { e with err := 6 }
  | .ok (s, t) => s.endCall k { c with stamp := max c.stamp t } e

/-- R409, R411: a present member's call ends. -/
def State.endPresent (s : State) (k : Nat) (c : CollCall) (r : CollResult) : State :=
  match s.writeBlocks c.origin (c.block.dstBlocks r) with
  | .error _ => s.endCall k c (endingOf r 6)
  | .ok (s, t) => s.endCall k { c with stamp := max c.stamp t } (endingOf r 0)

/-- R409: whether a member has waited longer for a result than it may: a result that arrives now is discarded. -/
def CollCall.overdue (c : CollCall) (tick : Nat) : Bool := c.since + 2 * c.block.timeout + c.block.twilight < tick

/-- `COLL_RESULT_ARRIVAL` (R409). -/
def collResultArrival (handle seq : Word32) (rank : Nat) (res : CollResult) (s : State) : State :=
  match s.collCall? handle seq rank with
  | none => s
  | some (k, c) =>
    if c.formed.isNone then s
    else if c.overdue s.tick then s.failCall k c 2
    else
      match s.resultOf c res with
      | none => s
      | some (r, s) => if r.present.contains rank then s.endPresent k c r else s.endLate k c r

/-- `LATE_MEMBER` (R410). -/
def lateMember (handle seq : Word32) (rank : Nat) (res : CollResult) (s : State) : State :=
  match s.collCall? handle seq rank with
  | none => s
  | some (k, c) =>
    if c.formed.isNone then s
    else if c.overdue s.tick then s.failCall k c 2
    else
      match s.resultOf c res with
      | none => s
      | some (r, s) => if r.present.contains rank then s else s.endLate k c r

/-- `COORDINATOR_LOST` (R409). -/
def coordinatorLost (handle seq : Word32) (rank : Nat) (s : State) : State :=
  match s.collCall? handle seq rank with
  | none => s
  | some (k, c) =>
    if c.since + 2 * c.block.timeout + c.block.twilight ≤ s.tick then s.failCall k c 2 else s

/-- R409: a FLUSH request at the coordinator. -/
def State.applyFlush (s : State) (handle seq : Word32) : State :=
  match s.coord? handle seq with
  | some x =>
    if (x.stage = .open_ ∨ x.stage = .twilight) ∧ ((x.block.map (·.quorum)).getD 0) ≤ x.arrived.length then
      s.flushCall x true
    else s
  | none => s

/-- R414: every member of a call that has not completed completes with ERR 8. -/
def State.applyCancel (s : State) (handle seq : Word32) : State :=
  let l := s.collGroup handle seq
  let s := match s.coord? handle seq with
    | some x => if x.stage = CollStage.flushed then s else s.putCoord { x with stage := .failed }
    | none => s
  s.failCalls 8 l

/-- The call that a request of a mailbox names, if it has not completed (R414). -/
def CollMaster.liveCall (m : CollMaster) (call : BitVec 16) : Option CollCall :=
  match m.named call with
  | some r => m.calls.find? fun c => c.idx == r.idx
  | none => none

/-- Whether a mailbox entry is a request about a call. (DEDUCED, log 54.) -/
def CollMaster.asks (m : CollMaster) (handle seq : Word32) (flush : Bool) (e : MailEntry) : Bool :=
  let names (call : BitVec 16) : Bool :=
    match m.liveCall call with
    | some c => c.block.handle == handle && c.seq == seq
    | none => false
  match e with
  | .flush call => flush && names call
  | .cancel call => !flush && names call
  | _ => false

/-- Takes a request from the head of a mailbox, where one stands there. -/
def State.takeMail (s : State) (p : CollMaster → MailEntry → Bool) : State :=
  match s.masters.find? (fun (x : Nat × CollMaster) => match x.2.mailbox with | e :: _ => p x.2 e | [] => false) with
  | some (k, m) => s.setMaster k { m with mailbox := m.mailbox.tail }
  | none => s

/-- `FLUSH` (R414). -/
def flushRequest (handle seq : Word32) (s : State) : State :=
  (s.takeMail fun m e => m.asks handle seq true e).applyFlush handle seq
/-- `CANCEL` (R414). -/
def cancelRequest (handle seq : Word32) (s : State) : State :=
  (s.takeMail fun m e => m.asks handle seq false e).applyCancel handle seq

/-! ## Kills and lost sessions -/

/-- R412, R376: the calls of a killed context complete with ERR 4; its status records are not written, since its writes
are rejected. To the others a killed member is lost, and so is a coordinator that is killed. -/
def State.killColls (s : State) (mine : LaunchRef → Bool) : State :=
  let dead := s.collCalls.filter fun x => mine x.2.origin.launch
  let s := dead.foldl (fun s x => s.modifyMaster x.1 fun m => m.close x.2.idx { err := 4 } x.2.block.nrank x.2.stamp) s
  let lost (x : Coordinator) (a : Arrived) : Bool :=
    dead.any fun d => d.2.block.handle == x.handle && d.2.seq == x.seq && d.2.block.rank == a.rank
  let kept := s.coords.filter fun (x : Coordinator) => x.stage == .flushed || !((x.origin.map mine).getD false)
  { s with coords := kept.map fun (x : Coordinator) =>
      if x.stage = .flushed then x else { x with arrived := x.arrived.filter fun a => !lost x a } }

/-- R420: a session of a partition is lost: its members are lost to coordinators that have not flushed, and members of
this package that reach their coordinator through it complete with ERR 7. -/
def State.loseSession (s : State) (part : Fin 16) (sess : BitVec 10) : State :=
  let mine (l : LaunchRef) : Bool := l.part == part
  let s := { s with coords := s.coords.map fun (x : Coordinator) =>
    if x.stage = CollStage.flushed ∨ (x.origin.map mine).getD false = false then x
    else { x with arrived := x.arrived.filter fun a => memberSess (x.table.getD a.rank 0#32) != sess } }
  s.failCalls 7 (s.collCalls.filter fun x =>
    mine x.2.origin.launch && x.2.running && memberSess (x.2.table.getD x.2.block.coord 0#32) == sess)

end Sys2Proof.Machine
end

