-- ==== Sys2Proof/Machine/Sessions.lean ====
section
/-! DEFINITION. Zhomer sessions (R416 to R420): entries, handshakes, datagrams and keys. -/

namespace Sys2Proof.Machine

def sessionIdx (part : Fin 16) (sess : BitVec 10) : Nat := part.val * 1024 + sess.toNat
def State.session? (s : State) (part : Fin 16) (sess : BitVec 10) : Option Session :=
  Tab.get none s.sessions (sessionIdx part sess)
def State.setSession (s : State) (part : Fin 16) (sess : BitVec 10) (x : Option Session) : State :=
  { s with sessions := Tab.put none s.sessions (sessionIdx part sess) x }

/-- The bytes from an offset on. -/
def cutBytes (bs : List Byte) (off n : Nat) : List Byte := (bs.drop off).take n
/-- A little-endian field of bytes. -/
def fieldOf (bs : List Byte) (off n : Nat) : Nat := leNat (cutBytes bs off n)
/-- Whether the bytes of a range are zero. -/
def zeroField (bs : List Byte) (off n : Nat) : Bool := fieldOf bs off n == 0

/-! ## Entries (R417) -/

def entrySess (e : List Byte) : Nat := fieldOf e 0 2
def entryPort (e : List Byte) : Nat := fieldOf e 2 1
/-- R417: whether an entry of a partition is well formed. -/
def State.entryOk (s : State) (part : Fin 16) (e : List Byte) : Bool :=
  e.length == 128 && 1 ≤ entrySess e && entrySess e ≤ 1023 && (s.part part).ownsPort (entryPort e) && zeroField e 3 1 &&
    1 ≤ fieldOf e 4 4 && fieldOf e 4 4 ≤ 800000 && fieldOf e 0x1C 2 < 4096 && zeroField e 0x1E 2 && zeroField e 0x26 26 &&
    zeroField e 0x60 32

/-- A number from bytes, the first the most significant, as addresses are compared. -/
def beNat (bs : List Byte) : Nat := bs.foldl (fun n b => 256 * n + b.toNat) 0

/-- The IPv6 address of a port. -/
def State.portIp (s : State) (port : Nat) : Nat :=
  (Tab.get 0#64 s.portAddrs (4 * port + 2)).toNat * 2 ^ 64 + (Tab.get 0#64 s.portAddrs (4 * port + 1)).toNat

/-- R418: whether this side initiates: its address and UDP port are the lower. -/
def State.initiates (s : State) (e : List Byte) : Bool :=
  let ours := s.portIp (entryPort e) * 65536 + fieldOf e 0x1A 2
  let theirs := beNat (cutBytes e 8 16) * 65536 + fieldOf e 0x18 2
  ours < theirs

/-! ## The ends of sessions -/

/-- The keys and the handshake of a session are destroyed. -/
def Session.wiped (x : Session) : Session :=
  { x with transcript := [], secret := [], keysOut := none, receiving := none, nextIn := none, oldIn := none, unacked := [] }

/-- R418, R420: a session fails. -/
def State.failSession (s : State) (part : Fin 16) (sess : BitVec 10) : State :=
  match s.session? part sess with
  | some x => (s.setSession part sess (some { x.wiped with state := 3 })).loseSession part sess
  | none => s

/-- `CLOSE_SESSION` without the mailbox (R420). -/
def State.endSession (s : State) (part : Fin 16) (sess : BitVec 10) : State :=
  match s.session? part sess with
  | some _ => (s.setSession part sess none).loseSession part sess
  | none => s

/-- R420: a partition leaves RUNNING, or a warm reset: every session of the partitions named is closed. (DEDUCED, log 55.) -/
def State.endSessions (s : State) (p : Nat → Bool) : State :=
  let l := (s.sessions.map (·.1)).filter fun i => p (i / 1024)
  l.foldl (fun s i => if h : i / 1024 < 16 then s.endSession ⟨i / 1024, h⟩ (BitVec.ofNat 10 (i % 1024)) else s) s

/-! ## Handshakes (R418) -/

/-- The seed of IDK (R386). -/
def idkSeed : List Byte := Config.shake256 32 (Config.uds ++ [0x49#8, 0x44#8, 0x4B#8])
def idkPublic : List Byte := Config.falconPublic idkSeed

/-- The lengths of an encapsulation key, a ciphertext, a nonce and a Falcon-1024 public key (R387, R418). -/
def kemBytes : Nat := 1568
def nonceBytes : Nat := 32
def falconBytes : Nat := 1793
/-- Where the signature of INIT and of RESP starts. -/
def signedBytes : Nat := kemBytes + nonceBytes + falconBytes

/-- R418: a message of the peer: its public key hashes to PEERKEY, and its signature verifies over `m`. -/
def peerOk (entry msg m : List Byte) : Bool :=
  let pk := cutBytes msg (kemBytes + nonceBytes) falconBytes
  Config.shake256 32 pk == cutBytes entry 0x40 32 && Config.falconVerify pk (Config.shake256 32 m) (msg.drop signedBytes)

/-- A message of this side: what it carries, its nonce, its public key, and a signature over the transcript so far. -/
def ownMessage (before carried nonce : List Byte) : List Byte :=
  let m := carried ++ nonce ++ idkPublic
  m ++ Config.falconSign idkSeed (Config.shake256 32 (before ++ m))

/-- The keys of a direction, of a shared secret and a transcript. -/
def keysOf (secret transcript : List Byte) (fromInitiator : Bool) : SessionKey :=
  let b := Config.sessionKey (Config.shake256 72 (secret ++ Config.shake256 32 transcript)) fromInitiator
  ⟨b.extractLsb' 0 256, b.extractLsb' 256 32⟩

/-- R418 steps 3 and 4. -/
def Session.opened (x : Session) (secret transcript : List Byte) (tick : Nat) : Session :=
  { x with
    state := 2, transcript := [], secret := []
    keysOut := some (keysOf secret transcript x.initiator)
    receiving := some { keys := keysOf secret transcript (!x.initiator) }
    keyed := tick, pnOut := 0, phaseOut := false, phaseIn := false }

/-- R414, R417, R418: a request to open a session. -/
def State.openNow (s : State) (part : Fin 16) (e : List Byte) : State :=
  if entrySess e < 1 ∨ 1023 < entrySess e then s
  else
    let n := BitVec.ofNat 10 (entrySess e)
    let old := s.session? part n
    let busy := match old with
      | some x => x.state == 1 || x.state == 2
      | none => false
    if busy then s.failSession part n
    else if s.entryOk part e = false then s.setSession part n (some { state := 3, entry := e })
    else
      let d := s.draw
      let r := d.2.draw
      let x : Session := { state := 1, entry := e, initiator := s.initiates e, since := s.tick, rid := BitVec.ofNat 32 r.1 }
      let x := if x.initiator then
          { x with
            transcript := ownMessage [] (Config.kemEncapsKey d.1) (Config.entropy d.1 nonceBytes)
            secret := Config.kemDecapsKey d.1, sent := 1 }
        else x
      r.2.setSession part n (some x)

/-- `OPEN_SESSION` (R418). (DEDUCED, log 55.) -/
def openSession (part : Fin 16) (entry : List Byte) (s : State) : State :=
  (s.takeMail fun _ e => e == .openSession part entry).openNow part entry
/-- `CLOSE_SESSION` (R420). -/
def closeSession (part : Fin 16) (sess : BitVec 10) (s : State) : State :=
  (s.takeMail fun _ e => e == .closeSession part sess).endSession part sess

/-- R418: whether the time of a handshake is over. -/
def Session.expired (x : Session) (tick : Nat) : Bool := x.since + 10000000 < tick

/-- `HANDSHAKE_INIT` (R418): the responder checks INIT and sends RESP, with which it has the keys. (DEDUCED, log 55.) -/
def handshakeInit (part : Fin 16) (sess : BitVec 10) (msg : List Byte) (s : State) : State :=
  match s.session? part sess with
  | none => s
  | some x =>
    if x.state ≠ 1 ∨ x.initiator then s
    else if x.expired s.tick || !peerOk x.entry msg (msg.take signedBytes) then s.failSession part sess
    else
      let d := s.draw
      let r := d.2.draw
      let ek := msg.take kemBytes
      let t := msg ++ ownMessage msg (Config.kemCiphertext ek d.1) (Config.entropy d.1 nonceBytes)
      let x := ({ x with sent := x.sent + 1, peerRid := BitVec.ofNat 32 r.1 } : Session).opened
        (Config.kemSecret ek d.1) t s.tick
      r.2.setSession part sess (some x)

/-- `HANDSHAKE_RESP` (R418): the initiator checks RESP and opens the session. (DEDUCED, log 55.) -/
def handshakeResp (part : Fin 16) (sess : BitVec 10) (msg : List Byte) (s : State) : State :=
  match s.session? part sess with
  | none => s
  | some x =>
    if x.state ≠ 1 ∨ x.initiator = false then s
    else if x.expired s.tick || !peerOk x.entry msg (x.transcript ++ msg.take signedBytes) then s.failSession part sess
    else
      let r := s.draw
      let x := ({ x with peerRid := BitVec.ofNat 32 r.1 } : Session).opened
        (Config.kemDecaps x.secret (msg.take kemBytes)) (x.transcript ++ msg) s.tick
      r.2.setSession part sess (some x)

/-- `HANDSHAKE_TIMEOUT` (R418). -/
def handshakeTimeout (part : Fin 16) (sess : BitVec 10) (s : State) : State :=
  match s.session? part sess with
  | none => s
  | some x => if x.state = 1 ∧ x.since + 10000000 ≤ s.tick then s.failSession part sess else s

/-! ## Datagrams (R419) -/

/-- R419: whether a packet number is refused by the replay window. -/
def Receiving.refuses (r : Receiving) (pn : Nat) : Bool :=
  match r.high with
  | none => false
  | some h => pn + 1024 < h || r.seen.contains pn
/-- A packet number is received. -/
def Receiving.note (r : Receiving) (pn : Nat) : Receiving :=
  let h := match r.high with
    | some h => max h pn
    | none => pn
  { r with high := some h, seen := pn :: r.seen.filter fun x => h ≤ x + 1024 }

/-- The body that a receiver's keys authenticate (R419). -/
def Receiving.open (r : Receiving) (d : List Byte) : Option (List Byte) :=
  let pn := fieldOf d 8 8
  Config.gcmOpen r.keys.key (r.keys.salt ++ BitVec.ofNat 64 pn) (d.take 16) (d.drop 16)

/-- The keys under which a datagram of a key phase is checked, with the session as it stands once one has authenticated. -/
def Session.receivers (x : Session) (phase : Bool) (tick : Nat) : List (Receiving × (Receiving → Session)) :=
  let now := match x.receiving with
    | some r => if phase = x.phaseIn then [(r, fun r => { x with receiving := some r })] else []
    | none => []
  let next := match x.nextIn with
    | some k => if phase ≠ x.phaseIn then
        [(({ keys := k } : Receiving), fun r =>
          { x with phaseIn := phase, receiving := some r, nextIn := none, oldIn := x.receiving.map fun o => (o, tick) })]
      else []
    | none => []
  let old := match x.oldIn with
    | some (r, t) => if phase ≠ x.phaseIn ∧ tick ≤ t + 1000000 then
        [(r, fun r => { x with oldIn := some (r, t) })] else []
    | none => []
  now ++ next ++ old

/-- What an authenticated datagram does. A rekey message is signed as the handshake's are (R420). -/
def State.takeBody (s : State) (part : Fin 16) (sess : BitVec 10) (x : Session) (kind : Nat) (body : List Byte) : State :=
  match kind with
  | 0 => s.setSession part sess (some { x with sent := x.sent + 1 })
  | 1 => s.setSession part sess (some { x with unacked := x.unacked.filter fun u => !Config.acknowledges body u.1 })
  | 3 =>
    if peerOk x.entry body (body.take signedBytes) = false then (s.setSession part sess (some x)).failSession part sess else
    let d := s.draw
    let k := keysOf (Config.kemSecret (body.take kemBytes) d.1) body (!x.initiator)
    d.2.setSession part sess (some { x with nextIn := some k, sent := x.sent + 1 })
  | 4 => (s.setSession part sess (some x)).endSession part sess
  | _ => s.setSession part sess (some x)

/-- `ZHOMER_DATAGRAM` (R419). (DESIGN CHOICE, log 56.) -/
def zhomerDatagram (part : Fin 16) (sess : BitVec 10) (dgram : List Byte) (s : State) : State :=
  match s.session? part sess with
  | none => s
  | some x =>
    let vt := fieldOf dgram 0 1
    if x.state ≠ 2 ∨ vt / 16 ≠ 1 ∨ zeroField dgram 1 3 = false ∨ fieldOf dgram 4 4 ≠ x.rid.toNat ∨ dgram.length < 32 ∨
        16 + 8192 + 16 < dgram.length then s
    else
      let good := (x.receivers (vt / 8 % 2 == 1) s.tick).findSome? fun r =>
        match r.1.open dgram with
        | some body => some (r.1, r.2, body)
        | none => none
      match good with
      | none => s.setSession part sess (some { x with dropped := sat32 (x.dropped + 1) })
      | some (r, f, body) =>
        if r.refuses (fieldOf dgram 8 8) then s.setSession part sess (some { x with dropped := sat32 (x.dropped + 1) })
        else s.takeBody part sess (f (r.note (fieldOf dgram 8 8))) (vt % 8) body

/-- R419: the packets of a call's transfer to a peer go out; the spec does not say how many there are. (DESIGN CHOICE, log 56.) -/
def State.sendOver (s : State) (part : Fin 16) (sess : BitVec 10) (handle seq : Word32) : State :=
  match s.session? part sess with
  | none => s
  | some x =>
    let d := s.draw
    let n := d.1 + 1
    let x := { x with
      pnOut := x.pnOut + n, sent := sat32 (x.sent + n)
      unacked := x.unacked ++ (List.range n).map fun i => (x.pnOut + i, handle, seq) }
    d.2.setSession part sess (some x)

/-- Whether the call that a packet serves has not flushed or completed. -/
def State.callLive (s : State) (handle seq : Word32) : Bool :=
  !(s.collGroup handle seq).isEmpty ||
    (match s.coord? handle seq with
    | some x => x.stage != .flushed && x.stage != .failed
    | none => false)

/-- `ZHOMER_RETRANSMIT` (R419). (DESIGN CHOICE, log 56.) -/
def zhomerRetransmit (part : Fin 16) (sess : BitVec 10) (s : State) : State :=
  match s.session? part sess with
  | none => s
  | some x =>
    if x.state ≠ 2 then s
    else
      let l := x.unacked.filter fun u => s.callLive u.2.1 u.2.2
      s.setSession part sess (some { x with unacked := l, sent := if l.isEmpty then x.sent else sat32 (x.sent + 1) })

/-- `REKEY` (R420): this side's direction. -/
def rekey (part : Fin 16) (sess : BitVec 10) (s : State) : State :=
  match s.session? part sess with
  | none => s
  | some x =>
    if x.state = 2 ∧ (2 ^ 32 ≤ x.pnOut ∨ x.keyed + 3600000000 ≤ s.tick) then
      let d := s.draw
      let ek := Config.kemEncapsKey d.1
      d.2.setSession part sess (some { x with
        keysOut := some (keysOf (Config.kemSecret ek d.1) ek x.initiator), phaseOut := !x.phaseOut, pnOut := 0
        keyed := s.tick, rekeys := sat32 (x.rekeys + 1) })
    else s

/-- `OLD_KEY_EXPIRY` (R420). -/
def oldKeyExpiry (part : Fin 16) (sess : BitVec 10) (s : State) : State :=
  match s.session? part sess with
  | none => s
  | some x =>
    match x.oldIn with
    | some (_, t) => if t + 1000000 ≤ s.tick then s.setSession part sess (some { x with oldIn := none }) else s
    | none => s

/-- `NON_ZHOMER_FRAME` (R416): the management plane, which is no part of the package's state, receives the frame. (DEDUCED, log 45.) -/
def nonZhomerFrame (_port : Fin 4) (_frame : List Byte) (s : State) : State := s

end Sys2Proof.Machine
end

