-- ==== Sys2Proof/Machine/Collectives.lean ====
section
/-! DEFINITION. The collective instructions, major 0x3C (R403 to R415), and the events of collectives and sessions. -/

namespace Sys2Proof.Machine

/-! ## Instructions -/

/-- `COLL` (R405). -/
def execColl (x pb : Reg) (s : State) : Result :=
  .next (s.command pb fun v c =>
    match s.collBlock strandLoader s.bad s.myCluster v with
    | .error e => s.stopAt e
    | .ok (b, table, s1) =>
      match s1.collExtents s.origin b with
      | some t => s.trap t
      | none =>
        if 8 ≤ (s1.master s.myCluster).mailbox.length then s.block
        else
          match c.writeReg .access 0 0 x 0#64 with
          | .error q => s.hold q
          | .ok _ =>
            let r := s1.acceptColl s.origin s.myCluster b table
            match (r.2.me.ctx.dropSq (popsOf [pb])).writeReg .access 0 0 x r.1 with
            | .error q => s.hold q
            | .ok c => r.2.done c)

/-- R406: a handle that the strand may name. -/
def State.collHandleOk (s : State) (h : Word) : Bool :=
  h.extractLsb' 24 40 == 0#40 && (h.extractLsb' 16 8).toNat < 192 &&
    s.ownerOfCluster (h.extractLsb' 16 8).toNat == some s.me.launch.part

/-- R404: the record that a handle names. -/
def State.collRecord (s : State) (h : Word) : Option CollRecord :=
  (s.master (h.extractLsb' 16 8).toNat).named (h.extractLsb' 0 16)

/-- R404: the status word. -/
def collStatus (h : Word) (r : Option CollRecord) : Word :=
  match r with
  | none => 3#2 ++ 0#46 ++ h.extractLsb' 0 16
  | some r =>
    BitVec.ofNat 2 r.state ++ BitVec.ofNat 4 r.err ++ BitVec.ofBool r.delivered ++ 0#9 ++ BitVec.ofNat 16 r.present ++
      BitVec.ofNat 16 r.lost ++ h.extractLsb' 0 16

/-- Whether a wait on a call is over (R406). -/
def State.collOver (s : State) (h : Word) : Bool :=
  match s.collRecord h with
  | some r => r.state == 2
  | none => true

/-- R406: whether a wait takes EngineError. -/
def State.collError (s : State) (h : Word) : Bool :=
  match s.collRecord h with
  | some r => r.state == 2 && r.err != 0 && r.err != 5 && !r.delivered && r.sid == s.me.sid
  | none => false

def State.deliverColl (s : State) (h : Word) : State :=
  match s.collRecord h with
  | some r => s.modifyMaster (h.extractLsb' 16 8).toNat fun m => m.modifyRecord r.idx fun x => { x with delivered := true }
  | none => s

/-- `COLLW` (R406). -/
def execCollw (h : Reg) (s : State) : Result :=
  .next (s.command h fun v c =>
    if s.collHandleOk v = false then s.trap s.bad
    else if s.collOver v = false then s.park (.coll v)
    else if s.collError v then (s.deliverColl v).trap ⟨.engineError, v⟩
    else (s.raiseTs (((s.collRecord v).map (·.stamp)).getD 0)).done c)

/-- `COLLST` (R406). -/
def execCollst (x h : Reg) (s : State) : Result :=
  .next (s.command h fun v c =>
    if s.collHandleOk v = false then s.trap s.bad
    else s.attempt (c.writeReg .access 0 0 x (collStatus v (s.collRecord v))))

/-- R414: a request enters the mailbox of a cluster where it has room. (DEDUCED, log 54.) -/
def State.putMail (s : State) (k : Nat) (e : MailEntry) (c : Context) (pd : BitVec 4) : State :=
  let m := s.master k
  if 8 ≤ m.mailbox.length then s.ansPred c pd false
  else (s.setMaster k { m with mailbox := m.mailbox ++ [e] }).ansPred c pd true

/-- The context of the strand in turn without the operand that a request popped. -/
def State.popped (s : State) (w : Reg) : Context := s.me.ctx.dropSq (popsOf [w])

/-- `MBPUT` (R414). -/
def execMbput (pd : BitVec 4) (w : Reg) (s : State) : Result :=
  .next (s.command w fun v c =>
    let kind := (v.extractLsb' 56 8).toNat
    let call := v.extractLsb' 0 16
    let h : Word := v.extractLsb' 0 24 |>.setWidth 64
    let va : Word := (v.extractLsb' 0 48).signExtend 64
    if kind = 0 ∨ kind = 1 then
      if v.extractLsb' 24 32 ≠ 0#32 ∨ s.collHandleOk h = false then s.trap s.bad
      else s.putMail (h.extractLsb' 16 8).toNat (if kind = 0 then .flush call else .cancel call) c pd
    else if kind = 2 then
      if v.extractLsb' 48 8 ≠ 0#8 ∨ v.extractLsb' 0 7 ≠ 0#7 then s.trap s.bad
      else
        match s.plainLoads va 8 16 with
        | .error e => s.stopAt e
        | .ok (ws, s1) => s1.putMail s.myCluster (.openSession s.me.launch.part (ws.flatMap (bytesOf 8))) (s1.popped w) pd
    else if kind = 3 then
      if v.extractLsb' 10 46 ≠ 0#46 ∨ v.extractLsb' 0 10 = 0#10 then s.trap s.bad
      else s.putMail s.myCluster (.closeSession s.me.launch.part (v.extractLsb' 0 10)) c pd
    else s.trap s.bad)

/-- R415: an item of a master, a lane, the package or a session; nothing where the partition does not own it or the table
does not list it. (DEDUCED, log 54.) -/
def State.mbItem (s : State) (item index : Nat) : Option Nat :=
  let part := s.me.launch.part
  let m := s.master index
  let cluster (n : Nat) : Option Nat := if index < 192 ∧ s.ownerOfCluster index = some part then some n else none
  let lane (i : Nat) : Option Nat :=
    if (s.part part).ownsLane index then some (Tab.get 0 s.laneCounts (4 * index + i)) else none
  let package (n : Nat) : Option Nat := if index = 0 then some n else none
  let session (f : Session → Nat) : Option Nat :=
    if 1 ≤ index ∧ index ≤ 1023 then
      match s.session? part (BitVec.ofNat 10 index) with
      | some x => some (f x)
      | none => some 0
    else none
  match item with
  | 0x00 => cluster m.mailbox.length
  | 0x01 => cluster (m.calls.filter (·.running)).length
  | 0x02 => cluster m.lateDrop
  | 0x03 => cluster m.lateFold
  | 0x04 => cluster m.lostMembers
  | 0x10 => lane 0
  | 0x11 => lane 1
  | 0x12 => lane 2
  | 0x13 => package s.remTimeout
  | 0x14 => package s.remDeny
  | 0x20 => session (·.state)
  | 0x21 => session (·.sent)
  | 0x22 => session (·.dropped)
  | 0x23 => session (·.rekeys)
  | _ => none

/-- `MBGET` (R415). -/
def execMbget (x which : Reg) (s : State) : Result :=
  .next (s.command which fun v c =>
    if v.extractLsb' 24 40 ≠ 0#40 then s.trap s.bad
    else
      match s.mbItem (v.extractLsb' 0 8).toNat (v.extractLsb' 8 16).toNat with
      | none => s.trap s.bad
      | some n => s.attempt (c.writeReg .access 0 0 x (BitVec.ofNat 64 (min n 0xFFFFFFFF))))

/-! ## Events -/

/-- The ranks of a coordinator's members that a session joins. -/
def Coordinator.remote (x : Coordinator) : List (BitVec 10) := (x.table.map memberSess).filter (· != 0#10)

/-- R419: what a step of collectives sends through sessions: the results of the calls that it flushed. -/
def State.withSends (s : State) (f : State → State) : State :=
  let t := f s
  let fresh := t.coords.filter fun (x : Coordinator) =>
    x.stage == .flushed && !(s.coords.any fun y => y.handle == x.handle && y.seq == x.seq && y.stage == .flushed)
  fresh.foldl (fun t (x : Coordinator) =>
    match x.origin with
    | some l => x.remote.foldl (fun t n => t.sendOver l.part n x.handle x.seq) t
    | none => t) t

/-- `COLL_CALL_START` (R402, R411): a contribution that a session carries goes out. -/
def startCall (k : Nat) (s : State) : State :=
  let head := match (s.master k).mailbox with
    | .call i :: _ => (s.master k).calls.find? fun (c : CollCall) => c.idx == i
    | _ => none
  let t := collCallStart k s
  match head with
  | none => t
  | some c =>
    let n := memberSess (c.table.getD c.block.coord 0#32)
    match t.collCall? c.block.handle c.seq c.block.rank with
    | some (_, d) =>
      if n ≠ 0#10 ∧ c.formed.isNone ∧ d.formed.isSome then t.sendOver c.origin.launch.part n c.block.handle c.seq else t
    | none => t

/-- `COLL_CALL_START` (R402). -/
def execCollCallStart (cluster : Nat) (s : State) : Result := .next (startCall cluster s)
/-- `CONTRIBUTION_ARRIVAL` (R409). -/
def execContributionArrival (handle seq : Word32) (rank : Nat) (agrees : Bool) (data : List Word32) (s : State) : Result :=
  .next (s.withSends (contributionArrival handle seq rank agrees data))
/-- `COLL_TIMEOUT` (R409). -/
def execCollTimeout (handle seq : Word32) (s : State) : Result := .next (s.withSends (collTimeout handle seq))
/-- `TWILIGHT_EXPIRY` (R409). -/
def execTwilightExpiry (handle seq : Word32) (s : State) : Result := .next (twilightExpiry handle seq s)
/-- `COLL_RESULT_ARRIVAL` (R409). -/
def execCollResultArrival (handle seq : Word32) (rank : Nat) (res : CollResult) (s : State) : Result :=
  .next (collResultArrival handle seq rank res s)
/-- `COORDINATOR_LOST` (R409). -/
def execCoordinatorLost (handle seq : Word32) (rank : Nat) (s : State) : Result := .next (coordinatorLost handle seq rank s)
/-- `LATE_MEMBER` (R410). -/
def execLateMember (handle seq : Word32) (rank : Nat) (res : CollResult) (s : State) : Result :=
  .next (lateMember handle seq rank res s)
/-- `FLUSH` (R414). -/
def execFlush (handle seq : Word32) (s : State) : Result := .next (s.withSends (flushRequest handle seq))
/-- `CANCEL` (R414). -/
def execCancel (handle seq : Word32) (s : State) : Result := .next (cancelRequest handle seq s)
/-- `OPEN_SESSION` (R418). -/
def execOpenSession (part : Fin 16) (entry : List Byte) (s : State) : Result := .next (openSession part entry s)
/-- `CLOSE_SESSION` (R420). -/
def execCloseSession (part : Fin 16) (sess : BitVec 10) (s : State) : Result := .next (closeSession part sess s)
/-- `HANDSHAKE_INIT` (R418). -/
def execHandshakeInit (part : Fin 16) (sess : BitVec 10) (msg : List Byte) (s : State) : Result :=
  .next (handshakeInit part sess msg s)
/-- `HANDSHAKE_RESP` (R418). -/
def execHandshakeResp (part : Fin 16) (sess : BitVec 10) (msg : List Byte) (s : State) : Result :=
  .next (handshakeResp part sess msg s)
/-- `HANDSHAKE_TIMEOUT` (R418). -/
def execHandshakeTimeout (part : Fin 16) (sess : BitVec 10) (s : State) : Result := .next (handshakeTimeout part sess s)
/-- `ZHOMER_DATAGRAM` (R419). -/
def execZhomerDatagram (part : Fin 16) (sess : BitVec 10) (dgram : List Byte) (s : State) : Result :=
  .next (zhomerDatagram part sess dgram s)
/-- `ZHOMER_RETRANSMIT` (R419). -/
def execZhomerRetransmit (part : Fin 16) (sess : BitVec 10) (s : State) : Result := .next (zhomerRetransmit part sess s)
/-- `REKEY` (R420). -/
def execRekey (part : Fin 16) (sess : BitVec 10) (s : State) : Result := .next (rekey part sess s)
/-- `OLD_KEY_EXPIRY` (R420). -/
def execOldKeyExpiry (part : Fin 16) (sess : BitVec 10) (s : State) : Result := .next (oldKeyExpiry part sess s)
/-- `NON_ZHOMER_FRAME` (R416). -/
def execNonZhomerFrame (port : Fin 4) (frame : List Byte) (s : State) : Result := .next (nonZhomerFrame port frame s)

/-- A mailbox takes what stands at its head (R402, R414). -/
def State.mailStep (s : State) (k : Nat) : State :=
  let m := s.master k
  match m.mailbox with
  | [] => s
  | .call _ :: _ => startCall k s
  | .flush n :: rest =>
    match m.liveCall n with
    | some c => s.withSends (flushRequest c.block.handle c.seq)
    | none => s.setMaster k { m with mailbox := rest }
  | .cancel n :: rest =>
    match m.liveCall n with
    | some c => cancelRequest c.block.handle c.seq s
    | none => s.setMaster k { m with mailbox := rest }
  | .openSession p e :: _ => openSession p e s
  | .closeSession p n :: _ => closeSession p n s

end Sys2Proof.Machine
end

