-- ==== Sys2Proof/Machine/Matrix.lean ====
section
/-! DEFINITION. The cluster matrix engine, majors 0x30 to 0x33 (R245 to R269), and its events. -/

namespace Sys2Proof.Machine

/-! ## Segments, queues and records -/

def State.segment (s : State) (core : Nat) : Segment := Tab.get {} s.segments core
def State.setSegment (s : State) (core : Nat) (g : Segment) : State := { s with segments := Tab.put {} s.segments core g }
def State.matrixOf (s : State) (cluster : Nat) : MatrixQueue := Tab.get {} s.matrix cluster
def State.setMatrix (s : State) (cluster : Nat) (q : MatrixQueue) : State := { s with matrix := Tab.put {} s.matrix cluster q }

def Segment.tile (g : Segment) (z : Nat) : Tile := Tab.get {} g.tiles z
def Segment.setTile (g : Segment) (z : Nat) (t : Tile) : Segment := { g with tiles := Tab.put {} g.tiles z t }

/-- The codes of R207 for a tile's tag. -/
def TileTag.code : TileTag → Word
  | .none => 0#64
  | .i32 => 1#64
  | .f32 => 8#64

/-- R248: the handle of a job of a cluster. -/
def jobHandle (cluster idx : Nat) : Word := BitVec.ofNat 64 (cluster % 256 * 65536 + idx % 65536)
def handleCluster (h : Word) : Nat := (h.extractLsb' 16 8).toNat
def handleJob (h : Word) : Nat := (h.extractLsb' 0 16).toNat

/-- R250: the record that a handle names, if its job is one of the 1,024 most recently accepted of the cluster. -/
def State.jobRecord (s : State) (h : Word) : Option JobRecord :=
  let q := s.matrixOf (handleCluster h)
  match Tab.get none q.records (handleJob h % 1024) with
  | some r => if r.idx % 65536 = handleJob h ∧ q.accepted - r.idx ≤ 1024 then some r else none
  | none => none

/-- R250: the status word. -/
def jobStatus (h : Word) (r : Option JobRecord) : Word :=
  match r with
  | none => 3#2 ++ 0#46 ++ h.extractLsb' 0 16
  | some r =>
    BitVec.ofNat 2 r.state ++ BitVec.ofNat 4 r.found.err ++ BitVec.ofBool r.found.nv ++ BitVec.ofBool r.found.ovf ++
      BitVec.ofBool r.delivered ++ 0#7 ++ BitVec.ofNat 16 r.found.malf ++ BitVec.ofNat 16 r.found.pois ++
      h.extractLsb' 0 16

/-- Saturation of MALF and POIS. -/
def sat16 (n : Nat) : Nat := min n 0xFFFF

/-- Changes the record of a job, if its slot still holds it. -/
def MatrixQueue.modifyRecord (q : MatrixQueue) (idx : Nat) (f : JobRecord → JobRecord) : MatrixQueue :=
  match Tab.get none q.records (idx % 1024) with
  | some r => if r.idx = idx then { q with records := Tab.put none q.records (idx % 1024) (some (f r)) } else q
  | none => q

/-- A job completes: its entry frees and its record is written (R247, R250). -/
def MatrixQueue.finish (q : MatrixQueue) (j : Job) : MatrixQueue :=
  let q := { q with jobs := q.jobs.filter fun x => x.idx != j.idx }
  q.modifyRecord j.idx fun r =>
    { r with state := 2, found := { j.found with malf := sat16 j.found.malf, pois := sat16 j.found.pois } }

/-- R246: the latches of which a strand is OWNER, in whichever segments, are no longer its to use. -/
def State.clearLatch (s : State) (sid : StrandId) : State :=
  (s.segments.map (·.1)).foldl (fun s core =>
    let g := s.segment core
    if g.owner = sid ∧ g.valid then s.setSegment core { g with valid := false } else s) s

/-- Frees every tile that a strand holds in a core's segment. -/
def State.freeTiles (s : State) (core : Nat) (sid : StrandId) : State :=
  let g := s.segment core
  s.setSegment core { g with tiles := (List.range 8).foldl (fun (t : Tab Tile) z =>
    if (Tab.get {} t z).holder = some sid then Tab.put {} t z {} else t) g.tiles }

/-- R268: the tiles of a strand that has gone are free once no job of it stands any more. -/
def State.freeAfterJobs (s : State) (sid : StrandId) : State :=
  if (s.strand? sid).isSome || s.matrix.any (fun q => q.2.jobs.any fun j => j.origin.sid == sid) then s
  else (s.segments.map (·.1)).foldl (fun s core => s.freeTiles core sid) s

def State.finishJob (s : State) (j : Job) : State :=
  let k := clusterOfCore j.origin.core
  (s.setMatrix k ((s.matrixOf k).finish j)).freeAfterJobs j.origin.sid

/-- Replaces a job of the queue. -/
def State.putJob (s : State) (j : Job) : State :=
  let k := clusterOfCore j.origin.core
  let q := s.matrixOf k
  s.setMatrix k { q with jobs := q.jobs.map fun x => if x.idx = j.idx then j else x }

def Job.onCore (j : Job) (core : Nat) : Bool := j.origin.core == core
/-- The job at the head of a segment (R247). -/
def State.headJob (s : State) (core : Nat) : Option Job := (s.matrixOf (clusterOfCore core)).jobs.find? (·.onCore core)

def JobKind.ring : JobKind → Bool
  | .mmar | .brot => true
  | _ => false
def JobKind.writesTile : JobKind → Bool
  | .mma | .mmas | .mmar => true
  | _ => false
def JobKind.load : JobKind → Bool
  | .bld | .bmeta => true
  | _ => false

/-! ## Acceptance (R247 to R249) -/

/-- R249: what a load commits to the descriptive state of its segment. (DEDUCED, log 57.) -/
def LatchShape.commit (old : LatchShape) (kind : JobKind) (new : LatchShape) : LatchShape :=
  match kind, new.mode with
  | .bmeta, _ => { old with mb := new.mb }
  | _, .dense => { new with mb := 0 }
  | _, _ => { new with mb := old.mb }

def Segment.commit (g : Segment) (j : Job) : Segment :=
  if j.kind.load then { g with shape := g.shape.commit j.kind j.shape, owner := j.origin.sid, valid := true }
  else if j.kind.writesTile then g.setTile j.tile { g.tile j.tile with tag := .f32 }
  else g

/-- R260: a round whose first member was accepted 2^22 mesh cycles before a reading of the mesh clock, and which has not
started, ends with ERR 2 for every member present. -/
def State.expireRound (s : State) (cluster : Nat) (round : Word32) (now : Nat) : State :=
  let js := (s.matrixOf cluster).jobs.filter fun j => j.kind.ring && j.round == round
  match js with
  | [] => s
  | j :: r =>
    if js.any (·.running) ∨ now < r.foldl (fun n x => min n x.since) j.since + 2 ^ 22 then s
    else
      let s := js.foldl (fun s j => s.finishJob { j with found := { j.found with err := 2 } }) s
      let q := s.matrixOf cluster
      if js.length = 8 then s else s.setMatrix cluster { q with dead := (round, js.length) :: q.dead }

/-- R260: a ring job joins its segment's next round; a round that has timed out fails it at once. (DEDUCED, log 57.) -/
def State.joinRound (s : State) (j : Job) : State × Job :=
  if j.kind.ring then
    let core := j.origin.core
    let k := clusterOfCore core
    let t := s.meshNow
    let g := s.segment core
    let s := (t.2.expireRound k g.rings t.1).setSegment core { g with rings := g.rings + 1 }
    let q := s.matrixOf k
    let j := { j with round := g.rings, since := t.1 }
    match q.dead.find? (fun d => d.1 == g.rings) with
    | none => (s, j)
    | some d =>
      let rest := q.dead.filter fun x => x.1 != g.rings
      (s.setMatrix k { q with dead := if d.2 = 7 then rest else (g.rings, d.2 + 1) :: rest },
        { j with found := { j.found with err := 2 } })
  else (s, j)

/-- R249, R258: accepts a job; one that fails at acceptance completes there. The result is its handle. -/
def State.acceptJob (s : State) (j0 : Job) : Word × State :=
  let core := j0.origin.core
  let k := clusterOfCore core
  let g := s.segment core
  let mul := j0.kind = .mma ∨ j0.kind = .mmas
  let lost := mul ∧ ¬(g.owner = j0.origin.sid ∧ g.valid = true)
  let j1 := { j0 with
    idx := (s.matrixOf k).accepted
    found := { j0.found with err := if lost then 1 else 0, pois := if mul then g.carry else 0 } }
  let s := s.setSegment core (if mul then { g with carry := 0 } else g)
  let r := s.joinRound j1
  let j := r.2
  let s := if lost then r.1 else r.1.setSegment core ((r.1.segment core).commit j)
  let q := s.matrixOf k
  let rec_ : JobRecord := ⟨j.idx, j.origin.sid, 0, {}, false⟩
  let q := { q with
    jobs := q.jobs ++ [j]
    records := Tab.put none q.records (j.idx % 1024) (some rec_)
    accepted := j.idx + 1 }
  (jobHandle k j.idx, if j.found.err = 0 then s.setMatrix k q else (s.setMatrix k q).finishJob j)

/-- Whether a job's wait is over (R266): it is no longer queued or running. -/
def State.jobOver (s : State) (h : Word) : Bool :=
  match s.jobRecord h with
  | some r => r.state == 2
  | none => true

/-- R267: the error that a completed job still owes to a strand that waits on it. -/
def State.jobError (s : State) (sid : StrandId) (h : Word) : Bool :=
  match s.jobRecord h with
  | some r => r.state == 2 && r.found.err != 0 && !r.delivered && r.sid == sid
  | none => false

/-- R267: marks a job's error delivered. -/
def State.deliverJob (s : State) (h : Word) : State :=
  let k := handleCluster h
  match s.jobRecord h with
  | some r => s.setMatrix k ((s.matrixOf k).modifyRecord r.idx fun r => { r with delivered := true })
  | none => s

/-- R259: the park of a wait form ends: the strand goes on, or takes EngineError where it parked (R267). -/
def State.endJobForm (s : State) (sid : StrandId) (h : Word) : State :=
  let bad := s.jobError sid h
  let s := if bad then s.deliverJob h else s
  s.modify sid fun m =>
    { m with
      frame := if m.frame = .parked then .running else m.frame
      wait := none
      pendingTrap := if bad then some (0x12, h) else m.pendingTrap }

/-- R49: a matrix job with lookahead opens a window on its tile: what it holds before the job is read in it. -/
def Context.tileWindow (c : Context) (pos la : Nat) (j : Job) (job : Nat) : Context :=
  if la = 0 ∨ j.kind.writesTile = false then c
  else { c with acc := { c.acc with tileWindows := c.acc.tileWindows ++ [⟨pos, pos + la, j.tile, job, none⟩] } }

/-- R49: a younger write of a tile ends the windows of older jobs on it. -/
def Context.endTileWindows (c : Context) (z : Nat) : Context :=
  { c with acc := { c.acc with tileWindows := c.acc.tileWindows.filter fun w => w.tile != z } }

/-- R49: the elements that an instruction reads of a tile: those from before the oldest job in whose window it stands. -/
def Context.tileSeen (c : Context) (z : Nat) (t : Tile) : Tab Word32 :=
  match c.acc.tileWindows.find? fun w => w.tile == z with
  | some w => (w.old.getD t).elems
  | none => t.elems

/-- R49: a job is about to write its tile: its strand's windows keep the tile as it is. -/
def Context.keepTile (c : Context) (job : Nat) (t : Tile) : Context :=
  { c with acc := { c.acc with tileWindows := c.acc.tileWindows.map fun w =>
      if w.job = job ∧ w.old.isNone then { w with old := some t } else w } }
def Strand.keepTile (m : Strand) (job : Nat) (t : Tile) : Strand :=
  { m with
    ctx := m.ctx.keepTile job t
    deferred := m.deferred.map fun d => { d with snap := d.snap.keepTile job t }
    undo := m.undo.map fun d => { d with snap := d.snap.keepTile job t } }

/-- R247, R259: submits a job of the strand in turn. `h` is the handle register of the matrix forms, code 12 to wait. -/
def State.submit (s : State) (j : Job) (h : Option (BitVec 4)) (la : BitVec 4) : State :=
  if 64 ≤ (s.matrixOf s.myCluster).jobs.length then s.block
  else
    let r := s.acceptJob j
    let r := (r.1, r.2.setCtx (r.2.me.ctx.tileWindow r.2.me.issue.pos la.toNat j (s.matrixOf s.myCluster).accepted))
    match h with
    | none => r.2.setNote .done
    | some c =>
      if hc : c.toNat < 12 then
        r.2.done (r.2.me.ctx.writeLate r.2.me.issue.pos la.toNat (.a ⟨c.toNat, hc⟩ r.1))
      else if r.2.jobOver r.1 then (r.2.setNote .done).endJobForm r.2.me.sid r.1
      else
        let t := r.2.setNote .done
        { t with me := { t.me with frame := .parked, wait := some (.jobForm r.1) } }

/-! ## Matrix jobs (R257, R258) -/

/-- A region of one plain box (R254, R255, R258). -/
def Region.plainBox (r : Region) (rank esz : Nat) : Bool :=
  r.bound && r.rank == rank && r.esz == esz && r.rows.isNone && r.nbox == 1
def Region.extent (r : Region) (d : Nat) : Nat := ((r.boxes.headD []).getD d Dim.pad).ext

def LatchShape.fits (g : LatchShape) (kind : JobKind) (k : Nat) : Bool :=
  match kind with
  | .mma => g.mode == .dense && k == g.k
  | .mmas => g.mode == .compressed && k == 2 * g.k && k == 8 * g.mb
  | _ => g.mode == .dense && g.k % 16 == 0 && k == 8 * g.k

/-- R258. -/
def State.matrixJob (s : State) (kind : JobKind) (h : BitVec 4) (zi : Bool) (la qa : BitVec 4) (z : BitVec 3) : State :=
  let g := s.segment s.me.core
  let t := g.tile z.toNat
  let r := s.me.ctx.q qa
  if t.holder ≠ some s.me.sid then s.trap ⟨.accumulatorNotClaimed, z.setWidth 64⟩
  else if t.tag ≠ .f32 ∧ zi = false then s.trap ⟨.tagMismatch, t.tag.code⟩
  else if r.plainBox 2 1 = false ∨ 32 < r.extent 0 then s.trap (s.wordTrap .illegalCombination)
  else if r.ovf then s.trap (overflowTrap qa)
  else
    match s.checkRegion s.origin r needR (inCore s.me.core) with
    | .error e => s.trap e
    | .ok (op, s1) =>
      if g.shape.fits kind (r.extent 1) = false then s.trap (s.wordTrap .illegalCombination)
      else
        s1.submit { idx := 0, kind := kind, origin := s.origin, tile := z.toNat, zi := zi, source := op, shape := g.shape }
          (some h) la

/-- `MMA` (R257). -/
def execMma (h : BitVec 4) (zi : Bool) (la qa : BitVec 4) (z : BitVec 3) (s : State) : Result :=
  .next (s.matrixJob .mma h zi la qa z)
/-- `MMAS` (R257, R264). -/
def execMmas (h : BitVec 4) (zi : Bool) (la qa : BitVec 4) (z : BitVec 3) (s : State) : Result :=
  .next (s.matrixJob .mmas h zi la qa z)
/-- `MMAR` (R260). -/
def execMmar (h : BitVec 4) (zi : Bool) (la qa : BitVec 4) (z : BitVec 3) (s : State) : Result :=
  .next (s.matrixJob .mmar h zi la qa z)

/-! ## Latch loads (R255) and rotation (R256) -/

/-- R140, R255: the operand of `BLD`: an overflowed region stands for its hull. -/
def Region.loaded (r : Region) : Region := if r.ovf && r.rows.isNone then { r with boxes := [hullOf r.boxes] } else r

/-- A load job, once its shape is known to be within the limits. -/
def State.latchLoad (s : State) (kind : JobKind) (la : BitVec 4) (r : Region) (shape : LatchShape) (fine : Bool) : State :=
  if fine = false then s.trap (s.wordTrap .illegalCombination)
  else
    match s.checkRegion s.origin r needR (inReach s.me.core) with
    | .error e => s.trap e
    | .ok (op, s1) =>
      s1.submit { idx := 0, kind := kind, origin := s.origin, tile := 0, zi := false, source := op, shape := shape } none la

/-- `BLD` (R255). -/
def execBld (c : Bool) (la qa : BitVec 4) (s : State) : Result :=
  let r := (s.me.ctx.q qa).loaded
  let k := r.extent 0
  .next (s.latchLoad .bld la r { mode := if c then .compressed else .dense, k := k, n := r.extent 1 }
    (r.plainBox 2 1 && r.extent 1 ≤ 64 && k ≤ 128 && (!c || k % 4 == 0)))

/-- `BMETA` (R255). -/
def execBmeta (la qa : BitVec 4) (s : State) : Result :=
  let r := s.me.ctx.q qa
  let n := r.extent 0
  .next (s.latchLoad .bmeta la r { mb := n / 9 }
    (r.plainBox 1 3 && n % 9 == 0 && n ≤ 288 && ((r.boxes.headD []).getD 0 Dim.pad).step == 1))

/-- `BROT` (R256). -/
def execBrot (h la : BitVec 4) (s : State) : Result :=
  .next (s.submit { idx := 0, kind := .brot, origin := s.origin, tile := 0, zi := false, source := Operand.unbound
                    shape := {} } (some h) la)

/-! ## Tiles (R252 to R254) -/

/-- `ZCLAIM` (R252). -/
def execZclaim (pd : BitVec 4) (z : BitVec 3) (s : State) : Result :=
  let g := s.segment s.me.core
  let t := g.tile z.toNat
  .next (match t.holder with
    | none => (s.setSegment s.me.core (g.setTile z.toNat { holder := some s.me.sid })).ansPred s.me.ctx pd true
    | some i => s.ansPred s.me.ctx pd (i == s.me.sid))

/-- R253: an instruction on a claimed tile, held until the jobs that write the tile have completed. -/
def State.onTile (s : State) (z : BitVec 3) (f : Segment → Tile → State) : State :=
  let g := s.segment s.me.core
  let t := g.tile z.toNat
  if t.holder ≠ some s.me.sid then s.trap ⟨.accumulatorNotClaimed, z.setWidth 64⟩
  else if (s.matrixOf s.myCluster).jobs.any fun j => j.onCore s.me.core && j.kind.writesTile && j.tile == z.toNat then
    s.block
  else f g t

/-- `ZREL` (R253). -/
def execZrel (z : BitVec 3) (s : State) : Result :=
  .next (s.onTile z fun g _ => (s.setSegment s.me.core (g.setTile z.toNat {})).done (s.me.ctx.endTileWindows z.toNat))

/-- `ZZERO` (R253). -/
def execZzero (z : BitVec 3) (s : State) : Result :=
  .next (s.onTile z fun g t =>
    (s.setSegment s.me.core (g.setTile z.toNat { t with elems := [], tag := .f32 })).done (s.me.ctx.endTileWindows z.toNat))

/-- R254: the elements that a region of a tile names, with their addresses. -/
def tileMap (op : Operand) (cols : Nat) : List (Nat × Word) :=
  op.addrs.zipIdx.map fun (x : Word × Nat) => (x.2 / cols * 64 + x.2 % cols, x.1)

/-- R254: the checks on the region of `ZLD` and `ZST`. (DEDUCED, log 74.) -/
def State.tileRegion (s : State) (qa : BitVec 4) (need : Need) : Except Trap (Operand × State) :=
  let r := s.me.ctx.q qa
  if r.plainBox 2 2 = false ∨ 32 < r.extent 0 ∨ 64 < r.extent 1 then .error (s.wordTrap .illegalCombination)
  else if r.ovf then .error (overflowTrap qa)
  else s.checkRegion s.origin r need fun _ => true

/-- Loads the elements of a tile, in order. (DEDUCED, log 74.) -/
def loadTile (s : State) (es : Tab Word32) (l : List (Nat × Word)) : Except Stop (Tab Word32 × State) :=
  match (s.unbroken 4 (l.map (·.2))).loadEach 4 (l.map (·.2)) with
  | .error e => .error e
  | .ok (vs, s) =>
    .ok ((l.zip vs).foldl (fun es x => Tab.put 0#32 es x.1.1 (BitVec.ofNat 32 x.2)) es, s)

/-- Stores the elements of a tile, in order. (DEDUCED, log 74.) -/
def storeTile (s : State) (es : Tab Word32) (l : List (Nat × Word)) : Except Trap State :=
  s.storeEach 4 (l.map fun x => (x.2, (Tab.get 0#32 es x.1).toNat))

/-- `ZLD` (R254). -/
def execZld (int : Bool) (qa : BitVec 4) (z : BitVec 3) (s : State) : Result :=
  .next (s.onTile z fun _ t =>
    match s.tileRegion qa needR with
    | .error e => s.trap e
    | .ok (op, s1) =>
      match loadTile s1 t.elems (tileMap op (op.region.extent 1)) with
      | .error e => s.stopAt e
      | .ok (es, s2) =>
        (s2.setSegment s.me.core ((s2.segment s.me.core).setTile z.toNat
          { t with elems := es, tag := if int then .i32 else .f32 })).done (s2.me.ctx.endTileWindows z.toNat))

/-- `ZST` (R254). Its check of the tag reads what is committed (R249); the elements are those that R49 gives. (DEDUCED, log 74.) -/
def execZst (qa : BitVec 4) (z : BitVec 3) (s : State) : Result :=
  .next (s.onTile z fun _ t =>
    if t.tag = .none then s.trap ⟨.tagMismatch, t.tag.code⟩
    else
      match s.tileRegion qa needW with
      | .error e => s.trap e
      | .ok (op, s1) =>
        match storeTile s1 (s.me.ctx.tileSeen z.toNat t) (tileMap op (op.region.extent 1)) with
        | .error e => s.trap e
        | .ok s2 => s2.setNote .done)

/-! ## Waiting (R266, R267) -/

/-- R266: whether a handle names a job of a cluster of the strand's partition. -/
def State.handleOk (s : State) (h : Word) : Bool :=
  h.extractLsb' 24 40 == 0#40 && handleCluster h < 192 && s.ownerOfCluster (handleCluster h) == some s.me.launch.part

/-- An instruction that reads a handle. -/
def State.withHandle (s : State) (h : Reg) (f : Word → Context → State) : State :=
  match s.me.ctx.read .access h with
  | .error q => s.hold q
  | .ok (v, c) => if s.handleOk v then f v c else s.trap (s.wordTrap .illegalCombination)

/-- `JWAIT` (R266). -/
def execJwait (h : Reg) (s : State) : Result :=
  .next (s.withHandle h fun v c =>
    if s.jobOver v = false then s.park (.job v)
    else if s.jobError s.me.sid v then (s.deliverJob v).trap ⟨.engineError, v⟩
    else s.done c)

/-- `JPOLL` (R266). -/
def execJpoll (pd : BitVec 4) (h : Reg) (s : State) : Result :=
  .next (s.withHandle h fun v c => s.ansPred c pd (s.jobOver v))

/-- `JSTAT` (R266). -/
def execJstat (x h : Reg) (s : State) : Result :=
  .next (s.withHandle h fun v c => s.attempt (c.writeReg .access 0 0 x (jobStatus v (s.jobRecord v))))

/-! ## Accumulation (R261) -/

/-- The product of two BF16 codes: nothing for 0 × ∞. -/
def bfProduct (a b : BitVec 16) : Option Fp := Fp.mul (bf16.decode a.toNat) (bf16.decode b.toNat)

def zeroTimesInf (x y : Fp) : Bool := (x.isZero && y.isInf) || (x.isInf && y.isZero)

/-- A finite term in units of 2^q, truncated toward zero. -/
def inUnits (q : Int) : Fp → Int
  | .fin x =>
    let m := if q ≤ x.e then x.m * 2 ^ (x.e - q).toNat else x.m / 2 ^ (q - x.e).toNat
    if x.neg then -(m : Int) else m
  | _ => 0

/-- An FP32 accumulator with NV and OF. -/
structure Acc where
  v : Word32
  nv : Bool := false
  ovf : Bool := false
  deriving DecidableEq, Repr

/-- R261: one chunk. -/
def accChunk (a : Acc) (ps : List (BitVec 16 × BitVec 16)) : Acc :=
  let prods := ps.map fun p => bfProduct p.1 p.2
  let terms := fp32.decode a.v.toNat :: prods.filterMap id
  if prods.any Option.isNone ∨ terms.any Fp.isNaN ∨ (terms.contains (.inf true) ∧ terms.contains (.inf false)) then
    { a with v := 0x7FC00000#32, nv := true }
  else if terms.contains (.inf false) then { a with v := 0x7F800000#32 }
  else if terms.contains (.inf true) then { a with v := 0xFF800000#32 }
  else
    match largestLog2 terms with
    | none => { a with v := 0#32 }
    | some e =>
      let n := terms.foldl (fun n t => n + inUnits (e - 72) t) 0
      if n = 0 then { a with v := 0#32 }
      else
        let r := fp32.round .rne false (Fp.ofInt n (e - 72) false)
        { a with v := BitVec.ofNat 32 r.1, ovf := a.ovf || r.1 % 2 ^ 31 == 0x7F800000 }

/-- R261: the products in chunks of 16, of which the first `n` are made. (DESIGN CHOICE, log 59.) -/
def accChunks : Nat → Acc → List (BitVec 16 × BitVec 16) → Acc
  | 0, a, _ => a
  | _, a, [] => a
  | n + 1, a, p :: ps => accChunks n (accChunk a ((p :: ps).take 16)) ((p :: ps).drop 16)

/-! ## Sparsity (R262 to R264) -/

/-- The index byte of a column in metadata block b. -/
def indexByte (blocks : List Word) (b n : Nat) : Nat := (blocks.getD (9 * b + 1 + n / 8) 0#64).toNat / 2 ^ (8 * (n % 8)) % 256
/-- The bitmap bit of a column. -/
def liveBit (blocks : List Word) (b n : Nat) : Bool := (blocks.getD (9 * b) 0#64).getLsbD n
def malformed (i : Nat) : Bool := i / 4 % 4 ≤ i % 4 || i / 64 % 4 ≤ i / 16 % 4

def Latch.value (l : Latch) (k n : Nat) : BitVec 16 := Tab.get 0#16 l.values (64 * k + n)

/-- R264: B(k, n) of a sparse latch. -/
def Latch.sparse (l : Latch) (k n : Nat) : BitVec 16 :=
  let b := k / 8
  let i := indexByte l.blocks b n
  if !liveBit l.blocks b n || malformed i then 0#16
  else
    let g := k % 8 / 4
    let j := i / 16 ^ g % 16
    if k % 4 = j % 4 then l.value (4 * b + 2 * g) n
    else if k % 4 = j / 4 then l.value (4 * b + 2 * g + 1) n
    else 0#16

/-- The live column vectors whose index bytes are malformed. -/
def Latch.malformedCount (l : Latch) : Nat :=
  (List.range l.shape.mb).foldl (fun c b =>
    c + ((List.range l.shape.n).filter fun n => liveBit l.blocks b n && malformed (indexByte l.blocks b n)).length) 0

/-! ## Running a job -/

/-- The bits of an element of 2^esz bytes in a word. -/
def elemOf (w : Word32) (a : Nat) (bytes : Nat) : Nat := w.toNat / 2 ^ (8 * (a % 4)) % 2 ^ (8 * bytes)

/-- The halfwords that a job reads through its region, and the words that it has read by then, each once (R269); a poisoned
word reads as zero. -/
def State.jobHalfwords (s : State) (o : Origin) (seen : List (Nat × Option Word32)) :
    List Word → List (BitVec 16) × List (Nat × Option Word32) × State
  | [] => ([], seen, s)
  | a :: r =>
    match s.enginePlace o a needR with
    | .error _ => let q := s.jobHalfwords o seen r; (0#16 :: q.1, q.2)
    | .ok (k, s) =>
      let w := s.sourceRead seen k
      let q := w.2.jobHalfwords o (if seen.any (fun x => x.1 == k / 4) then seen else (k / 4, w.1) :: seen) r
      (BitVec.ofNat 16 (elemOf (w.1.getD 0#32) k 2) :: q.1, q.2)

/-- How many of the words that a job has read were poisoned. -/
def poisonedIn (seen : List (Nat × Option Word32)) : Nat := (seen.filter fun x => x.2.isNone).length

/-- The 64-bit words that a `BMETA` job reads, as halfwords put together. -/
def quadHalves : List (BitVec 16) → List Word
  | a :: b :: c :: d :: r => (d ++ c ++ b ++ a) :: quadHalves r
  | _ => []

/-- Poisoned words that a load met count at the next `MMA` or `MMAS` of the segment (R255). (DEDUCED, log 60.) -/
def State.carryPoison (s : State) (core n : Nat) : State :=
  if n = 0 then s
  else
    let k := clusterOfCore core
    let q := s.matrixOf k
    match q.jobs.find? (fun j => j.onCore core && (j.kind == .mma || j.kind == .mmas)) with
    | some j => s.putJob { j with found := { j.found with pois := j.found.pois + n } }
    | none => let g := s.segment core; s.setSegment core { g with carry := g.carry + n }

/-- R6: a job whose source side lies in more than one unit performs no part of itself, and ends with ERR 2. -/
def State.runWhole (s : State) (j : Job) (run : State → State) : State :=
  if manyUnits (j.source.addrs.map BitVec.toNat) then s.finishJob { j with found := { j.found with err := 2 } } else run s

/-- R255: a load fills the latch, or the metadata store. (DEDUCED, log 58.) -/
def State.runLoad (s : State) (j : Job) : State :=
  let core := j.origin.core
  let as := if j.kind = .bld then j.source.addrs else j.source.addrs.flatMap fun a => [a, a + 2#64, a + 4#64, a + 6#64]
  let r := s.jobHalfwords j.origin j.seen as
  let g := r.2.2.segment core
  let l := g.latch
  let l := if j.kind = .bld then
      { l with
        shape := l.shape.commit .bld j.shape
        values := r.1.zipIdx.foldl (fun (t : Tab (BitVec 16)) x => Tab.put 0#16 t (64 * (x.2 / j.shape.n) + x.2 % j.shape.n) x.1) [] }
    else { l with shape := l.shape.commit .bmeta j.shape, blocks := quadHalves r.1 }
  ((r.2.2.setSegment core { g with latch := l }).finishJob j).carryPoison core (poisonedIn r.2.1)

/-- R257: multiplies `kn` columns of A by a B into the job's tile, of which the first `chunks` chunks are made; the elements
start from +0 where `zero` says so. -/
def State.multiply (s : State) (j : Job) (as : List (BitVec 16)) (kn n : Nat) (b : Nat → Nat → BitVec 16)
    (zero : Bool) (chunks : Nat) : State × Job :=
  let core := j.origin.core
  let g := s.segment core
  let t := g.tile j.tile
  let cells := (List.range (j.source.region.extent 0)).flatMap fun m => (List.range n).map fun c => (m, c)
  let out := cells.map fun (x : Nat × Nat) =>
    let ps := (List.range kn).map fun i => (as.getD (x.1 * kn + i) 0#16, b i x.2)
    (64 * x.1 + x.2, accChunks chunks ⟨if zero then 0#32 else Tab.get 0#32 t.elems (64 * x.1 + x.2), false, false⟩ ps)
  let elems := out.foldl (fun (e : Tab Word32) x => Tab.put 0#32 e x.1 x.2.v) t.elems
  ((s.modify j.origin.sid fun m => m.keepTile j.idx t).setSegment core (g.setTile j.tile { t with elems := elems }),
    { j with found := { j.found with
        nv := j.found.nv || out.any (·.2.nv)
        ovf := j.found.ovf || out.any (·.2.ovf) } })

/-- R257, R264: an `MMA` or `MMAS`, of which the first `chunks` chunks of each element are made. (DEDUCED, log 58.) -/
def State.runMma (s : State) (j : Job) (chunks : Nat) : State × Job :=
  let l := (s.segment j.origin.core).latch
  let r := s.jobHalfwords j.origin j.seen j.source.addrs
  let bad := if j.kind = .mmas then l.malformedCount else 0
  let j := { j with found := { j.found with
    pois := j.found.pois + poisonedIn r.2.1
    malf := bad
    err := if j.found.err = 0 ∧ bad ≠ 0 then 4 else j.found.err } }
  r.2.2.multiply j r.1 (j.source.region.extent 1) l.shape.n (if j.kind = .mmas then l.sparse else l.value) j.zi chunks

/-! ## Ring rounds (R256, R260) -/

def ringCores (cluster : Nat) : List Nat := (List.range 8).map fun i => 8 * cluster + i

/-- The members of a round, when the i-th ring job of every segment is at the head of its segment. -/
def State.roundMembers (s : State) (cluster : Nat) : Option (List Job) :=
  match (ringCores cluster).mapM s.headJob with
  | none => none
  | some js =>
    match js with
    | [] => none
    | j :: _ => if js.all (fun x => x.kind.ring && x.round == j.round) then some js else none

/-- R256: every latch passes to the next segment of the ring. -/
def State.passLatches (s : State) (cluster : Nat) (f : Nat → Segment → Segment → Segment) : State :=
  let old := (ringCores cluster).map fun c => (c, s.segment c)
  (List.range 8).foldl (fun t i =>
    let sender := (old.getD i (0, {})).2
    let c := 8 * cluster + (i + 1) % 8
    t.setSegment c (f c sender (s.segment c))) s

/-- R256: the latch of a segment after a `BROT`; what a load accepted since has committed stands (R249). -/
def receiveLatch (queue : List Job) (core : Nat) (owner : StrandId) (sender g : Segment) : Segment :=
  let loads := queue.filter fun j => j.onCore core && j.kind.load
  let g1 := { g with
    latch := sender.latch
    shape := loads.foldl (fun s j => s.commit j.kind j.shape) sender.latch.shape }
  if loads.isEmpty then { g1 with owner := owner, valid := sender.valid } else g1

/-- R260, R6: the error with which a round fails as it starts: 2 where a source lies in several units, 3 before 1, or 0.
(DEDUCED, log 57.) (DEDUCED, log 57.) -/
def State.roundError (s : State) (js : List Job) : Nat :=
  if js.all (fun j => j.kind == .brot) then 0
  else if js.any (fun j => manyUnits (j.source.addrs.map BitVec.toNat)) then 2
  else
    let shapes := js.map fun j => (s.segment j.origin.core).latch.shape
    let first := shapes.headD {}
    if !(js.all (fun j => j.kind == .mmar) && shapes.all fun x => x.mode == .dense && x.k == first.k && x.n == first.n)
    then 3
    else if js.all fun j =>
        let g := s.segment j.origin.core
        g.owner == j.origin.sid && g.valid then 0
    else 1

/-- Marks a job running, in the queue and in its record. -/
def State.startJob (s : State) (j : Job) : State :=
  let s := s.putJob { j with running := true }
  let k := clusterOfCore j.origin.core
  s.setMatrix k ((s.matrixOf k).modifyRecord j.idx fun r => { r with state := 1 })

/-- `RING_ROUND_START` (R260). A round whose time is past ends instead. (DEDUCED, log 57.) -/
def ringRoundStart (cluster : Nat) (s : State) : State :=
  match s.roundMembers cluster with
  | none => s
  | some js =>
    if js.any (·.running) then s
    else
      let t := s.meshNow
      let round := (js.head?.map (·.round)).getD 0#32
      let u := t.2.expireRound cluster round t.1
      if (u.matrixOf cluster).jobs ≠ (s.matrixOf cluster).jobs then u
      else
        match u.roundError js with
        | 0 => js.foldl State.startJob u
        | e => js.foldl (fun s j => s.finishJob { j with found := { j.found with err := e } }) u

/-- One segment's part of a phase of an `MMAR` round (R260), of which the first `chunks` chunks of each element are made: it
reads the columns of the phase's block, each word once over the whole round (R269). (DEDUCED, log 58.) -/
def State.runPhase (s : State) (j : Job) (chunks : Nat) : State × Job :=
  let l := (s.segment j.origin.core).latch
  let pos := j.origin.core % 8
  let b := (pos + 8 - j.phase) % 8
  let kk := j.source.region.extent 1
  let as := (j.source.addrs.zipIdx.filter fun x => b * l.shape.k ≤ x.2 % kk && x.2 % kk < (b + 1) * l.shape.k).map (·.1)
  let r := s.jobHalfwords j.origin j.seen as
  let j := { j with seen := r.2.1, found := { j.found with pois := poisonedIn r.2.1 } }
  r.2.2.multiply j r.1 l.shape.k l.shape.n l.value (j.zi && j.phase == 0) chunks

/-- One segment finishes a phase (R260). -/
def State.endPhase (s : State) (j : Job) : State :=
  let m := s.runPhase j ((s.segment j.origin.core).latch.shape.k / 16)
  m.1.putJob { m.2 with phase := j.phase + 1 }

/-- The members of the round that runs in a cluster. -/
def State.runningRound (s : State) (cluster : Nat) (kind : JobKind) : List Job :=
  (s.matrixOf cluster).jobs.filter fun j => j.running && j.kind == kind

/-- `RING_PHASE_END` (R260): every segment has finished the phase, and the latches pass on; the eighth ends the round. -/
def ringPhaseEnd (cluster : Nat) (s : State) : State :=
  match s.runningRound cluster .mmar with
  | [] => s
  | js =>
    let s := js.foldl State.endPhase s
    let s := s.passLatches cluster fun _ sender g => { g with latch := sender.latch }
    ((s.runningRound cluster .mmar).filter fun j => j.phase == 8).foldl State.finishJob s

/-- `RING_ROUND_TIMEOUT` (R260): 2^22 mesh cycles have passed since the first member was accepted. -/
def ringRoundTimeout (cluster : Nat) (round : BitVec 32) (s : State) : State :=
  if (s.matrixOf cluster).jobs.any fun j => j.kind.ring && j.round == round then
    let t := s.meshNow
    t.2.expireRound cluster round t.1
  else s

/-! ## The events of single jobs -/

/-- `MATRIX_JOB_START` (R247): the segment's next job starts once the one before it has completed. -/
def matrixJobStart (core : Nat) (s : State) : State :=
  match s.headJob core with
  | some j => if j.running || j.kind.ring then s else s.startJob j
  | none => s

/-- `MATRIX_JOB_COMPLETE` (R250): the running job of a segment completes. A `BROT` completes for the whole round. (DEDUCED, log 58.) -/
def matrixJobComplete (core : Nat) (s : State) : State :=
  match s.headJob core with
  | none => s
  | some j =>
    if !j.running then s
    else
      match j.kind with
      | .bld | .bmeta => s.runWhole j fun s => s.runLoad j
      | .mma | .mmas =>
        s.runWhole j fun s =>
          let r := s.runMma j (j.source.region.extent 1)
          r.1.finishJob r.2
      | .mmar => s
      | .brot =>
        let k := clusterOfCore core
        let js := s.runningRound k .brot
        let q := (s.matrixOf k).jobs
        let owner (c : Nat) : StrandId := ((js.find? (·.onCore c)).map (·.origin.sid)).getD 0#32
        js.foldl State.finishJob (s.passLatches k fun c sender g => receiveLatch q c (owner c) sender g)

/-- `MATRIX_JOB_START` (R247). -/
def execMatrixJobStart (core : Nat) (s : State) : Result := .next (matrixJobStart core s)
/-- `MATRIX_JOB_COMPLETE` (R250). -/
def execMatrixJobComplete (core : Nat) (s : State) : Result := .next (matrixJobComplete core s)
/-- `RING_ROUND_START` (R260). -/
def execRingRoundStart (cluster : Nat) (s : State) : Result := .next (ringRoundStart cluster s)
/-- `RING_PHASE_END` (R260). -/
def execRingPhaseEnd (cluster : Nat) (s : State) : Result := .next (ringPhaseEnd cluster s)
/-- `RING_ROUND_TIMEOUT` (R260). -/
def execRingRoundTimeout (cluster : Nat) (round : BitVec 32) (s : State) : Result :=
  .next (ringRoundTimeout cluster round s)

/-! ## Kill (R268) -/

/-- R268: the jobs of a launch complete with ERR 5; one that runs stops at a chunk boundary. (DESIGN CHOICE, log 59.) -/
def State.killJobs (s : State) (cluster : Nat) (mine : LaunchRef → Bool) : State :=
  ((s.matrixOf cluster).jobs.filter fun j => mine j.origin.launch).foldl (fun s j =>
    if j.running ∧ j.kind.writesTile then
      let d := s.draw
      let n := d.1 % (j.source.region.extent 1 / 16 + 2)
      let r := if j.kind = .mmar then d.2.runPhase j n else d.2.runMma j n
      r.1.finishJob { r.2 with found := { r.2.found with err := 5 } }
    else s.finishJob { j with found := { j.found with err := 5 } }) s

end Sys2Proof.Machine
end

