-- ==== Sys2Proof/Machine/ContextImage.lean ====
section
/-! DEFINITION. The light and the full context image (R24, R170), their CRCs, and the context store (R169, R362). -/

namespace Sys2Proof.Machine

/-! ## CRC-32 (IEEE 802.3) -/

/-- One bit of the reflected division by the polynomial 0x04C11DB7. -/
def crcBit (c : Word32) : Word32 := if c.getLsbD 0 then (c >>> 1) ^^^ 0xEDB88320#32 else c >>> 1
def crcByte (c : Word32) (b : Byte) : Word32 :=
  crcBit (crcBit (crcBit (crcBit (crcBit (crcBit (crcBit (crcBit (c ^^^ b.setWidth 32))))))))
def crc32 (bs : List Byte) : Word32 := ~~~ bs.foldl crcByte 0xFFFFFFFF#32

/-! ## The light image (R24) -/

def longBytes (ws : List Word) : List Byte := ws.flatMap fun w => bytesOf 8 w.toNat

/-- The launch handle of the light image, whose layout the spec leaves open. (DESIGN CHOICE, log 22.) -/
def launchHandle (r : LaunchRef) : Nat := r.node % 2 ^ 16 + 2 ^ 16 * r.tag.toNat + 2 ^ 32 * r.part.val

/-- Bytes 0x000 to 0x0FB. -/
def lightBody (m : Strand) (c : Context) : List Byte :=
  longBytes c.acc.a.toList ++ longBytes c.exe.d.toList ++ bytesOf 8 m.pc.toNat ++ bytesOf 4 m.sid.toNat ++
    bytesOf 2 c.sys.status.toNat ++ bytesOf 2 c.preds.toNat ++ bytesOf 4 (m.ts % 2 ^ 24) ++
    m.groups.toList.flatMap (fun g => bytesOf 2 g.toNat) ++ bytesOf 4 c.acc.left.toNat ++ bytesOf 8 c.acc.idx.toNat ++
    bytesOf 8 c.acc.last.toNat ++ bytesOf 8 (launchHandle m.launch) ++ bytesOf 2 1 ++ bytesOf 2 0
def lightImage (m : Strand) (c : Context) : List Byte :=
  let b := lightBody m c
  b ++ bytesOf 4 (crc32 b).toNat

/-! ## The full image (R170) -/

/-- Live queue contents, padded to sixteen entries. -/
def queueImage (q : List Word) : List Byte := longBytes (saved q).toList

def bitsOf (n : Nat) (f : Nat → Bool) : Nat := (List.range n).foldl (fun a i => a + if f i then 2 ^ i else 0) 0

/-- The claims of a strand. -/
def claimsWord (c : Context) (tiles : List (Nat × Tile)) : Nat :=
  bitsOf 16 (fun i => (c.acc.q.toList.getD i {}).bound) + 2 ^ 16 * bitsOf 8 (fun i => tiles.any fun t => t.1 == i) +
    2 ^ 24 * (c.vec.w / 16)

def tileBytes (t : Tile) : List Byte := wordBytes ((List.range 2048).map fun i => Tab.get 0#32 t.elems i)

/-- The image but for the 8 bytes at 0x0380: what stands before and after them. -/
def imageParts (m : Strand) (c : Context) (tiles : List (Nat × Tile)) : List Byte × List Byte :=
  let y := c.sys
  let tag (i : Nat) : List Byte := match tiles.find? (fun t => t.1 == i) with
    | some t => bytesOf 1 t.2.tag.code.toNat
    | none => [0#8]
  (lightImage m c ++ longBytes [sstatus y, y.trappc, y.trapcause, y.trapval] ++ longBytes y.scratch.toList ++
      longBytes [y.tqstat, y.tqbits] ++ longBytes y.tqlq.toList ++ longBytes y.tqsq.toList ++
      longBytes [c.queues.stat, c.queues.bits] ++ queueImage c.queues.lq ++ queueImage c.queues.sq ++
      longBytes [roamReg c, c.acc.poisonCnt.setWidth 64, BitVec.ofNat 64 (claimsWord c tiles),
        0#32 ++ m.batchOldest ++ m.batchNext],
    List.replicate 120 0#8 ++ c.acc.q.toList.flatMap (fun r => longBytes r.image) ++
      c.vec.k.toList.flatMap (fun k => bytesOf 32 k.toNat) ++ c.vec.tag.toList.flatMap (fun t => bytesOf 1 t.toNat) ++
      (List.range 8).flatMap tag ++ List.replicate 232 0#8 ++
      c.vec.v.toList.flatMap (fun l => wordBytes (resizeLanes c.vec.w l)) ++
      c.vec.slice.readBytes 0 (4096 * c.vec.w) ++ tiles.flatMap fun t => tileBytes t.2)

/-- R170: the full context image of a strand with its claimed tiles, in increasing tile number. (DEDUCED, log 21.) -/
def fullImage (m : Strand) (tiles : List (Nat × Tile)) : List Byte :=
  let p := imageParts m m.ctx.closeAll tiles
  let crc := crc32 (p.1 ++ List.replicate 8 0#8 ++ p.2)
  p.1 ++ bytesOf 4 crc.toNat ++ bytesOf 4 (p.1.length + 8 + p.2.length) ++ p.2

/-! ## Checks and reading back (R171, R208) -/

/-- The claims that an image names. -/
def imageClaims (bs : List Byte) : Word := BitVec.ofNat 64 (fieldOf bs 0x370 8)

/-- R171, R208, R152: whether a restore accepts an image for a strand with its claimed tiles. (DEDUCED, log 21.) -/
def imageOk (m : Strand) (tiles : List (Nat × Tile)) (bs : List Byte) : Bool :=
  let body := cutBytes bs 0 0x380 ++ List.replicate 8 0#8 ++ bs.drop 0x388
  crc32 (cutBytes bs 0 0xFC) == BitVec.ofNat 32 (fieldOf bs 0xFC 4) && crc32 body == BitVec.ofNat 32 (fieldOf bs 0x380 4) &&
    fieldOf bs 0x384 4 == bs.length && fieldOf bs 0xC8 4 == m.sid.toNat &&
    (imageClaims bs).extractLsb' 16 48 == (BitVec.ofNat 64 (claimsWord m.ctx tiles)).extractLsb' 16 48 &&
    (cutBytes bs 0x1900 16).all (fun b => b.extractLsb' 6 2 == 0#2 && tagOk (b.setWidth 6)) &&
    (cutBytes bs 0x1910 8).all (fun b => b.extractLsb' 6 2 == 0#2 && tagOk (b.setWidth 6)) &&
    (List.range 16).all fun i =>
      let ws := (List.range 40).map fun j => BitVec.ofNat 64 (fieldOf bs (0x400 + 320 * i + 8 * j) 8)
      (Region.load ws).isSome

/-- Successive words of an image. (DEDUCED, log 21.) -/
def imageWords (bs : List Byte) (off : Nat) (i : Nat) : Word := BitVec.ofNat 64 (fieldOf bs (off + 8 * i) 8)

/-- The context that an image holds; what the image has no place for stays as it was. -/
def Context.ofImage (c : Context) (bs : List Byte) : Context :=
  let f := fieldOf bs
  let w := c.vec.w
  let word := imageWords bs
  let st := word 0x250 0
  let bits := word 0x258 0
  let preds : BitVec 16 := BitVec.ofNat 16 (f 0xCE 2)
  { acc :=
      { a := Vector.ofFn fun i => word 0 i.val
        p := preds.extractLsb' 0 8 ||| 1#8
        q := Vector.ofFn fun i =>
          (Region.load ((List.range 40).map fun j => word (0x400 + 320 * i.val) j)).getD Region.unbound
        left := BitVec.ofNat 32 (f 0xDC 4), idx := word 0xE0 0, last := word 0xE8 0
        poisonCnt := BitVec.ofNat 32 (f 0x368 4), refused := BitVec.ofNat 16 (f 0x362 2)
        migrated := BitVec.ofNat 16 (f 0x360 2) }
    exe := { d := Vector.ofFn fun i => word 0x60 i.val, p := preds.extractLsb' 8 8 }
    vec :=
      { w := w
        v := Vector.ofFn fun i => (List.range w).map fun j => BitVec.ofNat 32 (f (0x1A00 + 4 * w * i.val + 4 * j) 4)
        tag := Vector.ofFn fun i => BitVec.ofNat 6 (f (0x1900 + i.val) 1)
        k := Vector.ofFn fun i => BitVec.ofNat 256 (f (0x1800 + 32 * i.val) 32)
        slice := c.vec.slice.writeBytes 0 (cutBytes bs (0x1A00 + 64 * w) (4096 * w)) }
    queues :=
      { lq := (List.range (clampField st 0 5 16)).map fun i => word 0x260 i
        sq := (List.range (clampField st 8 5 16)).map fun i => word 0x2E0 i
        bqa := restoredBits bits 0 (clampField st 16 4 8)
        bqe := restoredBits bits 8 (clampField st 20 4 8) }
    sys :=
      { status := BitVec.ofNat 16 (f 0x100 2), tsave := BitVec.ofNat 16 (f 0x102 2)
        trappc := word 0x108 0, trapcause := word 0x108 1, trapval := word 0x108 2
        scratch := Vector.ofFn fun i => word 0x120 i.val
        tqstat := word 0x140 0, tqbits := word 0x148 0
        tqlq := Vector.ofFn fun i => word 0x150 i.val
        tqsq := Vector.ofFn fun i => word 0x1D0 i.val } }

/-- The strand that an image holds. (DEDUCED, log 21.) -/
def Strand.ofImage (m : Strand) (bs : List Byte) : Strand :=
  { m with
    ctx := m.ctx.ofImage bs
    pc := imageWords bs 0xC0 0
    ts := fieldOf bs 0xD0 3
    groups := Vector.ofFn fun i => BitVec.ofNat 16 (fieldOf bs (0xD4 + 2 * i.val) 2)
    batchNext := BitVec.ofNat 16 (fieldOf bs 0x378 2)
    batchOldest := BitVec.ofNat 16 (fieldOf bs 0x37A 2) }

/-- The tag of a code (R245). -/
def TileTag.ofCode (n : Nat) : TileTag :=
  if n = TileTag.f32.code.toNat then .f32 else if n = TileTag.i32.code.toNat then .i32 else .none

/-- A tile that an image holds, the k-th of the claimed ones. -/
def Tile.ofImage (sid : StrandId) (w z k : Nat) (bs : List Byte) : Tile :=
  let off := 0x1A00 + 4160 * w + 8192 * k
  { elems := (List.range 2048).foldl (fun t i => Tab.put 0#32 t i (BitVec.ofNat 32 (fieldOf bs (off + 4 * i) 4))) []
    tag := TileTag.ofCode (fieldOf bs (0x1910 + z) 1)
    holder := some sid }

/-! ## The context store (R169, R362) -/

/-- An area of a context store: the key of its first byte and its size. -/
abbrev StoreArea := Nat × Nat

/-- The areas of a partition's store for a die, in the order in which they are used. -/
def Partition.stores (p : Partition) (die : Nat) : List StoreArea :=
  let b := p.frbase die
  let lo := (b + 0x20000 + 4095) / 4096 * 4096
  let hi := (b - chipWindow) / 0x100000 * 0x100000 + 0x100000 + chipWindow
  [(if b = 0 then (0, 0) else (lo, hi - lo)), (hbmKey p.storeBase, p.storeSize)]

/-- The images that stand in stores: first key and length. -/
def State.images (s : State) : List (Nat × Nat) :=
  s.strands.filterMap fun m =>
    m.image.map fun k => (k, 0x1A00 + 4160 * m.ctx.vec.w + 8192 * (s.savedTiles.filter fun t => t.1 == m.sid).length)

/-- Whether `n` bytes at a key lie in an area and meet no image. -/
def fits (used : List (Nat × Nat)) (a : StoreArea) (n k : Nat) : Bool :=
  a.1 ≤ k && k + n ≤ a.1 + a.2 && used.all fun u => k + n ≤ u.1 || u.1 + u.2 ≤ k

/-- A free place of `n` bytes in an area, aligned to 4 KiB: any that the draw names, or else the first. (DESIGN CHOICE, log 20.) -/
def placeIn (used : List (Nat × Nat)) (n draw : Nat) (a : StoreArea) : Option Nat :=
  let k := a.1 + draw % (a.2 / 4096 + 1) * 4096
  if fits used a n k then some k
  else (a.1 :: used.map fun u => (u.1 + u.2 + 4095) / 4096 * 4096).find? (fits used a n)

/-- The place that the spill engine takes for an image: the chip scratchpad's share first. (DESIGN CHOICE, log 20; DEDUCED, log 26.) -/
def State.storePlace (s : State) (part : Fin 16) (die n : Nat) : Option Nat × State :=
  let d := s.draw
  (((s.part part).stores die).findSome? (placeIn s.images n d.1), d.2)

/-- Hardware writes bytes: each word is stamped (R314) and no longer poisoned; full/empty bits stay. -/
def State.hardwareWrite (s : State) (key : Nat) (bs : List Byte) : State :=
  let ks := wordKeys key bs.length
  ({ s with mem := (ks.foldl (fun m k => m.setPoison k false) s.mem).writeBytes key bs } : State).hardwareStamp key bs.length

/-- Hardware reads bytes: a poisoned word reads as zero. -/
def State.hardwareRead (s : State) (key n : Nat) : List Byte :=
  (List.range n).map fun i => if s.mem.poisoned (key + i) then 0#8 else s.mem.byte (key + i)

end Sys2Proof.Machine
end

