-- ==== Sys2Proof/Machine/Iter.lean ====
section
/-! DEFINITION. The iteration fetcher, major 0x15 (R176 to R181), and `FENCE`, `FENCE.D` and `YIELD` (R92, R93). -/

namespace Sys2Proof.Machine

/-! ## The nest counter (R176) -/

def State.nest? (s : State) (r : LaunchRef) : Option Nest := (s.node? r).bind (·.nest)
def State.setNest (s : State) (r : LaunchRef) (n : Nest) : State := s.modifyNode r fun x => { x with nest := some n }

/-- A bound of the nest; a dimension at or beyond the rank has bound 1. -/
def Nest.bound (n : Nest) (d : Nat) : Nat := if d < n.ndim then n.bounds.getD d 1 else 1
/-- N0 × N1 × N2. -/
def Nest.total (n : Nest) : Nat := n.bound 0 * n.bound 1 * n.bound 2

/-- The cores that hold a strand of a launch that has not exited. -/
def State.coresOf (s : State) (r : LaunchRef) : List Nat :=
  ((s.strands.filter fun m => m.launch.part == r.part && m.launch.tag == r.tag && m.resident).map (·.core)).eraseDups

/-- Σw: the weights of the cores of a launch. -/
def State.weightSum (s : State) (r : LaunchRef) : Nat := (s.coresOf r).foldl (fun n c => n + s.clockMHz c) 0

/-- The chunk that a claim of weight `w` takes. -/
def chunk (rem w sum minchunk : Nat) : Nat :=
  min rem (min (2 ^ 32 - 1) (max minchunk ((rem * w + 2 * sum - 1) / (2 * sum))))

/-- Claim() of R177: the first index and the length of the chunk. -/
def State.claim (s : State) (r : LaunchRef) (n : Nest) : Nat × Nat × State :=
  let c := chunk n.rem (s.clockMHz s.me.core) (s.weightSum r) n.minchunk
  (n.next, c, s.setNest r { n with next := n.next + c, rem := n.rem - c })

/-- The indices of an iteration (R177). -/
def Nest.indices (n : Nest) (idx : Nat) : List Word :=
  ([idx / (n.bound 1 * n.bound 2), idx / n.bound 2 % n.bound 1, idx % n.bound 2].take n.ndim).map (BitVec.ofNat 64)

/-- Writes values to x, x + 1, …; code 12 discards them. -/
def Context.writeRunA (c : Context) (x : Reg) : List Word → Context
  | [] => c
  | v :: vs =>
    match x with
    | .a n => Context.writeRunA (c.write (.a n v)) (.a (n + 1)) vs
    | _ => c

/-- R177: whether the index registers would run past a11. -/
def indexOver (x : Reg) (n : Nat) : Bool :=
  match x with
  | .a k => 11 < k.val + n - 1
  | _ => false

/-- R177 without the renegotiation of `ITER.S`. -/
def iterStep (x : Reg) (pd : BitVec 4) (s : State) : State :=
  let r := s.me.launch
  match s.nest? r with
  | none => s.trap (s.wordTrap .illegalCombination)
  | some n =>
    let c := s.me.ctx
    let enter (s : State) (idx left last : Nat) : State :=
      s.done (({ c with acc := { c.acc with
        idx := BitVec.ofNat 64 idx, left := BitVec.ofNat 32 left, last := BitVec.ofNat 64 last } }.writeRunA x
          (n.indices idx)).write (.p pd true))
    if indexOver x n.ndim then s.trap (s.wordTrap .illegalCombination)
    else if c.acc.left = 0#32 ∨ n.known.contains s.me.core then
      match s.claim r n with
      | (first, k, t) =>
        if k = 0 then t.done ({ c with acc := { c.acc with left := 0#32 } }.write (.p pd false))
        else enter t first (k - 1) (first + k)
    else enter s (c.acc.idx.toNat + 1) (c.acc.left.toNat - 1) c.acc.last.toNat

/-- `ITER` (R177). -/
def execIter (g : Guard) (d : Reg) (pd : BitVec 4) (s : State) : Result :=
  .next (if s.me.ctx.holds g then iterStep d pd s else s.setNote .done)

/-- `ITER.S` (R177, R221). -/
def execIterS (g : Guard) (d : Reg) (pd : BitVec 4) (s : State) : Result :=
  .next (if s.me.ctx.holds g then
      let t := iterStep d pd s
      if t.me.note = .done then t.renegotiate else t
    else s.setNote .done)

/-- R178: a fetcher quantity. -/
def fetcherValue (which : Nat) (c : Context) (n : Nest) : Word :=
  match which with
  | 0 => c.acc.left.setWidth 64
  | 1 => if c.acc.last = 0#64 then BitVec.allOnes 64 else c.acc.idx
  | 2 => BitVec.ofNat 64 n.rem
  | _ => BitVec.ofNat 64 n.total

/-- `ITERQ` (R178). -/
def execIterq (g : Guard) (d : Reg) (which : BitVec 5) (s : State) : Result :=
  .next (if s.me.ctx.holds g then
      match s.nest? s.me.launch with
      | none => s.trap (s.wordTrap .illegalCombination)
      | some n => s.done (s.me.ctx.writeRunA d [fetcherValue which.toNat s.me.ctx n])
    else s.setNote .done)

/-- `ITERX` (R179): the cancellation reaches the other cores later. -/
def execIterx (g : Guard) (d : Reg) (s : State) : Result :=
  .next (if s.me.ctx.holds g then
      match s.nest? s.me.launch with
      | none => s.trap (s.wordTrap .illegalCombination)
      | some n =>
        let c := s.me.ctx
        (s.setNest s.me.launch { n with rem := 0, cancelled := true }).done
          ({ c with acc := { c.acc with left := 0#32 } }.writeRunA d [BitVec.ofNat 64 n.rem])
    else s.setNote .done)

/-! ## Fences and yields -/

/-- R315: the timestamp step of `FENCE` and `YIELD`. -/
def State.stepTs (s : State) : State := s.raiseTs (s.me.ts + 1)

/-- Whether the strand in turn has accesses to other packages that have not been acknowledged (R342). -/
def State.remotePending (s : State) : Bool := s.remoteOps.any fun r => r.sid == s.me.sid

/-- `FENCE` (R92): both halves stand at it, and every window closes. -/
def execFence (g : Guard) (s : State) : Result :=
  .next (s.guarded g fun s => s.together fun s => s.stepTs.done s.me.ctx.closeAll)

/-- R343: the largest timestamp of a strand whose `FENCE.D` has completed, those whose tick has come among them. -/
def State.fencesDone (s : State) : Nat :=
  s.strands.foldl (fun n m =>
    match m.wait with
    | some (.fenceD since) => if since < s.tick then max n m.ts else n
    | _ => n) s.fences

/-- `FENCE.D` (R92, R342, R343): it drains, acknowledgements included, and then parks until the next tick. (DEDUCED, log 96.) -/
def execFenceD (g : Guard) (s : State) : Result :=
  .next (s.guarded g fun s => s.together fun s =>
    if s.me.fencePast then
      let t := (s.stepTs.raiseTs (max s.rw s.fences)).done s.me.ctx.closeAll
      { t with me := { t.me with fencePast := false } }
    else if s.remotePending then s.block
    else (s.setCtx s.me.ctx.closeAll).park (.fenceD s.tick))

/-- Whether a strand is ready for a half (R161), as far as its last attempts tell: it is in the rotation, and neither a queue nor
the other half nor an engine holds that half. (DEDUCED, log 11.) -/
def Strand.readyOn (m : Strand) (h : Side) : Bool :=
  m.frame == .running && m.wait.isNone &&
    if m.deferred.head?.map (·.lag) = some h then m.heldLag.isNone
    else
      match m.note with
      | .held _ | .waits | .blocked | .stalled => false
      | _ => true

/-- R93: the yield set: the core's other strands that are ready on some half, with those halves. (DEDUCED, log 11.) -/
def State.yieldSetOf (s : State) : List (StrandId × Side) :=
  (s.strands.filter fun m => m.core == s.me.core && m.sid != s.me.sid).flatMap fun m =>
    ([.access, .execute].filter m.readyOn).map fun h => (m.sid, h)

/-- `YIELD` (R93). -/
def execYield (g : Guard) (s : State) : Result :=
  .next (s.guarded g fun s => s.together fun s =>
    let t := s.stepTs.setNote .done
    { t with me := { t.me with frame := .yielded, yieldSet := s.yieldSetOf } })

end Sys2Proof.Machine
end

