-- ==== Sys2Proof/Machine/Messages.lean ====
section
/-! DEFINITION. Messages: continuation ids, queues and offers (R9, R126 to R130, R344), and `SEND`, `CONT` and `WAITR`. -/

namespace Sys2Proof.Machine

/-! ## Continuations (R9, R126) -/

def contTag (c : Word) : Byte := c.extractLsb' 37 8
def contReg (c : Word) : BitVec 5 := c.extractLsb' 32 5
def contSid (c : Word) : StrandId := c.extractLsb' 0 32
/-- Whether a register code names an a- or a d-register. -/
def isRegCode (r : BitVec 5) : Bool := r.toNat < 12 || (16 ≤ r.toNat && r.toNat < 28)
/-- R127: whether a continuation names a register and a core at all. -/
def contOk (c : Word) : Bool := c.extractLsb' 45 19 == 0#19 && isRegCode (contReg c) && sidLocal (contSid c) < 384

/-- `CONT` (R126). -/
def contStep (x s1 : Reg) (s : State) : State :=
  match s.me.ctx.read .access s1 with
  | .error q => s.hold q
  | .ok (v, c) =>
    if v.extractLsb' 13 51 ≠ 0#51 ∨ isRegCode (v.extractLsb' 8 5) = false then s.trap (s.wordTrap .illegalInstruction)
    else s.attempt (c.writeReg .access 0 0 x (0#19 ++ v.extractLsb' 0 8 ++ v.extractLsb' 8 5 ++ s.me.sid))

/-- `CONT` (R126). -/
def execCont (x s1 : Reg) (s : State) : Result := .next (contStep x s1 s)

/-! ## Queues (R127, R128) -/

/-- Whether a selector of `WAITR` takes a message (R129). -/
def takes (sel : Word) (m : Message) : Bool := sel.getLsbD 8 || m.tag == sel.extractLsb' 0 8

/-- The register that a message names, written directly (R129). -/
def Context.writeCode (c : Context) (r : BitVec 5) (v : Word) : Context :=
  if h : r.toNat < 12 then c.write (.a ⟨r.toNat, h⟩ v)
  else if h : r.toNat - 16 < 12 then c.write (.d ⟨r.toNat - 16, h⟩ v)
  else c

/-- R129, R309, R344: the strand in turn takes a message; `end_` completes the instruction. -/
def State.takeMessage (s : State) (m : Message) (x : Reg) (end_ : Context → State → State) : State :=
  match (s.me.ctx.writeCode m.reg m.value).writeReg .access 0 0 x (m.sender.setWidth 64) with
  | .error q => s.hold q
  | .ok c =>
    let s := s.raiseTs (max m.stamp (if m.remote then s.rw else 0))
    end_ c { s with me := { s.me with inbox := s.me.inbox.erase m } }

/-- R166: a parked `WAITR` completes when a message that it takes has arrived. -/
def State.wakeReceiver (s : State) (sid : StrandId) : State :=
  s.as sid fun s =>
    match s.me.frame, s.me.wait with
    | .parked, some (.message sel x pops) =>
      match s.me.inbox.find? (takes sel) with
      | none => s
      | some m =>
        let b := s.me.ctx
        (s.setCtx (b.dropSq pops)).takeMessage m x fun c s => { s with me := ({ s.me with ctx := c } : Strand).leavePark b }
    | _, _ => s

/-- A message enters a receiver's queue. -/
def State.enqueue (s : State) (to_ : StrandId) (m : Message) : State :=
  (s.modify to_ fun t => { t with inbox := t.inbox ++ [m] }).wakeReceiver to_

/-- Where a `SEND` leads within the package (R127). -/
inductive Delivery where
  | accept
  | full
  /-- Dropped, and counted in the sender's record. -/
  | dropHere
  /-- Dropped, and counted in the record of the named core. -/
  | dropThere
  /-- Another package, which the routing table reaches. -/
  | away
  deriving DecidableEq, Repr

def State.routed (s : State) (die : Nat) (pkg : BitVec 10) : Bool := Tab.get 0#64 s.routes (die * 1024 + pkg.toNat) != 0#64

/-- R127: the fate of a message from a sender of a partition on a die. (DEDUCED, log 72.) -/
def State.fate (s : State) (part : Fin 16) (die : Nat) (c : Word) : Delivery :=
  let i := contSid c
  if contOk c = false then .dropHere
  else if sidPkg i ≠ s.pkg then (if s.routed die (sidPkg i) then .away else .dropHere)
  else if s.ownerOfCluster (clusterOfCore (sidCore i)) ≠ some part then .dropHere
  else
    match s.strand? i with
    | none => .dropThere
    | some m => if m.launch.part ≠ part then .dropHere else if 8 ≤ m.inbox.length then .full else .accept

/-- The message of a sender (R127). -/
def mkMessage (c value : Word) (sender : StrandId) (stamp : Nat) (remote : Bool) : Message :=
  { value := value, tag := contTag c, reg := contReg c, sender := sender, stamp := stamp, remote := remote }

/-- R127: what `SEND` does once its operands are read; `end_` completes the instruction. -/
def State.offer (s : State) (c value : Word) (pops : Nat) (end_ : State → State) : State :=
  let o := s.stampOrder
  match s.fate s.me.launch.part (dieOfCore s.me.core) c with
  | .accept => (end_ s).enqueue (contSid c) (mkMessage c value s.me.sid s.me.ts false)
  | .full => o.2.park (.send c value pops o.1)
  | .away => o.2.park (.send c value pops o.1)
  | .dropHere => (end_ s).count s.me.core msgDrop
  | .dropThere => (end_ s).count (sidCore (contSid c)) msgDrop

/-- `SEND` (R127): sc pops first, res second. (DEDUCED, log 70.) -/
def sendStep (y c : Reg) (s : State) : State :=
  match s.me.ctx.read .access c with
  | .error q => s.hold q
  | .ok (k, c1) =>
    match c1.read .access y with
    | .error q => s.hold q
    | .ok (v, c2) => s.offer k v (popsOf [y, c]) fun s => s.done c2

/-- `SEND` (R127). -/
def execSend (_la : BitVec 4) (y c : Reg) (s : State) : Result := .next (sendStep y c s)

/-- A parked `SEND` is over: the strand pops its operands and goes on. (DEDUCED, log 72.) -/
def State.endSend (s : State) (sid : StrandId) : State :=
  s.modify sid fun m =>
    match m.wait with
    | some (.send _ _ pops _) => ({ m with ctx := m.ctx.dropSq pops } : Strand).leavePark m.ctx
    | _ => m

/-- The parked senders on a receiver's queue, in the order in which they parked (R127); those of other packages carry no
timestamp. -/
def State.offersTo (s : State) (to_ : StrandId) : List (Nat × Message × Bool) :=
  let here := s.strands.filterMap fun m =>
    match m.frame, m.wait with
    | .parked, some (.send c v _ o) => if contSid c = to_ then some (o, mkMessage c v m.sid m.ts false, true) else none
    | _, _ => none
  let there := s.outsideOffers.filterMap fun o =>
    if contSid o.cont = to_ then some (o.order, mkMessage o.cont o.value o.sender 0 true, false) else none
  sortBy (fun a b => a.1 ≤ b.1) (here ++ there)

/-- The offer of a parked sender is over: it has been accepted or dropped. -/
def State.endOffer (s : State) (o : Nat × Message × Bool) : State :=
  if o.2.2 then s.endSend o.2.1.sender
  else { s with outsideOffers := s.outsideOffers.filter fun x => x.order != o.1 }

/-- R127: the queue of a receiver has a free place: the oldest parked offer is accepted. -/
def State.acceptOffer (s : State) (to_ : StrandId) : State :=
  match s.offersTo to_, s.strand? to_ with
  | o :: _, some r => if 8 ≤ r.inbox.length then s else (s.endOffer o).enqueue to_ o.2.1
  | _, _ => s

/-- `WAITR` (R129). -/
def waitrStep (x s1 : Reg) (s : State) : State :=
  match s.me.ctx.read .access s1 with
  | .error q => s.hold q
  | .ok (sel, c) =>
    if sel.extractLsb' 9 55 ≠ 0#55 then s.trap (s.wordTrap .illegalInstruction)
    else
      match s.me.inbox.find? (takes sel), c.writeReg .access 0 0 x 0#64 with
      | _, .error q => s.hold q
      | none, _ => s.park (.message sel x (popsOf [s1]))
      | some m, _ => ((s.setCtx c).takeMessage m x fun c s => s.done c).acceptOffer s.me.sid

/-- `WAITR` (R129): it waits for the other half. -/
def execWaitr (x s1 : Reg) (s : State) : Result := .next (s.together (waitrStep x s1))

end Sys2Proof.Machine
end

