-- ==== Sys2Proof/Machine/Frames.lean ====
section
/-! DEFINITION. Slots and frames (R159), `EXIT` and the end of a strand (R94, R128, R295, R347), pre-emption (R167), spill and restore (R168 to R171) and resumption (R172). -/

namespace Sys2Proof.Machine

/-! ## Lightness (R21) -/

/-- R21: whether the strand in turn is light. -/
def State.light (s : State) : Bool :=
  let m := s.me
  let c := m.ctx
  c.vec.w == 0 && c.acc.q.toList.all (fun r => !r.bound) &&
    ((List.range 8).all fun z => ((s.segment m.core).tile z).holder != some m.sid) &&
    m.unfinished == 0 && !m.batchUsed && c.queues.empty && !c.windowOpen && !m.sup &&
    m.deferred.isEmpty && m.undo.isNone

/-- R18: LIGHT as it stands at an instruction boundary. -/
def State.showLight (s : State) : State :=
  s.setCtx { s.me.ctx with sys := { s.me.ctx.sys with status := putBit s.me.ctx.sys.status lightBit s.light } }

/-! ## Slots, anchors and frames (R159) -/

/-- R391 step 4: the communication master of a cluster is its lowest passing core. -/
def masterCore (cluster : Nat) : Option Nat := ((List.range 8).map (8 * cluster + ·)).find? Config.passes

/-- The slots of a core that ordinary strands use: none of a core that has failed the self-test (R391) or had passed its
rated life when it was assigned (R355). (DEDUCED, log 27.) -/
def State.usableSlots (s : State) (core : Nat) : List Nat :=
  if Config.passes core && !(s.core core).barred then
    List.range (if masterCore (clusterOfCore core) = some core then 12 else 16)
  else []

/-- Whether the frame of a slot holds a strand, or a copy kept until an acknowledgement (R25). -/
def State.occupied (s : State) (core slot : Nat) : Bool :=
  s.strands.any fun m => (m.resident && m.core == core && m.slot == slot) || m.leaving == some (core, slot)

/-- Whether the anchor of a slot belongs to a strand (R23). -/
def State.anchored (s : State) (core slot : Nat) : Bool :=
  s.strands.any fun m => sidCore m.sid == core && sidSlot m.sid == slot

/-- The free frames of a core. -/
def State.freeFrames (s : State) (core : Nat) : List Nat := (s.usableSlots core).filter fun k => !s.occupied core k

/-! ## The end of a strand -/

/-- R128: a strand's messages and the offers to it are discarded and counted at its birth core. (DEDUCED, log 72.) -/
def State.dropMessages (s : State) (sid : StrandId) : State :=
  match s.strand? sid with
  | none => s
  | some m =>
    let core := sidCore sid
    let s := (s.offersTo sid).foldl (fun s o => (s.endOffer o).count core msgDrop) s
    m.inbox.foldl (fun s _ => s.count core msgDrop) s

/-- R375 step 4: a partition becomes PAUSED once no frame holds a strand of it. It leaves RUNNING, which ends its sessions
(R420). -/
def State.settlePause (s : State) (p : Fin 16) : State :=
  if (s.part p).pausing ∧ (s.part p).state = .running ∧
      !(s.strands.any fun m => m.launch.part == p && m.frame != .spilled) then
    (s.modifyPart p fun x => { x with state := .paused, pausing := false }).endSessions fun n => n == p.val
  else s

/-- R94 steps 4 and 5: a strand is gone: its claims, messages and memberships end, its node learns of it (R373), and its
slot's generation advances (R8). Tiles that jobs still write are freed after them (R268). (DEDUCED, log 30.) -/
def State.removeStrand (s : State) (sid : StrandId) : State :=
  match s.strand? sid with
  | none => s
  | some m =>
    let s := s.dropMessages sid
    let s := s.dropShort sid
    let s := s.clearLatch sid
    let s := m.memberOf.foldl (fun s e => s.endMembership m.launch sid e) s
    let s := s.modifyNode m.launch fun n =>
      { n with ended := n.ended + 1, stamp := m.batchStamps.foldl (fun t b => max t b.2) (max n.stamp m.ts) }
    let t : State := { s with
      gens := Tab.put 0 s.gens (anchorIdx sid) ((sidGen sid + 1) % 128)
      anchors := Tab.put none s.anchors (anchorIdx sid) none
      savedTiles := s.savedTiles.filter fun t => t.1 != sid
      resuming := s.resuming.filter fun r => r.1 != sid
      remoteOps := s.remoteOps.filter fun r => r.sid != sid || !returnsValue r.op
      others := s.others.filter fun t => t.sid != sid
      me := if s.me.sid = sid then Strand.absent else s.me }
    (t.freeAfterJobs sid).settlePause m.launch.part

/-- Whether a strand still has copies or matrix jobs (R94 step 3). -/
def State.strandBusy (s : State) (sid : StrandId) : Bool :=
  (s.copies.any fun c => c.origin.sid == sid) ||
    (s.matrix.any fun q => q.2.jobs.any fun j => j.origin.sid == sid)

/-- R295: the strand in turn disarms its triggers and seals the batch that it was filling. (DEDUCED, log 30.) -/
def State.drainCopies (s : State) : State :=
  let s := (s.triggersOf s.me.sid).foldl State.disarmCopy s
  if s.me.batchUsed ∧ s.me.unfinished < 15 then
    { s with me := { s.me with batchNext := s.me.batchNext + 1, batchUsed := false } }
  else s

/-- R94, once both halves stand at the `EXIT`: the iterations left are abandoned (R180). (DEDUCED, log 30.) -/
def exitStep (s : State) : State :=
  match s.me.ctx.closeAll.queues.first with
  | some q => s.trap ⟨.queueMisuse, q.code⟩
  | none =>
    let t := (s.setCtx s.me.ctx.closeAll).drainCopies
    if t.strandBusy t.me.sid then t.park .exit
    else
      let left := t.me.ctx.acc.left.toNat
      ((t.modifyNode t.me.launch fun n => { n with abandoned := n.abandoned + left }).setNote .done).removeStrand t.me.sid

/-- `EXIT` (R94). -/
def execExit (g : Guard) (s : State) : Result := .next (s.guarded g fun s => s.together exitStep)

/-! ## Pre-emption (R167) -/

/-- The boundary at which a pre-emption finds a strand (R167): both halves stand at one instruction, and the windows that end
before it are closed (R51). (DEDUCED, log 89.) -/
def Strand.atBoundary (m : Strand) : Strand :=
  let m := m.regroup
  { m with ctx := m.ctx.close m.pos }

/-- Whether a strand stands at a boundary at which a pre-emption takes effect: no window is open, or the strand is
parked, yielded or held; its access to another package is over (R341), and no trap comes first (R109). (DEDUCED, log 89.) -/
def Strand.yieldsNow (m : Strand) : Bool :=
  !m.unreported && m.pendingTrap.isNone && m.owed.isNone && m.parts.isEmpty && m.going.isEmpty &&
    match m.frame, m.wait with
    | .parked, _ | .yielded, _ => true
    | .running, some (.remote b) => b
    | .running, _ =>
      m.undo.isNone &&
        (!m.atBoundary.ctx.windowOpen || match m.note with
          | .held _ | .waits | .blocked | .stalled => true
          | _ => false)
    | _, _ => false

/-- What stays of a wait when the strand is pre-empted: an arrival counted (R351), a `FENCE.D` (R92), a job's wait form
(R259); every other wait is withdrawn (R124). (DEDUCED, log 89.) -/
def Wait.kept : Wait → Bool
  | .barrier _ _ _ arrived => arrived
  | .fenceD _ => true
  | .jobForm _ => true
  | _ => false

/-- R374: the effective priority of a graph. -/
def State.effective (s : State) (l : Launch) : Nat := min 3 (l.prio + (s.tick - l.lastStart) / 1000)

/-- The level of a strand's graph. -/
def State.levelOf (s : State) (r : LaunchRef) : Nat := ((s.launch? r.part r.tag).map s.effective).getD 0

/-- R351: a `BAR` or `BARA` that a barrier holds is withdrawn. -/
def State.withdrawHeld (s : State) (r : LaunchRef) (sid : StrandId) (es : List Nat) : State :=
  es.foldl (fun s e =>
    let g := s.group r e
    if g.held.any (fun h => h.sid == sid) then
      s.setGroup r e { g with held := g.held.filter fun h => h.sid != sid }
    else s) s

/-- R167: a pre-emption of a strand takes effect: it takes its place in the resume queue of its level (R173, R374). A window that
is open where the strand was parked, yielded or held stays with the context, so that what is read in it is what R49
says. (DEDUCED, log 89.) -/
def State.preemptNow (s : State) (sid : StrandId) : State :=
  match s.strand? sid with
  | none => s
  | some m =>
    let s := (s.withdrawHeld m.launch sid m.memberOf).clearLatch sid
    let stays := (m.wait.map Wait.kept).getD false
    let s := { s with remoteOps := s.remoteOps.filter fun r => r.sid != sid || !returnsValue r.op }
    let o := s.stampOrder
    (o.2.modify sid fun m =>
      { m.atBoundary with
        frame := .preempted, preempt := false, yieldSet := [], regionMet := false, note := .done, stay := false
        heldLag := none, heldLead := false, since := s.tick, queued := o.1
        wait := if stays then m.wait else none
        prio := s.levelOf m.launch }).as sid State.showLight

/-- A request reaches a strand: it takes effect at once, or at the strand's next fitting boundary. -/
def State.requestPreempt (s : State) (sid : StrandId) : State :=
  match s.strand? sid with
  | none => s
  | some m =>
    match m.frame with
    | .preempted | .spilled | .stopped => s
    | _ => if m.yieldsNow then s.preemptNow sid else s.modify sid fun m => { m with preempt := true }

/-- `PREEMPTION` (R167). -/
def execPreemption (sid : StrandId) (s : State) : Result := .next (s.requestPreempt sid)

/-- Whether a pre-empted strand could go on (R92, R259, R351). -/
def State.resumable (s : State) (m : Strand) : Bool :=
  (m.frame == .preempted || m.frame == .spilled) &&
    match m.wait with
    | none => true
    | some (.jobForm id) => s.jobOver id
    | some (.barrier e g _ _) => passed (s.group m.launch e).gen g
    | _ => false

/-- The saved tiles of a strand. -/
def State.savedOf (s : State) (sid : StrandId) : List (Nat × Tile) :=
  (s.savedTiles.filter fun t => t.1 == sid).map (·.2)

/-- Whether the scheduler may resume a strand: its partition runs, and its launch is not being killed. -/
def State.mayResume (s : State) (m : Strand) : Bool :=
  let p := s.part m.launch.part
  p.state == .running && !p.pausing && ((s.launch? m.launch.part m.launch.tag).map fun l => l.kill == .none).getD false

/-- The lanes owed to resumptions of a cluster that wait longer than a strand's. -/
def State.owedBefore (s : State) (sid : StrandId) (cluster : Nat) : Nat :=
  (s.resuming.takeWhile fun r => r.1 != sid).foldl (fun n r =>
    if clusterOfCore r.2 = cluster then n + ((s.strand? r.1).map fun m => m.ctx.vec.w).getD 0 else n) 0

/-- R172: whether a core has the tile numbers of a strand free, and whether it has the lanes. -/
def State.tilesFree (s : State) (m : Strand) (core : Nat) : Bool :=
  (s.savedOf m.sid).all fun t => ((s.segment core).tile t.1).holder.isNone
def State.lanesFree (s : State) (m : Strand) (core : Nat) : Bool :=
  s.owedBefore m.sid (clusterOfCore core) + m.ctx.vec.w ≤ s.freeLanes (clusterOfCore core)

/-- R172: whether a strand can resume on a core. -/
def State.takesBack (s : State) (m : Strand) (core : Nat) : Bool :=
  (s.part m.launch.part).ownsCluster (clusterOfCore core) && !(s.freeFrames core).isEmpty && s.tilesFree m core &&
    s.lanesFree m core

/-! ## The resume queues (R173) -/

/-- The ready strands of a partition that are pre-empted and may go on. -/
def State.waitingStrands (s : State) (p : Fin 16) : List Strand :=
  s.strands.filter fun m => m.launch.part == p && s.resumable m && s.mayResume m

/-- R173: whether a strand is the head of the resume queue of its level: the first that was put there. -/
def State.isHead (s : State) (m : Strand) : Bool :=
  (s.waitingStrands m.launch.part).all fun x => x.prio != m.prio || m.queued ≤ x.queued

/-- The cores of a partition. -/
def State.coresOfPart (s : State) (p : Fin 16) : List Nat :=
  (List.range 1536).filter fun c => (s.part p).ownsCluster (clusterOfCore c)

/-- R173: a spilled head of a resume queue for which no core meets R172. -/
def State.stuckHeads (s : State) (p : Fin 16) : List Strand :=
  (s.waitingStrands p).filter fun x =>
    x.frame == .spilled && s.isHead x && !(s.coresOfPart p).any (s.takesBack x)

/-- Whether a strand that occupies a frame holds what another needs to resume there. -/
def State.holdsFor (s : State) (m x : Strand) : Bool :=
  m.resident && m.launch.part == x.launch.part && m.sid != x.sid &&
    ((s.freeFrames m.core).isEmpty || (0 < m.ctx.vec.w && !s.lanesFree x m.core) ||
      (s.savedOf x.sid).any fun t => ((s.segment m.core).tile t.1).holder == some m.sid)

/-- Whether a strand has run a quantum since it last entered its frame. -/
def State.quantumOver (s : State) (m : Strand) : Bool :=
  (m.frame == .running || m.frame == .parked || m.frame == .yielded) &&
    m.since + (s.part m.launch.part).quantum ≤ s.tick

/-- R173: whether a strand is pre-empted for the head of a resume queue that finds no core: strands of the same level or lower
come first. -/
def State.givesWay (s : State) (m : Strand) : Bool :=
  s.quantumOver m && (s.stuckHeads m.launch.part).any fun x =>
    s.holdsFor m x && (m.prio ≤ x.prio || !s.strands.any fun y => y.prio ≤ x.prio && s.quantumOver y && s.holdsFor y x)

/-- `QUANTUM_EXPIRY` (R173). -/
def quantumExpiry (sid : StrandId) (s : State) : State :=
  match s.strand? sid with
  | none => s
  | some m => if s.givesWay m then s.requestPreempt sid else s

/-- `QUANTUM_EXPIRY` (R173). -/
def execQuantumExpiry (sid : StrandId) (s : State) : Result := .next (quantumExpiry sid s)

/-! ## Spill and restore (R168 to R171) -/

/-- The tiles that a strand holds in its core's segment, in increasing number. -/
def State.tilesOf (s : State) (m : Strand) : List (Nat × Tile) :=
  (List.range 8).filterMap fun z =>
    let t := (s.segment m.core).tile z
    if t.holder = some m.sid then some (z, t) else none

/-- R168, R277: whether jobs write a strand's tiles, or copies name its lane slices. -/
def State.spillWaits (s : State) (sid : StrandId) : Bool :=
  (s.copies.any fun c => c.origin.sid == sid && (c.lss || c.lsd)) ||
    (s.matrix.any fun q => q.2.jobs.any fun j => j.origin.sid == sid && j.kind.writesTile)

/-- R169, R175, R220: whether a frame that a pre-empted strand holds is needed: for a resumption, a migration or a new strand of
a higher level, or because the partition pauses (R375). What a waiting resumption lacks may be lanes or tiles that the strand
holds (R173). (DEDUCED, log 95.) -/
def State.frameNeeded (s : State) (m : Strand) : Bool :=
  let full := (s.freeFrames m.core).isEmpty
  (s.part m.launch.part).pausing ||
    (full && s.strands.any fun x => x.frame == .inbox && x.target == m.core) ||
    (full && s.launches.any fun l => l.part == m.launch.part && l.kill == .none && m.prio < s.effective l &&
      l.nodes.any fun n => n.state == .running && (match n.kind with
        | .kernel _ _ _ _ count _ _ => n.created < count
        | _ => false)) ||
    (s.waitingStrands m.launch.part).any fun x => x.frame == .spilled && s.isHead x && s.holdsFor m x

/-- R169, R170: a context whose frame is needed is written to the store; its frame, lanes and tiles are free, and its shortfall
is gone (R220). An image that stands there still,
because its restore has not begun, is not written again. -/
def State.spill (s : State) (sid : StrandId) : State :=
  match s.strand? sid with
  | none => s
  | some m =>
    if m.frame ≠ .preempted ∨ s.spillWaits sid ∨ s.frameNeeded m = false then s
    else if m.image.isSome then
      (((s.freeTiles m.core sid).dropShort sid).modify sid fun m => { m with frame := .spilled }).settlePause m.launch.part
    else
      let ts := s.tilesOf m
      let img := fullImage m ts
      match s.storePlace m.launch.part (dieOfCore m.core) img.length with
      | (none, s) => s
      | (some k, s) =>
        let s := ((s.hardwareWrite k img).freeTiles m.core sid).dropShort sid
        let s := { s with savedTiles := s.savedTiles ++ ts.map fun (t : Nat × Tile) => (sid, t.1, t.2) }
        (s.modify sid fun m => { m with frame := .spilled, image := some k, imageOldest := m.batchOldest }).settlePause
          m.launch.part

/-- `SPILL` (R169). -/
def execSpill (sid : StrandId) (s : State) : Result := .next (s.spill sid)

/-- The strand in turn has its frame back: it runs, or ends the wait that it had kept. -/
def State.reenter (s : State) : State :=
  match s.me.wait with
  | some (.jobForm id) => ({ s with me := { s.me with frame := .running } } : State).endJobForm s.me.sid id
  | some (.barrier e g x _) => s.wakeBarrier e g x
  | _ => { s with me := { s.me with frame := .running } }

/-- A strand continues in its frame (R172). -/
def State.continueIn (s : State) (sid : StrandId) : State :=
  (s.modify sid fun m => { m with since := s.tick, note := .done }).as sid State.reenter

/-- `RESTORE` (R171): an image that the CRCs accept gives the context back; another stops the strand. Batches that have finished
since advance OLDEST (R168, R283). -/
def restoreStep (sid : StrandId) (s : State) : State :=
  match s.strand? sid with
  | none => s
  | some m =>
    match m.frame, m.image with
    | .preempted, some k =>
      if s.mayResume m = false then s else
      let ts := s.savedOf sid
      let img := fullImage { m with batchOldest := m.imageOldest } ts
      let bs := s.hardwareRead k img.length
      if bs ≠ img ∧ imageOk m ts bs = false then
        (s.count m.core restoreCrc).stopStrand sid 0 0#64 m.pc
      else
        let same := bs = img
        let m' := if same then m else m.ofImage bs
        let g := ts.zipIdx.foldl (fun (g : Segment) (t : (Nat × Tile) × Nat) =>
          g.setTile t.1.1 (if same then t.1.2 else Tile.ofImage sid m.ctx.vec.w t.1.1 t.2 bs)) (s.segment m.core)
        let s := s.setSegment m.core g
        let s := { s with savedTiles := s.savedTiles.filter fun t => t.1 != sid }
        ((s.modify sid fun _ => { m' with image := none }).advanceBatches sid).continueIn sid
    | _, _ => s

/-- `RESTORE` (R171). -/
def execRestore (sid : StrandId) (s : State) : Result := .next (restoreStep sid s)

/-! ## Resumption (R172) -/

/-- R173: whether the head of a resume queue of a higher level needs what a strand would take or keep. -/
def State.outranked (s : State) (m : Strand) (core : Nat) : Bool :=
  (s.waitingStrands m.launch.part).any fun x =>
    m.prio < x.prio && x.frame == .spilled && s.isHead x &&
      (if m.frame = .spilled then s.takesBack x core else s.holdsFor m x)

/-- `RESUME` (R172, R173): the head of a resume queue goes on in place, or takes the first free frame, lanes and tiles of the
named core, which the image then fills. A strand that lacks only lanes waits for them (R220). (DEDUCED, log 95; DESIGN CHOICE, log 107.) -/
def resumeStep (sid : StrandId) (core : Nat) (s : State) : State :=
  match s.strand? sid with
  | none => s
  | some m =>
    if s.mayResume m = false ∨ s.resumable m = false ∨ s.isHead m = false ∨ s.outranked m core then s
    else if m.frame = .preempted then
      (if m.image.isNone ∧ core = m.core then s.continueIn sid else s)
    else
      match s.freeFrames core with
      | [] => s
      | slot :: _ =>
        if (s.part m.launch.part).ownsCluster (clusterOfCore core) = false ∨ s.tilesFree m core = false then s
        else if s.lanesFree m core = false then
          (if s.resuming.any (fun r => r.1 == sid) then s else { s with resuming := s.resuming ++ [(sid, core)] })
        else
          let g := (s.savedOf sid).foldl (fun (g : Segment) t => g.setTile t.1 { holder := some sid }) (s.segment core)
          let s := s.setSegment core g
          let s := { s with resuming := s.resuming.filter fun r => r.1 != sid }
          (s.modify sid fun m => { m with frame := .preempted, core := core, slot := slot }).placeOn m.launch core

/-- `RESUME` (R172). -/
def execResume (sid : StrandId) (core : Nat) (s : State) : Result := .next (resumeStep sid core s)

/-! ## The bound of R173 -/

/-- The ticks within which a ready strand is resumed (R173). -/
def resumeBound : Nat := 50

/-- Whether the bound of R173 has come for a strand, counted from its pre-emption or from the request that resumed its
partition (R363). -/
def State.overdue (s : State) (m : Strand) : Bool :=
  s.resumable m && s.mayResume m && max m.since (s.part m.launch.part).resumedAt + resumeBound ≤ s.tick

/-- R173: a strand whose bound has come is resumed, in place or on the first core that meets R172; where none does, strands that
have run a quantum give way. (DEDUCED, log 95.) -/
def State.serve (s : State) (m : Strand) : State :=
  if m.frame = .preempted then
    if m.image.isSome then restoreStep m.sid s else resumeStep m.sid m.core s
  else
    match (s.coresOfPart m.launch.part).find? (s.takesBack m) with
    | some c => restoreStep m.sid (resumeStep m.sid c s)
    | none => s.strands.foldl (fun s y => quantumExpiry y.sid s) s

/-- R173: every strand whose bound has come is served, in the order of the queues. (DEDUCED, log 95.) -/
def State.serveOverdue (s : State) : State :=
  (sortBy (fun a b => a.queued ≤ b.queued) (s.strands.filter s.overdue)).foldl (fun s m => s.serve m) s

end Sys2Proof.Machine
end

