-- ==== Sys2Proof/Machine/Movement.lean ====
section
/-! DEFINITION. Migration at its destination (R22, R25, R174, R175), messages from other packages (R127), wakes (R165, R166), the end of a `YIELD` and of a `FENCE.D` (R93, R342), and the traps at waits that the hardware finds (R16, R183). -/

namespace Sys2Proof.Machine

/-- A 16-bit count that saturates (R101). -/
def sat16Succ (n : BitVec 16) : BitVec 16 := if n = 0xFFFF#16 then n else n + 1

/-! ## Migration -/

/-- R174: the images that wait in a core's inbox. -/
def State.inboxLoad (s : State) (core : Nat) : Nat := (s.strands.filter fun m => m.frame == .inbox && m.target == core).length

/-- `MIGRATION_INBOX_ARRIVAL` (R174): an image is refused for a full inbox or a failed CRC, or accepted; the strand has
then left its source core, which keeps its copy until the acknowledgement (R25). (DEDUCED, log 31.) -/
def inboxArrival (sid : StrandId) (crcOk : Bool) (s : State) : State :=
  match s.strand? sid with
  | none => s
  | some m =>
    if m.frame ≠ .flight ∨ m.refusal.isSome then s
    else if 2 ≤ s.inboxLoad m.target then s.modify sid fun m => { m with refusal := some true }
    else if crcOk = false then s.modify sid fun m => { m with refusal := some false }
    else (s.clearLatch sid).modify sid fun m => { m with frame := .inbox, leaving := some (m.core, m.slot) }

/-- `MIGRATION_INBOX_ARRIVAL` (R174). -/
def execMigrationInboxArrival (sid : StrandId) (crcOk : Bool) (s : State) : Result := .next (inboxArrival sid crcOk s)

/-- R26: a strand takes what its anchor record keeps; its trap registers read as zero. -/
def Strand.fromAnchor (m : Strand) (a : Anchor) : Strand :=
  let c := m.ctx
  { m with
    ctx := { c with
      acc := { c.acc with poisonCnt := a.poisonCnt, migrated := a.migrated, refused := a.refused }
      vec := { c.vec with tag := a.tags }
      sys := { status := c.sys.status, scratch := a.scratch } }
    batchNext := a.batchNext
    batchOldest := a.batchNext }

/-- R101, R22: MIG is set and MIGRATED counts. -/
def Strand.migrated (m : Strand) : Strand :=
  let c := m.ctx
  { m with ctx := { c with
      acc := { c.acc with migrated := sat16Succ c.acc.migrated }
      sys := { c.sys with status := putBit c.sys.status migBit true } } }

/-- The anchor record of a strand. -/
def State.anchorOf (s : State) (m : Strand) : Anchor := (Tab.get none s.anchors (anchorIdx m.sid)).getD m.anchor

/-- `MIGRATION_INSTALL` (R174): the strand runs in the first free frame of the destination. (DESIGN CHOICE, log 107.) -/
def migrationInstall (sid : StrandId) (s : State) : State :=
  match s.strand? sid with
  | none => s
  | some m =>
    match m.frame, s.freeFrames m.target with
    | .inbox, slot :: _ =>
      (s.modify sid fun m =>
        { (m.fromAnchor (s.anchorOf m)).migrated with
          frame := .running, core := m.target, slot := slot, unreported := true, since := s.tick, note := .done }).placeOn
        m.launch m.target
    | _, _ => s

/-- `MIGRATION_INSTALL` (R174). -/
def execMigrationInstall (sid : StrandId) (s : State) : Result := .next (migrationInstall sid s)

/-- `MIGRATION_ACK` (R25): the source frees its copy. -/
def execMigrationAck (sid : StrandId) (s : State) : Result := .next (s.modify sid fun m => { m with leaving := none })

/-- `MIGRATION_REFUSAL` (R25, R175): the strand returns to its source core and performs the access remotely. A full inbox
counts in REFUSED, a failed CRC in the source core's record. (DEDUCED, log 31.) -/
def migrationRefusal (sid : StrandId) (s : State) : State :=
  match s.strand? sid with
  | none => s
  | some m =>
    match m.frame, m.refusal with
    | .flight, some full =>
      let s := if full then s else s.count m.core migCrc
      s.modify sid fun m =>
        let c := m.ctx
        { m with
          ctx := if full then { c with acc := { c.acc with refused := sat16Succ c.acc.refused } } else c
          frame := .running, refusal := none, stay := true, note := .done }
    | _, _ => s

/-- `MIGRATION_REFUSAL` (R25). -/
def execMigrationRefusal (sid : StrandId) (s : State) : Result := .next (migrationRefusal sid s)

/-- `MIGRATION_INBOX_TIMEOUT` (R175): an image without a free frame goes to the context store as a pre-empted, ready
strand. -/
def inboxTimeout (sid : StrandId) (s : State) : State :=
  match s.strand? sid with
  | none => s
  | some m =>
    if m.frame ≠ .inbox ∨ s.freeFrames m.target ≠ [] then s
    else
      let o := s.stampOrder
      let s := o.2
      let m' := { m.fromAnchor (s.anchorOf m) with
        core := m.target, frame := .spilled, leaving := none, unreported := true, note := .done
        since := s.tick, queued := o.1, prio := s.levelOf m.launch }
      let img := fullImage m' []
      match s.storePlace m.launch.part (dieOfCore m.target) img.length with
      | (none, s) => s
      | (some k, s) => (s.hardwareWrite k img).modify sid fun _ => { m' with image := some k, imageOldest := m'.batchOldest }

/-- `MIGRATION_INBOX_TIMEOUT` (R175). -/
def execMigrationInboxTimeout (sid : StrandId) (s : State) : Result := .next (inboxTimeout sid s)

/-- `ARRIVAL_REPORT` (R23): requests that the birth core held reach the strand. -/
def execArrivalReport (sid : StrandId) (s : State) : Result := .next (s.modify sid fun m => { m with unreported := false })

/-! ## Messages and waits -/

/-- `MESSAGE_DELIVERY` (R127): a message of another package's sender. A full queue leaves it an offer there. -/
def messageDelivery (part : Fin 16) (cont value : Word) (sender : StrandId) (s : State) : State :=
  let to_ := contSid cont
  if sidPkg to_ ≠ s.pkg then s
  else
    match s.fate part (sidDie to_) cont with
    | .accept => s.enqueue to_ (mkMessage cont value sender 0 true)
    | .full =>
      let o := s.stampOrder
      { o.2 with outsideOffers := o.2.outsideOffers ++ [⟨o.1, part, cont, value, sender⟩] }
    | .dropThere => s.count (sidCore to_) msgDrop
    | _ => s

/-- `MESSAGE_DELIVERY` (R127). -/
def execMessageDelivery (part : Fin 16) (cont value : Word) (sender : StrandId) (s : State) : Result :=
  .next (messageDelivery part cont value sender s)

/-- `WORD_WAIT_REPRESENT` (R165): the home tests the word as it accepts the wait. -/
def wordWaitRepresent (sid : StrandId) (s : State) : State :=
  match s.strand? sid with
  | none => s
  | some m =>
    match m.frame, m.wait with
    | .parked, some (.word key va minor dbl x la v none) =>
      let full : Bool := match homeCore key with
        | some h => 64 ≤ s.tableLoad h
        | none => false
      if full then s
      else if mustWait s.mem key (feSize dbl) (feOp minor v) then
        let o := s.stampOrder
        o.2.modify sid fun m => { m with wait := some (.word key va minor dbl x la v (some o.1)) }
      else (s.completeWait sid).1.wake s.mem (wordKeys key (feSize dbl))
    | _, _ => s

/-- `WORD_WAIT_REPRESENT` (R165). -/
def execWordWaitRepresent (sid : StrandId) (s : State) : Result := .next (wordWaitRepresent sid s)

/-- R166: the strand in turn, parked, completes its wait or re-enters the rotation to test it again. -/
def State.wakeMe (s : State) : State :=
  match s.me.frame, s.me.wait with
  | .parked, some (.jobForm id) => if s.jobOver id then s.endJobForm s.me.sid id else s
  | .parked, some (.barrier e g x true) => s.wakeBarrier e g x
  | .parked, some (.message ..) => s.wakeReceiver s.me.sid
  | .parked, some (.region ws _) =>
    if s.me.regionMet || ws.any (2 ^ 52 ≤ ·) then { s with me := s.me.retry } else s
  | .parked, some (.word ..) | .parked, some (.send ..) | .parked, some (.fenceD _) | .parked, some (.remote _) => s
  | .parked, some _ => { s with me := s.me.retry }
  | _, _ => s

/-- `WAKE` (R166). -/
def execWake (sid : StrandId) (s : State) : Result := .next (s.as sid State.wakeMe)

/-- `YIELD_REENTRY` (R93). -/
def execYieldReentry (sid : StrandId) (s : State) : Result :=
  .next (s.modify sid fun m => if m.frame = .yielded ∧ m.yieldSet = [] then { m with frame := .running } else m)

/-- R92, R342: a `FENCE.D` completes at the first tick after its drain. A strand that is away takes the step when it
resumes. Its timestamp rises past every strand's whose `FENCE.D` has completed (R343). (DEDUCED, log 96.) -/
def fenceDCompletion (sid : StrandId) (s : State) : State :=
  match s.strand? sid with
  | none => s
  | some m =>
    match m.wait with
    | some (.fenceD since) =>
      if s.tick ≤ since then s
      else
        let s : State := { s with fences := s.fencesDone }
        if m.frame = .parked then
          s.as sid fun s =>
            let t := s.stepTs.raiseTs (max s.rw s.fences)
            { t with me := t.me.leavePark t.me.ctx }
        else s.modify sid fun m => { m with wait := none, undo := none, fencePast := true }
    | _ => s

/-- `FENCE_D_COMPLETION` (R342). -/
def execFenceDCompletion (sid : StrandId) (s : State) : Result := .next (fenceDCompletion sid s)

/-! ## Traps that the hardware finds -/

/-- `QUEUE_MISUSE_DETECT` (R16): the oldest held instruction waits on a queue, and so does the half that leads. (DEDUCED, log 9.) -/
def queueMisuse (sid : StrandId) (s : State) : State :=
  s.as sid fun s =>
    match s.me.deferred, s.me.heldLag with
    | d :: ds, some q =>
      if s.me.heldLead ∧ s.me.frame = .running then
        ({ s with me := { s.me with issue := d.issue, undo := some d, deferred := ds } } : State).trap ⟨.queueMisuse, q.code⟩
      else s
    | _, _ => s

/-- `QUEUE_MISUSE_DETECT` (R16). -/
def execQueueMisuseDetect (sid : StrandId) (s : State) : Result := .next (queueMisuse sid s)

/-- The members of a group of a node that have not exited. -/
def State.membersOf (s : State) (r : LaunchRef) (e : Nat) : List Strand :=
  s.strands.filter fun m => m.launch == r && m.memberOf.contains e

/-- R182, R398: whether a member is parked, on anything but a `FENCE.D`; an `LDF` or `LDE` of another package's memory parks at
its home. (DESIGN CHOICE, log 88.) -/
def Strand.stuck (m : Strand) : Bool :=
  match m.frame, m.wait with
  | .running, some (.remote waits) => waits
  | .parked, some (.fenceD _) | .parked, some (.remote _) | .parked, none => false
  | .parked, some _ => true
  | _, _ => false

/-- The words on which a parked strand waits. -/
def Strand.waitedWords (m : Strand) : List Nat :=
  match m.wait with
  | some (.word key _ _ dbl ..) => feWords key (feSize dbl)
  | some (.arrival key ..) => [key]
  | some (.region ws aw) => ws ++ (aw.map (·.1)).toList
  | _ => []

/-- Whether a copy that is under way writes one of some words, or signals an arrival word among them. -/
def State.copyReaches (s : State) (c : Copy) (ws : List Nat) : Bool :=
  let at_ (a : Nat) : Bool :=
    match s.engineLocate c.origin (BitVec.ofNat 64 a) {} with
    | .ok pl => ws.contains (pl.key / 4 * 4)
    | .error _ => false
  (!c.lsd && c.todo.any fun p => p.any fun b => at_ b.1) ||
    match c.signal with
    | .arrival va => at_ va
    | _ => false

/-- Whether `n` bytes that engine work writes from an address on hold one of some words. -/
def State.rangeReaches (s : State) (o : Origin) (va : Word) (n : Nat) (ws : List Nat) : Bool :=
  !ws.isEmpty && (List.range ((n + 3) / 4)).any fun i =>
    match s.engineLocate o (va + BitVec.ofNat 64 (4 * i)) {} with
    | .ok pl => ws.contains (pl.key / 4 * 4)
    | .error _ => false

/-- Whether a routing call delivers into one of some words: its results, or the rows and arrival words of an expert that it
scatters to (R428 to R434). -/
def State.routeReaches (s : State) (c : RouteCall) (ws : List Nat) : Bool :=
  s.rangeReaches c.origin c.desc.out (c.desc.ntok * c.desc.yrb) ws || s.rangeReaches c.origin c.desc.status 128 ws ||
    s.routers.any fun r => r.2.experts.any fun e =>
      e.handle == c.desc.handle && e.seq == c.seq &&
        (s.rangeReaches e.origin e.buf (e.cap * e.rb) ws || s.rangeReaches e.origin e.ablk 64 ws)

/-- Whether a collective call delivers into one of some words (R407). -/
def State.collReaches (s : State) (c : CollCall) (ws : List Nat) : Bool :=
  s.rangeReaches c.origin c.block.dst (8 * c.block.count) ws || s.rangeReaches c.origin c.block.res (8 * c.block.count) ws ||
    s.rangeReaches c.origin c.block.status 192 ws

/-- R182: whether engine work addressed to some strands is accepted and not yet delivered. An armed trigger is none. (DESIGN CHOICE, log 88.) -/
def State.inFlight (s : State) (ms : List Strand) : Bool :=
  let mine (sid : StrandId) : Bool := ms.any fun m => m.sid == sid
  let ws := ms.flatMap Strand.waitedWords
  (s.copies.any fun c =>
    (match c.state with
      | .armed .. => false
      | _ => true) && (mine c.origin.sid || s.copyReaches c ws)) ||
    (s.matrix.any fun q => q.2.jobs.any fun j => mine j.origin.sid) ||
    (s.routeCalls.any fun c => mine c.origin.sid || s.routeReaches c ws) ||
    (s.masters.any fun x => x.2.calls.any fun c => mine c.origin.sid || s.collReaches c ws)

/-- R182: whether a group is quiescent, but for the 2^20 core cycles. (DESIGN CHOICE, log 88.) -/
def State.quiescent (s : State) (r : LaunchRef) (e : Nat) : Bool :=
  let ms := s.membersOf r e
  !ms.isEmpty && ms.all Strand.stuck && !s.inFlight ms

/-- Whether a strand is the member of a group with the lowest id. -/
def State.lowest (s : State) (r : LaunchRef) (e : Nat) (sid : StrandId) : Bool :=
  (s.membersOf r e).all fun m => sid.toNat ≤ m.sid.toNat

/-- R103, R351: a `BAR` that has arrived and now traps has arrived nowhere. -/
def State.withdrawArrival (s : State) (m : Strand) : State :=
  match m.wait with
  | some (.barrier e _ _ true) =>
    let g := s.group m.launch e
    if g.arrived.contains m.sid then s.setGroup m.launch e { g with arrived := g.arrived.erase m.sid, arr := g.arr - 1 } else s
  | _ => s

/-- `QUIESCENT_DEADLOCK` (R183): the trap waits for the lowest member of the lowest quiescent group. (DESIGN CHOICE, log 88.) -/
def quiescentDeadlock (sid : StrandId) (group : BitVec 8) (s : State) : State :=
  match s.strand? sid with
  | none => s
  | some m =>
    let found := m.memberOf.find? fun e => s.quiescent m.launch e && s.lowest m.launch e sid
    if found = some group.toNat ∧ m.pendingTrap = none then
      (s.withdrawArrival m).modify sid fun m => m.raiseAtWait 0x10 (group.setWidth 64)
    else s

/-- `QUIESCENT_DEADLOCK` (R183). -/
def execQuiescentDeadlock (sid : StrandId) (group : BitVec 8) (s : State) : Result := .next (quiescentDeadlock sid group s)

end Sys2Proof.Machine
end

