-- ==== Sys2Proof/Machine/GraphImage.lean ====
section
/-! DEFINITION. Graph images (R368, R370, R371): what a node's bytes say, and the validation before any node runs. -/

namespace Sys2Proof.Machine

/-- Whether every byte from 0x18 to 0x7F outside the listed fields (offset, size) is zero (R370). -/
def restZero (bs : List Byte) (used : List (Nat × Nat)) : Bool :=
  (List.range 104).all fun i =>
    bs.getD (0x18 + i) 0#8 == 0#8 || used.any fun u => u.1 ≤ 0x18 + i && 0x18 + i < u.1 + u.2

/-- R370, R176: the bounds of a kernel node's nest counter. -/
def nestOk (ndim minchunk : Nat) (bounds : List Nat) : Bool :=
  if ndim = 0 then minchunk == 0 && bounds.all (· == 0)
  else
    ndim ≤ 3 && 1 ≤ minchunk && minchunk ≤ 65536 && bounds.all (fun n => 1 ≤ n && n ≤ 2 ^ 32) &&
      (bounds.drop ndim).all (· == 1) && bounds.foldl (· * ·) 1 ≤ 2 ^ 48

/-- R370: what a node of a type and number of successors does, where its bytes are legal. -/
def nodeKind (ty nsucc : Nat) (bs : List Byte) : Option NodeKind :=
  let f := fieldOf bs
  let w (off : Nat) : Word := BitVec.ofNat 64 (f off 8)
  let legal (used : List (Nat × Nat)) (ok : Bool) (k : NodeKind) : Option NodeKind :=
    if restZero bs used && ok then some k else none
  match ty with
  | 0 =>
    let bounds := [f 0x30 8, f 0x38 8, f 0x40 8]
    legal [(0x18, 0x39)] (1 ≤ f 0x48 4 && f 0x48 4 ≤ 24576 && nestOk (f 0x50 1) (f 0x4C 4) bounds)
      (.kernel (w 0x18) (w 0x20) (w 0x28) bounds (f 0x48 4) (f 0x4C 4) (f 0x50 1))
  | 1 => legal [(0x18, 0x1A)] true (.copy (w 0x18) (w 0x20) (w 0x28) (f 0x30 2))
  | 2 => legal [(0x18, 0x0A)] true (.collective (w 0x18) (f 0x20 2))
  | 3 => legal [(0x18, 8)] true (.route (w 0x18))
  | 4 => legal [(0x18, 0x11)] (f 0x28 1 < 12 && nsucc == 2) (.conditional (w 0x18) (w 0x20) (BitVec.ofNat 4 (f 0x28 1)))
  | 5 => legal [(0x18, 0x10)] true (.loop (w 0x18) (f 0x20 4) (f 0x24 2) (f 0x26 2))
  | 6 => legal [(0x18, 8)] true (.switch (w 0x18))
  | 7 => legal [] true .join
  | _ => none

/-- R368: a node of 128 bytes, of a graph of `n` nodes. -/
def parseNode (n : Nat) (bs : List Byte) : Option Node :=
  let f := fieldOf bs
  let nsucc := f 2 1
  let succ := (List.range 8).map fun i => f (8 + 2 * i) 2
  if zeroField bs 3 5 && nsucc ≤ 8 && (succ.take nsucc).all (· < n) && (succ.drop nsucc).all (· == 0xFFFF) then
    (nodeKind (f 0 1) nsucc bs).map fun k => { kind := k, npred := f 1 1, succ := succ.take nsucc }
  else none

/-! ## The shape of the graph -/

/-- Whether a node lists another as a successor. -/
def edge (ns : List Node) (u v : Nat) : Bool := ((ns[u]?).map fun x => x.succ.contains v).getD false

/-- The predecessors of a node. -/
def preds (ns : List Node) (v : Nat) : List Nat := (List.range ns.length).filter fun u => edge ns u v

/-- Nodes are struck off while no node left has them as a successor. -/
def strike (ns : List Node) : Nat → List Nat → List Nat
  | 0, left => left
  | k + 1, left => strike ns k (left.filter fun v => left.any fun u => edge ns u v)

def acyclic (ns : List Node) : Bool := (strike ns ns.length (List.range ns.length)).isEmpty

/-- The body of a loop node. -/
def loopBody (ns : List Node) (l : Nat) : Option (Nat × Nat) :=
  match (ns[l]?).map fun (x : Node) => x.kind with
  | some (.loop _ _ a b) => some (a, b)
  | _ => none

def inBody (b : Nat × Nat) (v : Nat) : Bool := b.1 ≤ v && v ≤ b.2

/-- The loop nodes whose body holds a node. -/
def loopsOf (ns : List Node) (v : Nat) : List Nat :=
  (List.range ns.length).filter fun l => ((loopBody ns l).map fun b => inBody b v).getD false

/-- R371: the rules for the body of a loop node. -/
def bodyOk (ns : List Node) (l : Nat) (b : Nat × Nat) : Bool :=
  let all := List.range ns.length
  b.1 ≤ b.2 && b.2 < ns.length && !inBody b l && preds ns b.1 == [l] &&
    (((ns[b.2]?).map fun x => x.succ.isEmpty).getD false) &&
    (all.all fun u => all.all fun v =>
      !edge ns u v || inBody b u == inBody b v || (u == l && v == b.1)) &&
    all.all fun k =>
      match loopBody ns k with
      | some c => k == l || (if inBody b k then inBody b c.1 && inBody b c.2 else !(inBody b c.1 || inBody b c.2) ||
          inBody c l)
      | none => true

/-- R368: the validation of a graph. -/
def graphOk (ns : List Node) : Bool :=
  let all := List.range ns.length
  (all.all fun v => ((ns[v]?).map fun x => x.npred == (preds ns v).length).getD false) && acyclic ns &&
    all.all fun l => ((loopBody ns l).map (bodyOk ns l)).getD true

/-- R368: the graph that an image holds; `node i` gives the bytes of node i. (DEDUCED, log 32.) -/
def parseGraph (header : List Byte) (node : Nat → List Byte) : Option (List Node) :=
  let n := fieldOf header 0 2
  if 1 ≤ n ∧ n ≤ 4096 ∧ zeroField header 2 62 then
    match (List.range n).mapM fun i => parseNode n (node i) with
    | some ns => if graphOk ns then some ns else none
    | none => none
  else none

/-- R20, R370: whether a membership word is legal. -/
def membOk (w : Word) : Bool :=
  let m (i : Nat) : BitVec 16 := w.extractLsb' (16 * i) 16
  let valid (i : Nat) : Bool := (m i).getLsbD 15
  (List.range 4).all fun i =>
    (if valid i then (m i).extractLsb' 8 7 == 0#7 else m i == 0#16) &&
      (i == 0 || !valid i || (valid (i - 1) && ((m (i - 1)).extractLsb' 0 8).toNat < ((m i).extractLsb' 0 8).toNat))

/-- The group indexes of a membership word. -/
def membGroups (w : Word) : List Nat :=
  (List.range 4).filterMap fun i =>
    let m := w.extractLsb' (16 * i) 16
    if m.getLsbD 15 then some (m.extractLsb' 0 8).toNat else none

end Sys2Proof.Machine
end

