-- ==== Sys2Proof/Machine/Replay.lean ====
section
/-! DEFINITION. The instructions of the recorder, major 0x3A (R331 to R334), and the arrival of pushes (R327). -/

namespace Sys2Proof.Machine

/-- The recorder of the core that the strand in turn occupies. (DEDUCED, log 24.) -/
def State.recorder (s : State) : Recorder := s.myCore.recorder
/-- Whether it serves the strand's launch. -/
def State.recServes (s : State) : Bool := s.recorder.serves == some s.me.launch

/-- R332: a loop word. -/
def loopOk (c : Word) : Bool := c.extractLsb' 48 16 != 0#16 && !c.getLsbD 0

/-- R332: the recorder starts a Dawn pass for the strand's launch. -/
def State.startDawn (s : State) (loop : Word) : State :=
  let o := s.stampOrder
  o.2.modifyRecorder s.me.core fun _ => { state := .dawn, serves := some s.me.launch, loop := loop, epoch := o.1 + 1 }

/-- R332. -/
def State.recordStep (s : State) (loop : Word) : Bool × State :=
  let r := s.recorder
  if s.myCore.recctl.getLsbD 0 = false then (false, s)
  else if r.state ≠ .idle ∧ s.recServes = false then (false, s)
  else if (r.state = .dawn ∨ r.state = .daylight) ∧ r.loop = loop then (true, s)
  else (true, s.startDawn loop)

/-- `RECORD` (R332). -/
def execRecord (pd : BitVec 4) (c : Reg) (s : State) : Result :=
  .next (s.command c fun v c1 =>
    if loopOk v = false then s.trap s.bad
    else let r := s.recordStep v; r.2.ansPred c1 pd r.1)

/-- R333. -/
def State.replayStep (s : State) : Bool × State :=
  let r := s.recorder
  if r.state = .idle ∨ s.recServes = false then (false, s)
  else if r.state = .daylight then (true, s)
  else
    let o := s.stampOrder
    (true, o.2.modifyRecorder s.me.core fun r =>
      { r with state := .daylight, depMiss := 0, depStore := 0, depEvict := 0, auto := false, epoch := o.1 + 1 })

/-- `REPLAY` (R333). -/
def execReplay (pd : BitVec 4) (s : State) : Result := .next (s.replayStep.2.ansPred s.me.ctx pd s.replayStep.1)

/-- `RPSTOP` (R333). -/
def execRpstop (s : State) : Result :=
  .next ((if s.recServes ∧ (s.recorder.state = .dawn ∨ s.recorder.state = .daylight) then
      s.modifyRecorder s.me.core fun r => { r with state := .stopped }
    else s).setNote .done)

def RecState.code : RecState → BitVec 2
  | .idle => 0#2
  | .dawn => 1#2
  | .daylight => 2#2
  | .stopped => 3#2

/-- R334: the status word. -/
def recStatus (r : Recorder) (same : Bool) : Word :=
  0#48 ++ BitVec.ofNat 9 r.entries.length ++ 0#3 ++ BitVec.ofBool r.auto ++ BitVec.ofBool same ++ r.state.code

/-- R325: the words of an entry. -/
def RecEntry.word0 (e : RecEntry) : Word := 1#1 ++ 0#7 ++ BitVec.ofNat 8 e.count ++ e.pc
def RecEntry.word1 (e : RecEntry) : Word :=
  BitVec.ofNat 5 (e.len - 1) ++ BitVec.ofNat 5 e.first ++ BitVec.ofNat 11 e.cons ++ BitVec.ofNat 43 e.line

/-- R334: the quantity of a selector; nothing where the table has none. -/
def recQuantity (r : Recorder) (same : Bool) (i : Nat) : Option Word :=
  let own (n : Nat) : Option Word := some (if same then BitVec.ofNat 64 n else 0#64)
  match i with
  | 0 => some (recStatus r same)
  | 1 => own r.notes
  | 2 => own r.noteOvf
  | 3 => own r.pushes
  | 4 => own r.pushUsed
  | 5 => own r.pushDrop
  | 6 => own r.depMiss
  | 7 => own r.depStore
  | 8 => own r.depEvict
  | 9 => own r.loop.toNat
  | i =>
    if 0x100 ≤ i ∧ i < 0x300 then
      match r.entries[(i - 0x100) / 2]? with
      | none => some 0#64
      | some e => own (if i % 2 = 0 then e.word0 else e.word1).toNat
    else none

/-- `RPSTAT` (R334). -/
def execRpstat (x which : Reg) (s : State) : Result :=
  .next (s.command which fun v c =>
    match recQuantity s.recorder s.recServes v.toNat with
    | none => s.trap s.bad
    | some w => s.attempt (c.writeReg .access 0 0 x w))

/-! ## Pushes (R327) -/

/-- R327: the span merged of a held one and a push, where they are contiguous and do not overlap. (DESIGN CHOICE, log 78.) -/
def mergeSpans (x p : Span) : Option Span :=
  let join (a b : Span) : Span :=
    { a with
      words := a.words ++ b.words, wts := max a.wts b.wts, rts := min a.rts b.rts, homes := a.homes ++ b.homes
      pushed := a.pushed ++ b.pushed }
  if x.priv then none
  else if x.first + x.words.length = p.first then some (join x p)
  else if p.first + p.words.length = x.first then some (join p x)
  else none

/-- R327: whether a demand miss on a line is outstanding at a core: the reply of a strand's last load may not have come yet. (DESIGN CHOICE, log 78.) -/
def State.missOutstanding (s : State) (core line : Nat) : Bool × State :=
  if s.strands.any fun m => m.core == core && m.missed == some line then
    let d := s.draw
    (d.1 % 2 == 1, d.2)
  else (false, s)

/-- R336: whether a launch has been quiesced by a kill, or is no more. -/
def State.quiescedLaunch (s : State) (l : LaunchRef) : Bool :=
  match s.launch? l.part l.tag with
  | some x => x.kill == .quiesced
  | none => true

/-- R327, R336: a push reaches the L1 of its consumer. -/
def State.installPush (s : State) (p : Push) : State :=
  let c := p.consumer
  let d := s.missOutstanding c p.span.line
  let s := d.2
  if s.recording c p.launch .daylight = false ∨ s.quiescedLaunch p.launch ∨ d.1 then
    s.modifyRecorder p.producer fun r => { r with pushDrop := sat32 (r.pushDrop + 1) }
  else
    match (s.core c).spans.find? (fun x => x.line == p.span.line) with
    | none => s.installSpan c p.span
    | some x =>
      match mergeSpans x p.span with
      | some m => s.installSpan c m
      | none => (s.evictPushed c fun y => y.line == p.span.line).installSpan c p.span

/-- `PUSH_ARRIVAL` (R327): the oldest push. -/
def pushArrival (s : State) : State :=
  match s.pushes with
  | [] => s
  | p :: r => ({ s with pushes := r } : State).installPush p

/-- `PUSH_ARRIVAL` (R327). -/
def execPushArrival (s : State) : Result := .next (pushArrival s)

/-- R323, R336: the recorders that serve a node go idle when its launch completes or is killed. (DEDUCED, log 24.) -/
def State.idleRecorders (s : State) (r : LaunchRef) : State :=
  (s.cores.filter fun x => x.2.recorder.serves == some r).foldl (fun s x =>
    s.modifyRecorder x.1 fun k => { k with state := .idle, serves := none, entries := [] }) s

end Sys2Proof.Machine
end

