-- ==== Sys2Proof/Machine/Graph.lean ====
section
/-! DEFINITION. Work queues and launches (R366, R367), the graph engine (R369 to R373) and the creation of strands (R14, R373). -/

namespace Sys2Proof.Machine

/-! ## Where a graph's work is done -/

/-- R370, R378: the lowest cluster of a partition. -/
def Partition.lowestCluster (p : Partition) : Nat := ((List.range 192).find? p.ownsCluster).getD 0

/-- For whom the graph engine of a partition works. -/
def State.graphOrigin (s : State) (r : LaunchRef) (root : Word) : Origin :=
  ⟨Strand.absent.sid, r, 8 * (s.part r.part).lowestCluster, root⟩

/-- Whether the scheduler of a partition starts nodes, strands and fetches (R375). -/
def Partition.starts (p : Partition) : Bool := p.state == .running && !p.pausing

/-! ## The completion record (R369) -/

def Launch.record (l : Launch) (tick : Nat) : List Byte :=
  bytesOf 2 l.tag.toNat ++ bytesOf 1 l.status ++ bytesOf 1 0 ++ bytesOf 2 l.failing.toNat ++ bytesOf 2 0 ++
    bytesOf 4 l.firstStopped.toNat ++ bytesOf 4 l.stoppedCount ++
    bytesOf 8 (l.nodes.foldl (fun n x => n + x.abandoned) 0) ++ bytesOf 8 l.start ++ bytesOf 8 tick ++ bytesOf 24 0

/-- Engine writes of bytes of host memory. -/
def State.hostStore (s : State) (iova : Nat) (bs : List Byte) : State :=
  (cutWords iova bs).foldl (fun s p =>
    match p with
    | [] => s
    | (a, _) :: _ => (s.engineWrite (hostKey a) false (p.map fun x => (x.1 % 4, x.2))).1) s

/-- R379: the MSI-X vectors of a virtual function. -/
def vfVectors : Nat := 32

/-- R369: the record is written, and then the MSI-X raised, where the function has the vector (R379). (DEDUCED, log 97.) -/
def State.sendCompletion (s : State) (l : Launch) : State :=
  let bs := l.record s.tick
  let s :=
    if l.flags.getLsbD 0 then s.hostStore l.compl.toNat bs
    else
      match s.engineStoreBytes (s.graphOrigin { part := l.part, tag := l.tag } l.root) l.compl bs with
      | .ok (t, _) => t
      | .error _ => s
  if l.flags.getLsbD 1 ∧ l.vec.toNat < vfVectors then { s with host := { s.host with msix := s.host.msix ++ [(l.vf, l.vec)] } } else s

/-- A launch is over: its record is written, and nothing of it is left (R323, R369). -/
def State.endLaunch (s : State) (l : Launch) : State :=
  let s := s.sendCompletion l
  let s := (List.range l.nodes.length).foldl (fun s v => s.idleRecorders { part := l.part, tag := l.tag, node := v }) s
  { s with launches := s.launches.filter fun x => !(x.part == l.part && x.tag == l.tag) }

/-! ## Work queues (R366) -/

def State.queue (s : State) (q : Nat) : WorkQueue := Tab.get {} s.queues q
def State.setQueue (s : State) (q : Nat) (w : WorkQueue) : State := { s with queues := Tab.put {} s.queues q w }

/-- The partition that owns a work queue. -/
def State.ownerOfQueue (s : State) (q : Nat) : Option (Fin 16) := (List.finRange 16).find? fun n => (s.part n).ownsQueue q

/-- R387: in recovery the device takes nothing but a new image. -/
def State.unlessRecovery (s : State) (f : State → State) : State := if s.always.recovery then s else f s

/-- `DOORBELL` (R366). (DESIGN CHOICE, log 99.) -/
def doorbell (q : BitVec 11) (tail : Word32) (s : State) : State :=
  s.unlessRecovery fun s =>
    let w := s.queue q.toNat
    let o := s.stampOrder
    let bells := if w.bells.any fun b => b.1 == tail then w.bells else w.bells ++ [(tail, o.1)]
    o.2.setQueue q.toNat { w with tail := tail, bells := bells.filter fun b => 0 < (b.1 - w.head).toInt }.checked

/-- `DOORBELL` (R366). -/
def execDoorbell (q : BitVec 11) (tail : Word32) (s : State) : Result := .next (doorbell q tail s)

/-- `VF_RESET` (R364): the queues bound to the function stop. -/
def vfReset (vf : BitVec 7) (s : State) : State :=
  s.unlessRecovery fun s =>
    { s with queues := (s.queues.map fun (x : Nat × WorkQueue) =>
        (x.1, if x.2.bind = vf then { x.2 with en := false } else x.2)).filter fun x => x.2 != {} }

/-- `VF_RESET` (R364). -/
def execVfReset (vf : BitVec 7) (s : State) : Result := .next (vfReset vf s)

/-- Whether a queue may fetch for its partition (R366): enabled, of a legal size, bound to a function of the partition, not
empty, with no graph under way, and its ring in reach. -/
def State.fetches (s : State) (p : Fin 16) (q : Nat) (w : WorkQueue) : Bool :=
  (s.part p).starts && w.en && 4 ≤ w.logn.toNat && w.logn.toNat ≤ 16 && (s.part p).ownsVf w.bind.toNat &&
    w.head != w.tail && !(s.launches.any fun l => l.part == p && l.queue == q) &&
    (w.ondev || !s.host.linkDown)

/-- The place of the record that a queue fetches next. -/
def WorkQueue.recordAt (w : WorkQueue) : Nat :=
  w.ring.toNat / 64 * 64 + 64 * (w.head.toNat % 2 ^ w.logn.toNat)

/-- R367: the launch of a record, without its graph. -/
def launchOf (p : Fin 16) (q : Nat) (w : WorkQueue) (tick : Nat) (bs : List Byte) : Launch :=
  { part := p, tag := BitVec.ofNat 16 (fieldOf bs 0x18 2), queue := q, vf := w.bind.toNat
    root := BitVec.ofNat 64 (fieldOf bs 8 8), compl := BitVec.ofNat 64 (fieldOf bs 0x10 8)
    prio := fieldOf bs 0x1A 1 % 4, flags := BitVec.ofNat 8 (fieldOf bs 0x1B 1)
    vec := BitVec.ofNat 16 (fieldOf bs 0x1C 2), nodes := [], start := tick, lastStart := tick, order := w.order }

/-- R367: whether the reserved bits of a record are zero. -/
def recordOk (bs : List Byte) : Bool := fieldOf bs 0x1A 1 < 4 && fieldOf bs 0x1B 1 < 4 && zeroField bs 0x1E 34

/-- R368: the graph at a physical address, as the graph engine reads it once; nothing where it is malformed or leaves the
partition's memory. -/
def State.readGraph (s : State) (p : Fin 16) (pa : Nat) : Option (List Node) :=
  let header := s.hardwareRead (hbmKey pa) 64
  let size := 64 + 128 * fieldOf header 0 2
  if (s.part p).ownsPa pa ∧ (s.part p).ownsPa (pa + size - 1) ∧ pa / 2 ^ 32 = (pa + size - 1) / 2 ^ 32 then
    parseGraph header fun i => s.hardwareRead (hbmKey (pa + 64 + 128 * i)) 128
  else none

/-- `LAUNCH_RECORD_FETCH` (R366 to R368). (DEDUCED, log 32.) -/
def launchRecordFetch (q : BitVec 11) (s : State) : State :=
  let w := s.queue q.toNat
  match s.ownerOfQueue q.toNat with
  | none => s
  | some p =>
    if s.fetches p q.toNat w = false ∨ (w.ondev ∧ (s.part p).ownsPa w.recordAt = false) then s
    else
      let r := s.engineReadWords (if w.ondev then hbmKey w.recordAt else hostKey w.recordAt) 16
      let bs := wordBytes r.1
      let s := r.2.setQueue q.toNat w.next
      let l := launchOf p q.toNat w s.tick bs
      if recordOk bs = false ∨ (s.launch? p l.tag).isSome then s.sendCompletion { l with status := 3 }
      else
        match s.readGraph p (fieldOf bs 0 8) with
        | none => s.sendCompletion { l with status := 3 }
        | some ns =>
          { s with launches := s.launches ++ [{ l with nodes := ns }], revoked := s.revoked.filter (· != (p, l.tag)) }

/-- `LAUNCH_RECORD_FETCH` (R367). -/
def execLaunchRecordFetch (q : BitVec 11) (s : State) : Result := .next (launchRecordFetch q s)

/-! ## The order of nodes (R372, R373) -/

def Node.over (n : Node) : Bool := n.state == .completed || n.state == .skipped
def nodeOver (ns : List Node) (v : Nat) : Bool := ((ns[v]?).map Node.over).getD false
def nodeIn (ns : List Node) (v : Nat) (st : NodeState) : Bool := ((ns[v]?).map fun n => n.state == st).getD false

/-- Whether an iteration of a loop node has begun, and the loop has not ended (R371). -/
def looping (ns : List Node) (l : Nat) : Bool :=
  ((ns[l]?).map fun n => n.state == .running && n.created != 0).getD false

/-- R372: whether a node may run. -/
def eligible (ns : List Node) (v : Nat) : Bool :=
  match ns[v]? with
  | none => false
  | some n =>
    let ps := preds ns v
    n.state == .waiting && (loopsOf ns v).all (looping ns) &&
      ((loopsOf ns v).any (fun l => ((loopBody ns l).map fun b => b.1 == v).getD false) || n.npred == 0 ||
        (ps.all (nodeOver ns) && ps.any fun u => nodeIn ns u .completed))

/-- R372: nodes all of whose predecessors were skipped are skipped. (DEDUCED, log 34.) -/
def spreadSkips : Nat → List Node → List Node
  | 0, ns => ns
  | k + 1, ns =>
    spreadSkips k (ns.mapIdx fun v (n : Node) =>
      if n.state = .waiting ∧ n.npred ≠ 0 ∧ (preds ns v).all fun u => nodeIn ns u .skipped then { n with state := .skipped }
      else n)

/-- The largest stamp of a node's predecessors, and of its body where it is a loop (R373). -/
def stampBefore (ns : List Node) (v : Nat) : Nat :=
  let body := match loopBody ns v with
    | some b => (List.range ns.length).filter (inBody b)
    | none => []
  (preds ns v ++ body).foldl (fun t u => max t (((ns[u]?).map fun (n : Node) => n.stamp).getD 0)) 0

/-- A node completes; the successors that it does not choose are skipped. (DEDUCED, log 34.) -/
def finishNode (ns : List Node) (v : Nat) (chosen : Option Nat) : List Node :=
  let t := stampBefore ns v
  let out : List Nat := match chosen, ns[v]? with
    | some c, some n => n.succ.filter (· != c)
    | _, _ => []
  let ns := ns.mapIdx fun u (n : Node) =>
    if u = v then { n with state := .completed, chosen := chosen, stamp := max n.stamp t }
    else if out.contains u ∧ n.state = .waiting then { n with state := .skipped } else n
  spreadSkips ns.length ns

def State.finishNode (s : State) (r : LaunchRef) (chosen : Option Nat) : State :=
  s.modifyLaunch r.part r.tag fun l => { l with nodes := Machine.finishNode l.nodes r.node chosen }

/-- R370, R376: a node fails and the launch is killed. (DEDUCED, log 32.) -/
def State.failNode (s : State) (r : LaunchRef) (status : Nat) : State :=
  s.modifyLaunch r.part r.tag fun l =>
    { l with
      status := if l.status = 0 then status else l.status
      failing := if l.failing = 0xFFFF#16 then BitVec.ofNat 16 r.node else l.failing
      kill := if l.kill = .none then .requested else l.kill }

/-! ## Starting a node -/

/-- R374: among the graphs of a partition with a ready node, whether a launch comes first. -/
def State.comesFirst (s : State) (l : Launch) : Bool :=
  s.launches.all fun x =>
    x.part != l.part || x.tag == l.tag || x.kill != .none ||
      !((List.range x.nodes.length).any (eligible x.nodes)) ||
      s.effective x < s.effective l || (s.effective x == s.effective l && l.order ≤ x.order)

/-- R370: a node reads, and issues its command, as a strand's instruction would, from a core of its unit. -/
def nodeStrand (r : LaunchRef) (core ts : Nat) (a : List Word) : Strand :=
  { Strand.absent with
    launch := r, core := core, ts := ts, frame := .running
    ctx := { acc := { a := Vector.ofFn fun i => a.getD i.val 0#64 } } }

/-- Runs instructions as a node; the strand in turn keeps its turn. -/
def State.asNode (s : State) (m : Strand) (f : State → Result) : Option (Strand × State) :=
  match f { s with me := m, others := s.me :: s.others } with
  | .next t =>
    match t.others with
    | x :: rest => some (t.me, { t with me := x, others := rest })
    | [] => none
  | _ => none

/-- One instruction after another, where the first is done. -/
def andThen (f g : State → Result) (s : State) : Result :=
  match f s with
  | .next t => if t.me.note = .done then g t else .next t
  | r => r

/-- A node that has issued its command runs; one whose command was turned away waits; one whose checks failed fails. -/
def State.issued (s : State) (r : LaunchRef) (res : Option (Strand × State)) (ok : Strand → State → Option EngineRef) :
    State :=
  match res with
  | none => s
  | some (m, t) =>
    if m.note = .trapped then t.failNode r 4
    else if m.note ≠ .done then s
    else
      match ok m t with
      | none => s
      | some e => t.modifyNode r fun n => { n with state := .running, command := some e, stamp := max n.stamp m.ts }

/-- 64-bit words from an address, as a node's strand loads them; the node keeps the timestamp (R373). -/
def State.nodeLoads (s : State) (m : Strand) (va : Word) (n : Nat) : Option (List Nat × State) :=
  match ({ s with me := m, others := s.me :: s.others } : State).plainLoads va 8 n with
  | .error _ => none
  | .ok (vs, t) =>
    match t.others with
    | x :: rest =>
      some (vs, ({ t with me := x, others := rest } : State).modifyNode m.launch fun n => { n with stamp := max n.stamp t.me.ts })
    | [] => none

/-- R346, R370: the groups of a kernel node: how many of its strands belong to each. -/
def groupsOf (memb : List Word) : Tab Group :=
  memb.foldl (fun t w => (membGroups w).foldl (fun (t : Tab Group) g =>
    let x := Tab.get {} t g
    Tab.put {} t g { x with live := x.live + 1 }) t) []

/-- R370, R176: a kernel node starts. -/
def State.startKernel (s : State) (r : LaunchRef) (memb : List Word) (bounds : List Nat) (minchunk ndim : Nat) : State :=
  s.modifyNode r fun n =>
    { n with
      state := .running, memb := memb, groups := groupsOf memb
      nest := if ndim = 0 then none
        else some { bounds := bounds, ndim := ndim, minchunk := minchunk, rem := (bounds.take ndim).foldl (· * ·) 1, next := 0 } }

/-- R370: what a node does as it starts. (DEDUCED, log 33.) -/
def State.startNode (s : State) (l : Launch) (r : LaunchRef) (n : Node) : State :=
  let home := 8 * (s.part l.part).lowestCluster
  let ts := stampBefore l.nodes r.node
  let owns (k : Nat) : Bool := (s.part l.part).ownsCluster k
  let plain := nodeStrand r home ts []
  match n.kind with
  | .kernel _ _ memb bounds count minchunk ndim =>
    if memb = 0#64 then s.startKernel r [] bounds minchunk ndim
    else
      match s.nodeLoads plain memb count with
      | none => s.failNode r 4
      | some (vs, t) =>
        let ws := vs.map (BitVec.ofNat 64)
        if ws.all membOk then t.startKernel r ws bounds minchunk ndim else t.failNode r 3
  | .copy qd qs ctl k =>
    if owns k = false then s.failNode r 4
    else
      s.issued r (s.asNode (nodeStrand r (8 * k) ts [qd, qs, ctl])
          (andThen (execQld 0#4 (.a 0)) (andThen (execQld 1#4 (.a 1)) (execCpy 1#4 0#4 1#4 (.a 2)))))
        fun m t => if m.ctx.pred 1#4 then t.copies.getLast?.map fun c => .copy c.id else none
  | .collective pb k =>
    if owns k = false then s.failNode r 4
    else s.issued r (s.asNode (nodeStrand r (8 * k) ts [pb]) (execColl (.a 1) (.a 0)))
      fun m _ => some (.coll m.ctx.acc.a[1])
  | .route desc =>
    s.issued r (s.asNode (nodeStrand r home ts [desc]) (execRoute (.a 1) (.a 0))) fun m _ => some (.route m.ctx.acc.a[1])
  | .conditional addr value cond =>
    match s.nodeLoads plain addr 1 with
    | none => s.failNode r 4
    | some (vs, t) =>
      let i := if condHolds cond (BitVec.ofNat 64 (vs.headD 0)) value then 0 else 1
      t.finishNode r n.succ[i]?
  | .switch addr =>
    match s.nodeLoads plain addr 1 with
    | none => s.failNode r 4
    | some (vs, t) => t.finishNode r n.succ[min (vs.headD 0) (n.succ.length - 1)]?
  | .loop .. => s.modifyNode r fun n => { n with state := .running, created := 0 }
  | .join => s.finishNode r none

/-- A node of a launch that is not being killed, of a partition that runs. -/
def State.liveNode (s : State) (r : LaunchRef) : Option (Launch × Node) :=
  match s.launch? r.part r.tag with
  | none => none
  | some l =>
    if (s.part r.part).starts = false ∨ l.kill ≠ .none then none
    else
      match l.nodes[r.node]? with
      | none => none
      | some n => some (l, n)

/-- `NODE_START` (R372, R374). (DEDUCED, log 33.) -/
def nodeStart (r : LaunchRef) (s : State) : State :=
  match s.liveNode r with
  | none => s
  | some (l, n) =>
    if eligible l.nodes r.node = false ∨ s.comesFirst l = false then s
    else
      (s.startNode l r n).modifyLaunch r.part r.tag fun x =>
        if nodeIn x.nodes r.node .waiting then x else { x with lastStart := s.tick }

/-- `NODE_START` (R372). -/
def execNodeStart (part : Fin 16) (tag : BitVec 16) (node : Nat) (s : State) : Result :=
  .next (nodeStart ⟨part, tag, node⟩ s)

/-! ## Completing a node -/

/-- Whether a node's command is over, with its error: a collective that folds late members in completes (R412). (DEDUCED, log 35.) -/
def Node.commandEnd (n : Node) : Option Nat :=
  match n.command, n.result with
  | some (.coll _), some 5 => some 0
  | some _, r => r
  | none, _ => none

/-- `NODE_COMPLETE` (R370, R372). (DEDUCED, log 35.) -/
def nodeComplete (r : LaunchRef) (s : State) : State :=
  match s.liveNode r with
  | none => s
  | some (_, n) =>
    if n.state ≠ .running then s
    else
      match n.kind with
      | .kernel _ _ _ _ count _ _ => if n.created = count ∧ n.ended = count then s.finishNode r none else s
      | .loop .. => s
      | _ =>
        match n.commandEnd with
        | none => s
        | some 0 => s.finishNode r none
        | some _ => s.failNode r 4

/-- `NODE_COMPLETE` (R372). -/
def execNodeComplete (part : Fin 16) (tag : BitVec 16) (node : Nat) (s : State) : Result :=
  .next (nodeComplete ⟨part, tag, node⟩ s)

/-- R371: a node of a body at the beginning of an iteration. -/
def Node.again (n : Node) : Node :=
  { n with state := .waiting, created := 0, ended := 0, groups := [], nest := none, chosen := none, command := none
           result := none, memb := [] }

/-- R371: the body is reset, and its first node may start. -/
def State.iterate (s : State) (r : LaunchRef) (b : Nat × Nat) : State :=
  s.modifyLaunch r.part r.tag fun l =>
    { l with nodes := l.nodes.mapIdx fun v (n : Node) =>
        if v = r.node then { n with created := n.created + 1 } else if inBody b v then n.again else n }

/-- `LOOP_ITERATION` (R371): a loop node tests its condition, before its first iteration and after each. (DEDUCED, log 34.) -/
def loopIteration (r : LaunchRef) (s : State) : State :=
  match s.liveNode r with
  | none => s
  | some (l, n) =>
    match n.kind with
    | .loop addr count a b =>
      if n.state ≠ .running ∨ (n.created ≠ 0 ∧ nodeOver l.nodes b = false) then s
      else if addr = 0#64 then (if n.created = count then s.finishNode r none else s.iterate r (a, b))
      else
        let home := 8 * (s.part l.part).lowestCluster
        match s.nodeLoads (nodeStrand r home (stampBefore l.nodes r.node) []) addr 1 with
        | none => s.failNode r 4
        | some (vs, t) => if vs.headD 0 = 0 then t.finishNode r none else t.iterate r (a, b)
    | _ => s

/-- `LOOP_ITERATION` (R371). -/
def execLoopIteration (part : Fin 16) (tag : BitVec 16) (node : Nat) (s : State) : Result :=
  .next (loopIteration ⟨part, tag, node⟩ s)

/-- R372: whether a graph has ended. (DEDUCED, log 34.) -/
def graphOver (ns : List Node) : Bool :=
  (List.range ns.length).all fun v => nodeOver ns v || (!(loopsOf ns v).isEmpty && (loopBody ns v).isNone)

/-- `GRAPH_COMPLETION` (R369, R372). -/
def graphCompletion (part : Fin 16) (tag : BitVec 16) (s : State) : State :=
  match s.launch? part tag with
  | none => s
  | some l => if l.kill = .none ∧ graphOver l.nodes then s.endLaunch l else s

/-- `GRAPH_COMPLETION` (R369). -/
def execGraphCompletion (part : Fin 16) (tag : BitVec 16) (s : State) : Result := .next (graphCompletion part tag s)

/-! ## Strands (R14, R373) -/

/-- The slots of a core whose anchor and frame are free. -/
def State.freeSlots (s : State) (core : Nat) : List Nat := (s.freeFrames core).filter fun k => !s.anchored core k

/-- The cores of a partition. -/
def Partition.cores (p : Partition) : List Nat :=
  ((List.range 192).filter p.ownsCluster).flatMap fun k => (List.range 8).map (8 * k + ·)

/-- R373: the core with the most free frames, the lowest of equal ones, of those with a free slot. (DEDUCED, log 29.) -/
def State.creationCore (s : State) (p : Fin 16) : Option Nat :=
  let cs := ((s.part p).cores.filter fun c => !(s.freeSlots c).isEmpty).map fun c => ((s.freeFrames c).length, c)
  (cs.foldl (fun (best : Option (Nat × Nat)) x =>
    match best with
    | none => some x
    | some b => if b.1 < x.1 then some x else best) none).map (·.2)

/-- R14, R18, R20, R101, R345, R373: a new strand. (DEDUCED, log 29.) -/
def newStrand (s : State) (r : LaunchRef) (n : Node) (l : Launch) (core slot : Nat) (entry a0 : Word) (count : Nat) :
    Strand :=
  let w := n.memb.getD n.created 0#64
  let ngrp := (membGroups w).length
  { sid := mkSid s.pkg core slot (Tab.get 0 s.gens (core * 16 + slot))
    ctx := {
      acc := { a := (Vector.replicate 12 0#64).set 0 a0 }
      sys := { status := 0x2000#16 ||| BitVec.ofNat 16 (8 * ngrp) } }
    pc := entry &&& ~~~1#64
    ts := max (s.core core).pclk (max (stampBefore l.nodes r.node) s.rw)
    groups := Vector.ofFn fun i => w.extractLsb' (16 * i.val) 16
    core := core, slot := slot, launch := r
    rank := BitVec.ofNat 32 n.created, count := BitVec.ofNat 32 count
    prio := s.effective l, since := s.tick }

/-- `STRAND_CREATE` (R373): any free slot of the core may be taken. (DEDUCED, log 29.) -/
def strandCreate (r : LaunchRef) (s : State) : State :=
  match s.liveNode r with
  | none => s
  | some (l, n) =>
    match n.kind, s.creationCore r.part with
    | .kernel entry a0 _ _ count _ _, some core =>
      if n.state ≠ .running ∨ count ≤ n.created then s
      else
        let d := s.draw
        let slots := s.freeSlots core
        let slot := slots.getD (d.1 % slots.length) 0
        let m := newStrand s r n l core slot entry a0 count
        (({ d.2 with others := d.2.others ++ [m] } : State).modifyNode r fun n => { n with created := n.created + 1 }).placeOn r core
    | _, _ => s

/-- `STRAND_CREATE` (R373). -/
def execStrandCreate (part : Fin 16) (tag : BitVec 16) (node : Nat) (s : State) : Result :=
  .next (strandCreate ⟨part, tag, node⟩ s)

end Sys2Proof.Machine
end

