-- ==== Sys2Proof/Machine/Kill.lean ====
section
/-! DEFINITION. Killing a context (R376, R377) and the partition's control block (R378). -/

namespace Sys2Proof.Machine

/-! ## The steps of a kill (R376) -/

/-- Whether work belongs to a launch. -/
def Launch.owns (l : Launch) (r : LaunchRef) : Bool := r.part == l.part && r.tag == l.tag

/-- The strands of a launch. -/
def State.strandsOf (s : State) (l : Launch) : List Strand := s.strands.filter fun m => l.owns m.launch

/-- Whether a strand has a core: one in migration is removed when it has arrived (R23). -/
def Strand.arrived (m : Strand) : Bool := m.frame != .flight && m.frame != .inbox && !m.unreported

/-- R376 steps 2 and 3: the TAG is marked revoked, triggers are discarded, and every strand that has arrived is removed. -/
def State.revoke (s : State) (l : Launch) : State :=
  let s := { s with revoked := if s.revoked.contains (l.part, l.tag) then s.revoked else (l.part, l.tag) :: s.revoked }
  let s := (s.copies.filter fun c => l.owns c.origin.launch && (match c.state with
    | .armed .. => true
    | _ => false)).foldl State.disarmCopy s
  ((s.strandsOf l).filter Strand.arrived).foldl (fun s m => s.removeStrand m.sid) s

/-- R376 steps 4 and 5, R377: the engines complete the context's work with their killed errors; stores on their way to another
package are performed or rejected there, and none is left to take effect after RELEASED. -/
def State.quiesce (s : State) (l : Launch) : State :=
  let s := { s with remoteOps := s.remoteOps.filter fun r => !l.owns r.launch }
  let s := (List.range 192).foldl (fun s k => (s.killJobs k l.owns).killCopies k l.owns) s
  (s.killRoutes l.owns).killColls l.owns

/-- A launch is to be killed: with STATUS 2 unless the scheduler has begun its kill for a cause of its own. -/
def Launch.requested (l : Launch) (byRequest : Bool) : Launch :=
  { l with
    kill := if l.kill = .none then .requested else l.kill
    status := if l.kill = .none ∧ l.status = 0 then 2 else l.status
    byRequest := l.byRequest || byRequest }

/-- The kill of a launch proceeds by one step (R376). -/
def State.killStep (s : State) (l : Launch) : State :=
  let to_ (k : KillStep) (s : State) : State := s.modifyLaunch l.part l.tag fun x => { x with kill := k }
  match l.kill with
  | .requested => to_ .revoked (s.revoke l)
  | .revoked =>
    let s := s.revoke l
    if (s.strandsOf l).isEmpty then to_ .quiesced (s.quiesce l) else s
  | _ => s

/-- `ENGINE_QUIESCE_ACK` (R376): steps 2 to 4. -/
def execEngineQuiesceAck (part : Fin 16) (tag : BitVec 16) (s : State) : Result :=
  .next (match s.launch? part tag with
    | none => s
    | some l => s.killStep l)

/-! ## The control block (R378) -/

/-- The key of a partition's control block. -/
def State.controlBlock (s : State) (p : Fin 16) : Option Nat :=
  ((List.range 4).find? fun d => (List.range 48).any fun k => (s.part p).ownsCluster (48 * d + k)).bind fun d =>
    let b := (s.part p).frbase d
    if b = 0 then none else some (b + 0x1A000)

/-- A request in a REQ word, which `STF.D` has filled. -/
def State.request? (s : State) (key : Nat) : Option Word :=
  if s.mem.isFull key && s.mem.isFull (key + 4) then some (BitVec.ofNat 64 (s.mem.read key 8)) else none

/-- Whether a request stands in a control block. -/
def State.requestsStand (s : State) : Bool :=
  (List.finRange 16).any fun p =>
    match s.controlBlock p with
    | none => false
    | some b => (s.request? b).isSome || (s.request? (b + 16)).isSome

/-- A request is finished: the DONE word behind it is written and set full, and then the REQ word emptied. -/
def State.answerRequest (s : State) (key : Nat) (done : Word) : State :=
  let s := (s.allWays.engineWriteWords (key + 8) true [done.extractLsb' 0 32, done.extractLsb' 32 32]).1
  let t := { s with mem := setFulls s.mem key 8 false }
  t.wake s.mem [key, key + 4]

/-- What KILLDONE takes. -/
def killDone (tag : BitVec 16) : Word := 0#47 ++ 1#1 ++ tag

/-- `KILL_REQUEST` (R378): the hardware takes KILLREQ. -/
def killRequest (p : Fin 16) (s : State) : State :=
  match s.controlBlock p with
  | none => s
  | some b =>
    match s.request? (b + 16) with
    | none => s
    | some v =>
      if v.extractLsb' 16 48 ≠ 0#48 then s.answerRequest (b + 16) 0#64
      else
        let tag := v.extractLsb' 0 16
        match s.launch? p tag with
        | none => s.answerRequest (b + 16) (killDone tag)
        | some l =>
          let t := s.modifyLaunch p tag fun l => l.requested true
          if l.kill = .none then t.killStep (l.requested true) else t

/-- `KILL_REQUEST` (R378). -/
def execKillRequest (part : Fin 16) (s : State) : Result := .next (killRequest part s)

/-- Whether a buffered translation holds one of `n` 64 KiB pages from an address. -/
def TlbEntry.within (e : TlbEntry) (va n : Nat) : Bool := va < e.base + e.size && e.base < va + 0x10000 * n

/-- R378: the translations of a partition's buffers for some pages are dropped, under every root. -/
def State.dropTranslations (s : State) (p : Fin 16) (va n : Nat) : State :=
  let owns (k : Nat) : Bool := (s.part p).ownsCluster k
  { s with
    cores := (s.cores.map fun (x : Nat × CoreState) =>
      if owns (clusterOfCore x.1) then (x.1, { x.2 with tlb := x.2.tlb.filter fun e => !e.within va n }) else x).filter
        fun x => x.2 != {}
    clusterTlb := (s.clusterTlb.map fun (x : Nat × List TlbEntry) =>
      if owns x.1 then (x.1, x.2.filter fun e => !e.within va n) else x).filter fun x => x.2 != [] }

/-- R378: whether an access to some pages is under way, which may have used a translation that was dropped. -/
def State.accessPending (s : State) (p : Fin 16) (va n : Nat) : Bool :=
  let hits (a : Word) (size : Nat) : Bool := va < a.toNat + size && a.toNat < va + 0x10000 * n
  (s.remoteOps.any fun r => returnsValue r.op && r.launch.part == p && hits r.va r.size) ||
    s.strands.any fun m => m.launch.part == p && m.going.any fun g => hits g.va g.size

/-- `INVALIDATION_REQUEST` (R378): the hardware takes INVREQ; the request is finished once the accesses that used the dropped
translations have been performed. -/
def invalidationRequest (p : Fin 16) (s : State) : State :=
  match s.controlBlock p with
  | none => s
  | some b =>
    match s.request? b with
    | none => s
    | some v =>
      if v.extractLsb' 0 16 ≠ 0#16 then s.answerRequest b 0#64
      else
        let va : Word := (v.extractLsb' 16 32 ++ 0#16 : BitVec 48).signExtend 64
        let n := (v.extractLsb' 48 16).toNat + 1
        let s := s.dropTranslations p va.toNat n
        if s.accessPending p va.toNat n then s else s.answerRequest b v

/-- `INVALIDATION_REQUEST` (R378). -/
def execInvalidationRequest (part : Fin 16) (s : State) : Result := .next (invalidationRequest part s)

/-! ## Release (R376 steps 5 and 6) -/

/-- The last context of a partition that is being killed has gone: the partition is RELEASED (R363). Work that a finished
graph has left on an engine ends with it. -/
def State.releasePartition (s : State) (p : Fin 16) : State :=
  if (s.part p).state ≠ .killing ∨ s.launches.any (fun l => l.part == p) then s
  else
    let mine (r : LaunchRef) : Bool := r.part == p
    let s := (List.range 192).foldl (fun s k => (s.killJobs k mine).killCopies k mine) s
    ((s.killRoutes mine).killColls mine).modifyPart p fun x => { x with state := .released }

/-- `KILL_RELEASED` (R376 step 6). -/
def killReleased (p : Fin 16) (tag : BitVec 16) (s : State) : State :=
  match s.launch? p tag with
  | none => s
  | some l =>
    if l.kill ≠ .quiesced then s
    else
      let s := s.endLaunch l
      let s := match s.controlBlock p with
        | some b => if l.byRequest then s.answerRequest (b + 16) (killDone tag) else s
        | none => s
      s.releasePartition p

/-- `KILL_RELEASED` (R376). -/
def execKillReleased (part : Fin 16) (tag : BitVec 16) (s : State) : Result := .next (killReleased part tag s)

/-- R376 step 5: whether writes with a revoked TAG are rejected: its engines have acknowledged quiesce. -/
def State.rejects (s : State) (p : Fin 16) (tag : BitVec 16) : Bool :=
  s.revoked.contains (p, tag) && ((s.launch? p tag).map fun l => l.kill == .quiesced).getD true

/-- `REVOKED_WRITE_REJECT` (R376 step 5): a write with the revoked TAG reaches a destination, changes nothing there, and is counted in
REJECT of the cluster that receives it, or of the home die's lowest owned cluster. (DEDUCED, log 98.) -/
def revokedWriteReject (p : Fin 16) (tag : BitVec 16) (cluster : Nat) (s : State) : State :=
  if s.rejects p tag ∧ (s.part p).ownsCluster cluster then
    s.setCounter (24576 + 8 * cluster + 5) (s.counter (24576 + 8 * cluster + 5) + 1#64)
  else s

/-- `REVOKED_WRITE_REJECT` (R376 step 5). -/
def execRevokedWriteReject (part : Fin 16) (tag : BitVec 16) (cluster : Nat) (s : State) : Result :=
  .next (revokedWriteReject part tag cluster s)

end Sys2Proof.Machine
end

