-- ==== Sys2Proof/Machine/Partitions.lean ====
section
/-! DEFINITION. Partitions: the configuration block and its checks (R362), the states (R363, R375), way masks (R365), descriptors and routing entries (R366, R397), and the speed entries with their mirrors (R354 to R356). -/

namespace Sys2Proof.Machine

/-! ## Speed entries (R354 to R356) -/

/-- R354: the two words of a core's speed entry. -/
def State.speedWords (s : State) (core : Nat) : List Word :=
  let x := (s.core core).speed
  [x.eol ++ 0#24 ++ x.margin ++ BitVec.ofBool x.ret ++ 0#1 ++ BitVec.ofNat 6 x.derate ++ 0#2 ++
      BitVec.ofNat 6 (Config.testedCode core),
    BitVec.ofNat 32 x.sagTk ++ BitVec.ofNat 32 x.sagCnt]

/-- R354: a core's entry is written to the mirror of its partition. -/
def State.mirrorSpeed (s : State) (core : Nat) : State :=
  match s.ownerOfCluster (clusterOfCore core) with
  | none => s
  | some n =>
    let b := (s.part n).frbase (dieOfCore core)
    if b = 0 ∨ (s.part n).state = .defined then s
    else
      (s.allWays.engineWriteWords (b + 0x18080 + 16 * (core % 384)) false
        ((s.speedWords core).flatMap fun w => [w.extractLsb' 0 32, w.extractLsb' 32 32])).1

def State.modifySpeed (s : State) (core : Nat) (f : Speed → Speed) : State :=
  (s.modifyCore core fun k => { k with speed := f k.speed }).mirrorSpeed core

/-- R355: the monitors sample MARGIN once per tick; `low` counts the ticks in a row below 16 ps, which a tick with no sample
interrupts. (DEDUCED, log 28.) -/
def Speed.sample (x : Speed) (tick : Nat) (margin : Byte) : Speed :=
  if x.sampled = some tick then x
  else
    { x with
      margin := margin, sampled := some tick
      low := if 16 ≤ margin.toNat then 0 else if x.sampled = some (tick - 1) then x.low + 1 else 1 }

/-- `AGEING_SAMPLE` (R355). -/
def execAgeingSample (core : Nat) (margin : Byte) (s : State) : Result :=
  .next (if 1536 ≤ core then s
    else s.modifySpeed core fun x => x.sample s.tick margin)

/-- The ticks of low margin after which a core is derated (R355). -/
def derateTicks : Nat := 3600000000

/-- R355: EOL from the ticks of the derate steps, the latest first, and the code after the last of them. (DEDUCED, log 28.) -/
def endOfLife (code : Nat) (steps : List Nat) : BitVec 16 :=
  match steps, steps.getLast? with
  | last :: _ :: _, some first =>
    BitVec.ofNat 16 (min 0xFFFF ((code - 4) * (last - first) / ((steps.length - 1) * derateTicks * 730)))
  | _, _ => 0xFFFF#16

/-- `DERATE_STEP` (R355). -/
def derateStep (core : Nat) (s : State) : State :=
  let x := (s.core core).speed
  if 1536 ≤ core ∨ x.low < derateTicks then s
  else
    let last := Config.testedCode core - x.derate ≤ 4
    let steps := s.tick :: x.steps
    let d := if last then x.derate else x.derate + 1
    s.modifySpeed core fun x =>
      { x with
        low := 0, derate := d, ret := x.ret || last, steps := steps
        eol := endOfLife (max 4 (Config.testedCode core - d)) steps }

/-- `DERATE_STEP` (R355). -/
def execDerateStep (core : Nat) (s : State) : Result := .next (derateStep core s)

/-- The cores of a cluster. -/
def coresOfCluster (k : Nat) : List Nat := (List.range 8).map (8 * k + ·)

/-- `SUPPLY_SAG` (R356). -/
def supplySag (k : Nat) (s : State) : State :=
  if 192 ≤ k then s
  else
    (coresOfCluster k).foldl (fun s c => s.modifySpeed c fun x => { x with sagCnt := sat32 (x.sagCnt + 1) })
      { s with sags := Tab.put none s.sags k (some s.tick) }

/-- `SUPPLY_SAG` (R356). -/
def execSupplySag (cluster : Nat) (s : State) : Result := .next (supplySag cluster s)

/-- `SUPPLY_SAG_END` (R356): the stretch is removed, not before one tick after the sag. -/
def supplySagEnd (k : Nat) (s : State) : State :=
  match Tab.get none s.sags k with
  | some t => if t < s.tick then { s with sags := Tab.put none s.sags k none } else s
  | none => s

/-- `SUPPLY_SAG_END` (R356). -/
def execSupplySagEnd (cluster : Nat) (s : State) : Result := .next (supplySagEnd cluster s)

/-! ## The configuration block (R362) -/

/-- Whether a partition's block names a unit that another partition owns. -/
def State.clashes (s : State) (p : Fin 16) (x : Partition) : Bool :=
  (List.finRange 16).any fun n =>
    n != p &&
      let y := s.part n
      ((List.range 192).any fun i => (x.ownsCluster i && y.ownsCluster i) || (x.ownsLane i && y.ownsLane i)) ||
        ((List.range 256).any fun i =>
          (x.ownsSlice i && y.ownsSlice i) || (x.ownsRange i && y.ownsRange i) || (x.ownsChannel i && y.ownsChannel i)) ||
        ((List.range 4).any fun i => x.ownsPort i && y.ownsPort i) ||
        ((List.range 2048).any fun i => x.ownsQueue i && y.ownsQueue i)

/-- R362: the FRBASE of a die. -/
def Partition.frbaseOk (x : Partition) (d : Nat) : Bool :=
  let b := x.frbase d
  if (List.range 48).any fun k => x.ownsCluster (48 * d + k) then
    let o := b - (chipWindow + d * 0x4000000)
    b % 256 == 0 && chipWindow + d * 0x4000000 ≤ b && o < 0x4000000 && x.ownsRange (64 * d + o / 0x100000) &&
      (o + 0x1A100) / 0x100000 == o / 0x100000
  else b == 0

/-- R362: whether the fields of a block are legal. (DEDUCED, log 26.) -/
def Partition.fieldsOk (x : Partition) : Bool :=
  let wq := x.field 0x9C 4
  let vf := x.field 0xD8 4
  x.field 0x98 1 < 16 && 1 ≤ x.quantum && x.quantum ≤ 32 && 1 ≤ x.lease && x.field 0x9B 1 < 2 &&
    wq % 0x10000 < 2048 && wq / 0x10000 < 2048 && wq % 0x10000 + wq / 0x10000 ≤ 2047 &&
    (List.range 4).all x.frbaseOk && x.storeBase % 0x10000 == 0 && x.storeSize % 0x10000 == 0 &&
    (x.storeSize == 0 || (x.ownsPa x.storeBase && x.ownsPa (x.storeBase + x.storeSize - 1) &&
      x.storeBase / 2 ^ 32 == (x.storeBase + x.storeSize - 1) / 2 ^ 32)) &&
    vf < 0x10000 && vf % 256 < 128 && vf / 256 ≤ 128 && vf % 256 + vf / 256 ≤ 128 && x.field 0xDC 36 == 0

/-- R391 step 4: whether every cluster of a block has a core that works. (DEDUCED, log 27.) -/
def State.unitsReady (s : State) (x : Partition) : Bool :=
  (List.range 192).all fun k => !x.ownsCluster k || (coresOfCluster k).any fun c => Config.passes c && !(s.core c).speed.ret

/-- R359, R362, R363: the errors of a block. -/
def State.blockErrors (s : State) (p : Fin 16) (y : Partition) : List Nat :=
  (if s.clashes p y then [1] else []) ++ (if y.fieldsOk then [] else [2]) ++ (if s.unitsReady y then [] else [3])

/-- A block with bytes written at an offset. -/
def Partition.written (x : Partition) (off : Byte) (bytes : List Byte) : Partition :=
  { x with block := bytes.zipIdx.foldl (fun (b : Tab Byte) (y : Byte × Nat) =>
      let o := off.toNat + y.2
      if 8 ≤ o ∧ o < 256 then Tab.put 0#8 b o y.1 else b) x.block }

/-- `CONFIG_BLOCK_WRITE` (R362): bytes from 0x08 on, while the partition is UNDEFINED or DEFINED. What a DEFINED partition owns
stays checked: a write that the checks would not pass is not taken, and ERR says why. (DESIGN CHOICE, log 25.) -/
def configBlockWrite (p : Fin 16) (off : Byte) (bytes : List Byte) (s : State) : State :=
  s.unlessRecovery fun s =>
    let y := (s.part p).written off bytes
    match (s.part p).state with
    | .undefined => s.modifyPart p fun _ => y
    | .defined =>
      match s.blockErrors p y with
      | [] => s.modifyPart p fun _ => y
      | e :: _ => s.modifyPart p fun x => { x with err := e }
    | _ => s

/-- `CONFIG_BLOCK_WRITE` (R362). -/
def execConfigBlockWrite (part : Fin 16) (off : Byte) (bytes : List Byte) (s : State) : Result :=
  .next (configBlockWrite part off bytes s)

/-- `PARTITION_DEFINE` (R363): the block is checked. Which of several errors is reported is open. (DESIGN CHOICE, log 25.) -/
def partitionDefine (p : Fin 16) (s : State) : State :=
  let x := s.part p
  if x.state ≠ .undefined ∨ s.always.recovery then s
  else
    let y := { x with state := .defined }
    let errs := s.blockErrors p y
    if errs.isEmpty then s.modifyPart p fun _ => { y with err := 0 }
    else
      let d := s.draw
      d.2.modifyPart p fun x => { x with err := errs.getD (d.1 % errs.length) 0 }

/-- `PARTITION_DEFINE` (R363). -/
def execPartitionDefine (part : Fin 16) (s : State) : Result := .next (partitionDefine part s)

/-! ## States (R363, R375) -/

/-- Whether a key names a word of a partition's units. -/
def Partition.ownsKey (p : Partition) (k : Nat) : Bool :=
  match storageOf k with
  | .core c => p.ownsCluster (clusterOfCore c)
  | .shared c => p.ownsCluster c
  | .chip _ => p.ownsRange ((k - chipWindow) / 0x100000)
  | .hbm pa => p.ownsChannel (pa / 2 ^ 32)
  | _ => false

/-- The caches of a partition's cores and clusters are emptied. (DEDUCED, log 24.) -/
def State.emptyCaches (s : State) (x : Partition) : State :=
  { s with
    cores := (s.cores.map fun (c : Nat × CoreState) =>
      if x.ownsCluster (clusterOfCore c.1) then (c.1, { c.2 with spans := [], tlb := [] }) else c).filter fun c => c.2 != {}
    clusterTlb := s.clusterTlb.filter fun c => !x.ownsCluster c.1 }

/-- R363: every word of a partition's units becomes zero and empty. -/
def State.zeroUnits (s : State) (x : Partition) : State :=
  ({ s with
    mem := s.mem.clear x.ownsKey
    writers := s.writers.filter fun w => !x.ownsKey (4 * w.1)
    arrivals := s.arrivals.filter fun a => !x.ownsKey a.1 } : State).emptyCaches x

/-- R196, R321, R354: the records of a partition as RUNNING leaves them. -/
def State.writeRecords (s : State) (p : Fin 16) : State :=
  let x := s.part p
  let s := (List.range 4).foldl (fun s d =>
    match s.dieRecord p d with
    | none => s
    | some a => { s with mem := s.mem.write a 4 (1 + 2 ^ 16 * d) }) s
  x.cores.foldl (fun s c =>
    match s.faultRecord c with
    | none => s
    | some a => ({ s with mem := s.mem.write a 4 (1 + 2 ^ 16 * c) } : State).mirrorSpeed c) s

/-- R245, R188, R355: the engines and tables of a partition's clusters as their assignment leaves them. (DEDUCED, log 24; DEDUCED, log 27.) -/
def State.assignUnits (s : State) (x : Partition) : State :=
  let owns (core : Nat) : Bool := x.ownsCluster (clusterOfCore core)
  let s := { s with
    segments := s.segments.filter fun g => !owns g.1
    matrix := s.matrix.filter fun q => !x.ownsCluster q.1
    masters := s.masters.filter fun m => !x.ownsCluster m.1
    counters := s.counters.filter fun c => !(if c.1 < 24576 then owns (c.1 / 16) else x.ownsCluster ((c.1 - 24576) / 8))
    shorts := s.shorts.filter fun q => !x.ownsCluster q.1
    gated := s.gated.filter fun k => !x.ownsCluster k }
  x.cores.foldl (fun s c => s.modifyCore c fun k =>
    { k with layouts := Vector.replicate 64 0#64, recorder := {}, barred := k.speed.ret }) s

/-- `PARTITION_RUN` (R363, R388): the keys come from the SC's entropy source. (DESIGN CHOICE, log 86.) -/
def partitionRun (p : Fin 16) (s : State) : State :=
  let x := s.part p
  if x.state ≠ .defined ∨ s.always.recovery then s
  else
    let a := s.draw
    let b := a.2.draw
    let s := (b.2.zeroUnits x).assignUnits x
    let s := { s with revoked := s.revoked.filter fun r => r.1 != p }
    (s.modifyPart p fun x =>
      { x with state := .running, pausing := false, keys := some (a.1, b.1), resumedAt := s.tick, notified := 0 }).writeRecords p

/-- `PARTITION_RUN` (R363). -/
def execPartitionRun (part : Fin 16) (s : State) : Result := .next (partitionRun part s)

/-- `PARTITION_PAUSE` (R375): every strand is pre-empted, and spilled as soon as it can be. -/
def partitionPause (p : Fin 16) (s : State) : State :=
  if (s.part p).state ≠ .running ∨ s.always.recovery then s
  else
    let s := s.modifyPart p fun x => { x with pausing := true }
    let mine := (s.strands.filter fun m => m.launch.part == p).map (·.sid)
    let s := mine.foldl State.requestPreempt s
    (mine.foldl State.spill s).settlePause p

/-- `PARTITION_PAUSE` (R375). -/
def execPartitionPause (part : Fin 16) (s : State) : Result := .next (partitionPause part s)

/-- `PARTITION_RESUME` (R363). -/
def execPartitionResume (part : Fin 16) (s : State) : Result :=
  .next (if (s.part part).state = .paused ∧ s.always.recovery = false then
      s.modifyPart part fun x => { x with state := .running, resumedAt := s.tick }
    else s)

/-- `PARTITION_KILL` (R363, R376, R420): the whole partition is one context. -/
def partitionKill (p : Fin 16) (s : State) : State :=
  match (s.part p).state with
  | .running | .paused =>
    let s := s.modifyPart p fun x => { x with state := .killing, pausing := false }
    let s := s.endSessions fun n => n == p.val
    let ls := s.launches.filter fun l => l.part == p
    let s := ls.foldl (fun s l =>
      let t := s.modifyLaunch p l.tag fun l => l.requested false
      if l.kill = .none then t.killStep (l.requested false) else t) s
    s.releasePartition p
  | _ => s

/-- `PARTITION_KILL` (R363). -/
def execPartitionKill (part : Fin 16) (s : State) : Result := .next (s.unlessRecovery (partitionKill part))

/-- `PARTITION_UNDEFINE` (R363). -/
def partitionUndefine (p : Fin 16) (s : State) : State :=
  let x := s.part p
  if x.state ≠ .released ∨ s.always.recovery then s
  else (s.zeroUnits x).modifyPart p fun x => { x with state := .undefined, keys := none, err := 0 }

/-- `PARTITION_UNDEFINE` (R363). -/
def execPartitionUndefine (part : Fin 16) (s : State) : Result := .next (partitionUndefine part s)

/-! ## Registers of the device -/

/-- `WAY_MASK_WRITE` (R365, R316): a write of zero is ignored. -/
def execWayMaskWrite (vf : BitVec 7) (v : Word) (s : State) : Result :=
  .next (s.unlessRecovery fun s => if v &&& 0xFFFF#64 = 0#64 then s
    else { s with wayMasks := Tab.put 0#64 s.wayMasks vf.toNat (0xFFFF#64 ^^^ (v &&& 0xFFFF#64)) })

/-- A register with no behaviour of its own takes a value in its writable fields (R366, R380, R397, R401, R416). A queue whose
TAIL is then too far ahead stops (R366). -/
def deviceWrite (r : DeviceRegister) (v : Word) (s : State) : State :=
  let onQueue (q : BitVec 11) (f : WorkQueue → WorkQueue) : State := s.setQueue q.toNat (f (s.queue q.toNat)).checked
  match r with
  | .queueRing q => onQueue q fun w => { w with ring := v }
  | .queueConfig q => onQueue q fun w => { w with ondev := v.getLsbD 7, logn := v.extractLsb' 0 5 }
  | .queueEnable q => onQueue q fun w => { w with en := v.getLsbD 8 }
  | .queueBind q => onQueue q fun w => { w with bind := v.extractLsb' 0 7 }
  | .routeEntry d p => { s with routes := Tab.put 0#64 s.routes (d.val * 1024 + p.toNat) v }
  | .hdmBase => { s with hdmBase := v &&& ~~~0xFFFFFFF#64 }
  | .tickSource => { s with tickSource := v.extractLsb' 0 10 }
  | .portMac p => { s with portAddrs := Tab.put 0#64 s.portAddrs (p.val * 4) (v &&& 0xFFFFFFFFFFFF#64) }
  | .portIpLow p => { s with portAddrs := Tab.put 0#64 s.portAddrs (p.val * 4 + 1) v }
  | .portIpHigh p => { s with portAddrs := Tab.put 0#64 s.portAddrs (p.val * 4 + 2) v }

/-- `REGISTER_WRITE` (R12): a write that the writer may make: a function's driver reaches only its own queues (R364).
(DESIGN CHOICE, log 99.) (DESIGN CHOICE, log 99.) -/
def registerWrite (r : DeviceRegister) (v : Word) (s : State) : State := s.unlessRecovery (deviceWrite r v)

/-- `REGISTER_WRITE` (R12). -/
def execRegisterWrite (r : DeviceRegister) (v : Word) (s : State) : Result := .next (registerWrite r v s)

end Sys2Proof.Machine
end

