-- ==== Sys2Proof/Machine/DieEvents.lean ====
section
/-! DEFINITION. Events of the die: memory errors and scrubbing (R193, R194), walks, page classes and evictions that no access asks for (R304 to R313), ticks (R317), the Midnight pause (R318 to R320) and a nest's cancellation reaching a core (R179). -/

namespace Sys2Proof.Machine

/-! ## Errors of the memories (R193, R194, R321) -/

/-- LAST_UE and LAST_CE of a fault record (R196). (DESIGN CHOICE, log 39.) -/
def lastUe : Nat := 0x38
def lastCe : Nat := 0x40

/-- Writes an address into a core's fault record. -/
def State.recordAddr (s : State) (core off a : Nat) : State :=
  match s.faultRecord core with
  | none => s
  | some r => s.recordStore (r + off) 8 a

def State.poisonWord (s : State) (key : Nat) : State := { s with mem := s.mem.setPoison key true }

/-- An error in a word that is homed on a core. (DEDUCED, log 38.) -/
def State.coreError (s : State) (core key : Nat) (correctable : Bool) : State :=
  if correctable then (s.count core ceSpad).recordAddr core lastCe key
  else ((s.poisonWord key).count core ueSpad).recordAddr core lastUe key

/-- An error in an L2 slice or a chip scratchpad bank of a die, counted for the partition that owns the word (R321). `a` is
what LAST_UE receives. (DEDUCED, log 38.) -/
def State.dieError (s : State) (owner : Partition → Bool) (die key a : Nat) (correctable : Bool) : State :=
  match (List.finRange 16).find? fun n => owner (s.part n) with
  | none => if correctable then s else s.poisonWord key
  | some n =>
    if correctable then s.countDie n die 0x10
    else
      let t := (s.poisonWord key).countDie n die 0x14
      match t.dieRecord n die with
      | none => t
      | some r => t.recordStore (r + 0x20) 8 a

/-- R193: a line of an L1 or an instruction cache is lost, to be fetched again; every line is clean. Which cache and line it is,
the event does not say. (DESIGN CHOICE, log 39.) -/
def State.cacheError (s : State) (core : Nat) (correctable : Bool) : State :=
  if correctable then s.count core ceCache
  else
    let d := (s.count core ueCache).draw
    let e := d.2.draw
    if d.1 % 2 = 0 then
      let l := (e.2.core core).spans
      e.2.modifyCore core fun k => { k with spans := l.eraseIdx (e.1 % l.length) }
    else
      let l := (e.2.core core).icache
      e.2.modifyCore core fun k => { k with icache := l.eraseIdx (e.1 % l.length) }

/-- Whether a strand occupies a frame (R159). -/
def Strand.inFrame (m : Strand) : Bool :=
  match m.frame with
  | .running | .parked | .yielded | .preempted => true
  | _ => false

/-- A word of a strand's lane slices is poisoned (R243). -/
def Strand.poisonSlice (m : Strand) (off : Nat) : Strand :=
  { m with ctx := { m.ctx with vec := { m.ctx.vec with slice := m.ctx.vec.slice.setPoison off true } } }

/-- `MEMORY_ERROR` (R193). (DEDUCED, log 38.) -/
def memoryError (place : ErrorPlace) (correctable : Bool) (s : State) : State :=
  match place with
  | .word key =>
    match homeCore key with
    | some c => if 1536 ≤ c then s else s.coreError c (key / 4 * 4) correctable
    | none =>
      match storageOf key with
      | .chip d => if 4 ≤ d then s else
        s.dieError (fun p => p.ownsRange ((key - chipWindow) / 0x100000)) d (key / 4 * 4) (key / 4 * 4) correctable
      | _ => s
  | .cache core => if 1536 ≤ core then s else s.cacheError core correctable
  | .frame sid =>
    match s.strand? sid with
    | none => s
    | some m =>
      if m.inFrame = false then s
      else if correctable then s.count m.core ceSpad
      else s.stopStrand sid 0 0#64 m.pc
  | .l2 die key =>
    match storageOf key with
    | .hbm pa =>
      if s.sliceDie pa = die ∧ die < 4 then
        s.dieError (fun p => p.ownsChannel (pa / 2 ^ 32)) die (key / 4 * 4) (pa / 4 * 4) correctable
      else s
    | _ => s
  | .slice sid off =>
    match s.strand? sid with
    | none => s
    | some m =>
      if m.inFrame = false ∨ 4096 * m.ctx.vec.w ≤ off then s
      else if correctable then s.count m.core ceSpad
      else (s.modify sid (Strand.poisonSlice · (off / 4 * 4))).count m.core ueSpad

/-- `MEMORY_ERROR` (R193). -/
def execMemoryError (place : ErrorPlace) (correctable : Bool) (s : State) : Result := .next (memoryError place correctable s)

/-- `SCRUB_PASS` (R194). -/
def execScrubPass (core : Nat) (s : State) : Result := .next (if 1536 ≤ core then s else s.count core scrubCount)

/-! ## Walks, classes and evictions -/

/-- `PAGE_WALK` (R304, R306): a walk for a core's strands whose page no buffer holds. (DEDUCED, log 37.) -/
def pageWalk (core : Nat) (root va : Word) (s : State) : State :=
  match s.ownerOfCluster (clusterOfCore core), s.buffered core root va.toNat with
  | some p, none =>
    if canonical va then
      match walk (s.part p) s.mem root va.toNat with
      | some e => (s.usePage p core false { key := pageKey e va.toNat, page := some e, walked := true }).1
      | none => s
    else s
  | _, _ => s

/-- `PAGE_WALK` (R304). -/
def execPageWalk (core : Nat) (root va : Word) (s : State) : Result := .next (pageWalk core root va s)

/-- The partition under whose root an entry stands. -/
def State.rootOwner (s : State) (root : Word) : Fin 16 :=
  ((s.launches.find? fun l => l.root == root).map (·.part)).getD 0

/-- `RECLASSIFICATION` (R308): the page whose leaf stands at a key becomes shared, if its owner still buffers it. -/
def reclassification (leaf : Nat) (s : State) : State :=
  match s.cores.findSome? fun (c : Nat × CoreState) => c.2.tlb.find? fun e => e.entry == leaf && leafCls e.leaf == 1 with
  | some e => (s.reclassify (s.rootOwner e.root) (dieOfCore (leafOwner e.leaf)) e (hbmKey (leafPa e.leaf))).1
  | none => s

/-- `RECLASSIFICATION` (R308). -/
def execReclassification (leaf : Nat) (s : State) : Result := .next (reclassification leaf s)

/-- `L2_EVICTION` (R313): a line of HBM, numbered by physical address div 128, leaves its slice. -/
def l2Eviction (line : Nat) (s : State) : State :=
  let l := hbmKey (128 * line) / 128
  let slice := s.sliceOf (128 * line)
  let set := Tab.get [] s.l2 (l2Set slice l)
  match set.find? fun x => x.line == l with
  | some x => ({ s with l2 := Tab.put [] s.l2 (l2Set slice l) (set.erase x) } : State).leaveSlice slice l
  | none => s

/-- `L2_EVICTION` (R313). -/
def execL2Eviction (line : Nat) (s : State) : Result := .next (l2Eviction line s)

/-! ## Ticks (R317) -/

/-- R355: at a tick edge every core takes the code that its derate steps leave. -/
def State.takeCodes (s : State) : State :=
  { s with
    cores := (s.cores.map fun (c : Nat × CoreState) =>
      (c.1, { c.2 with speed := { c.2.speed with inUse := c.2.speed.derate } })).filter fun c => c.2 != {} }

/-- HEARTBEAT reaches a tick (R317, R355, R356, R400, R173): stretched clusters count the ticks, derated cores change their code,
the replays of the tick are counted anew, and strands whose bound has come are resumed. -/
def State.tickTo (s : State) (t : Nat) : State :=
  if t ≤ s.tick then s
  else
    let n := t - s.tick
    let cores := s.sags.flatMap fun x => coresOfCluster x.1
    let s : State := { s with
      tick := t
      ports := (s.ports.map fun (p : Nat × PortState) => (p.1, { p.2 with replays := [] })).filter fun p => p.2 != {} }
    (cores.foldl (fun s c => s.modifySpeed c fun x => { x with sagTk := sat32 (x.sagTk + n) }) s).takeCodes.serveOverdue

/-- `HEARTBEAT_TICK` (R317): the next tick. -/
def heartbeatTick (s : State) : State := s.tickTo (s.tick + 1)

/-- `HEARTBEAT_TICK` (R317). -/
def execHeartbeatTick (s : State) : Result := .next (heartbeatTick s)

/-! ## The Midnight pause (R318 to R320) -/

/-- A context without stamps: timestamps of strands and of what they have been told are 0. -/
def Strand.midnight (m : Strand) : Strand :=
  { m with ts := 0, inbox := m.inbox.map fun x => { x with stamp := 0 }, batchStamps := [] }

/-- R319 step 5: the timestamp and both CRCs of a stored image are rewritten. -/
def rewriteImage (bs : List Byte) : List Byte :=
  let light := cutBytes bs 0 0xD0 ++ [0#8, 0#8, 0#8] ++ cutBytes bs 0xD3 0x29
  let body := light ++ bytesOf 4 (crc32 light).toNat ++ cutBytes bs 0x100 0x280
  body ++ bytesOf 4 (crc32 (body ++ List.replicate 8 0#8 ++ bs.drop 0x388)).toNat ++ bs.drop 0x384

/-- R319 step 5, R320: the timestamp and CRCs of the images that stand in stores; nothing else of memory changes. An image with a
poisoned word, which no restore accepts, is left. -/
def State.rewriteImages (s : State) : State :=
  s.images.foldl (fun s i =>
    if (wordKeys i.1 i.2).any s.mem.poisoned then s
    else
      let bs := rewriteImage (s.mem.readBytes i.1 i.2)
      let put (m : Mem) (off n : Nat) : Mem := m.writeBytes (i.1 + off) (cutBytes bs off n)
      { s with mem := put (put (put s.mem 0xD0 3) 0xFC 4) 0x380 4 }) s

/-- R319 step 1: the migrations in flight are installed, as far as inboxes and frames allow. (DEDUCED, log 23.) -/
def State.landMigrations (s : State) : State :=
  let s := (s.strands.filter fun m => m.frame == .flight).foldl (fun s m => inboxArrival m.sid true s) s
  (s.strands.filter fun m => m.frame == .inbox).foldl (fun s m => migrationInstall m.sid s) s

/-- R319 step 4: every stamp is 0. -/
def Node.midnight (n : Node) : Node :=
  { n with stamp := 0, groups := n.groups.map fun (g : Nat × Group) => (g.1, { g.2 with stamp := 0 }) }
def Copy.midnight (c : Copy) : Copy := { c with stamp := 0, uncounted := c.uncounted.map fun u => (u.1, 0) }
def RouteEngine.midnight (e : RouteEngine) : RouteEngine :=
  { e with
    calls := e.calls.map fun c => { c with stamp := 0 }
    experts := e.experts.map fun x => { x with stamp := 0 }
    records := e.records.map fun (r : Nat × Option RouteRecord) => (r.1, r.2.map fun x => { x with stamp := 0 }) }
def CollMaster.midnight (m : CollMaster) : CollMaster :=
  { m with
    calls := m.calls.map fun c => { c with stamp := 0 }
    records := m.records.map fun (r : Nat × Option CollRecord) => (r.1, r.2.map fun x => { x with stamp := 0 }) }

def State.zeroStamps (s : State) : State :=
  { s with
    me := s.me.midnight
    others := s.others.map Strand.midnight
    stamps := []
    floors := []
    marks := []
    latest := 0
    rw := 0
    fences := 0
    pushes := []
    cores := (s.cores.map fun (c : Nat × CoreState) => (c.1, { c.2 with spans := c.2.spans.filter (·.priv), pclk := 0 })).filter fun c => c.2 != {}
    launches := s.launches.map fun l => { l with nodes := l.nodes.map Node.midnight }
    ahead := s.ahead.map fun a => { a with words := a.words.map fun x => { x with stamp := 0 } }
    copies := s.copies.map Copy.midnight
    arrivals := (s.arrivals.map fun (a : Nat × ArrivalKeep) => (a.1, { a.2 with stamp := 0 })).filter fun a => a.2 != {}
    routers := s.routers.map fun (r : Nat × RouteEngine) => (r.1, r.2.midnight)
    routeHomes := s.routeHomes.map fun (r : Nat × Option RouteCall) => (r.1, r.2.map fun c => { c with stamp := 0 })
    masters := s.masters.map fun (m : Nat × CollMaster) => (m.1, m.2.midnight) }

/-- R319 step 6: MIDNIGHT of every record. (DEDUCED, log 23.) -/
def State.countMidnight (s : State) : State :=
  (List.finRange 16).foldl (fun s n => (List.range 4).foldl (fun s d => s.countDie n d 0x04) s) s

/-- R319: the pause. (DEDUCED, log 23.) -/
def pauseAtMidnight (s : State) : State := (s.landMigrations.rewriteImages.zeroStamps).countMidnight

/-- `MIDNIGHT_PAUSE` (R318, R319): a pause that has been requested. -/
def midnightPause (s : State) : State := if s.midnight then pauseAtMidnight s else s

/-- `MIDNIGHT_PAUSE` (R319). -/
def execMidnightPause (s : State) : Result := .next (midnightPause s)

/-! ## Nests -/

/-- `NEST_CANCEL_LEARNED` (R179). -/
def nestCancelLearned (core : Nat) (r : LaunchRef) (s : State) : State :=
  s.modifyNode r fun n =>
    { n with nest := n.nest.map fun x => if x.cancelled ∧ x.known.contains core = false then { x with known := core :: x.known } else x }

/-- `NEST_CANCEL_LEARNED` (R179). -/
def execNestCancelLearned (core : Nat) (part : Fin 16) (tag : BitVec 16) (node : Nat) (s : State) : Result :=
  .next (nestCancelLearned core ⟨part, tag, node⟩ s)

end Sys2Proof.Machine
end

