-- ==== Sys2Proof/Machine/Host.lean ====
section
/-! DEFINITION. The host port and the always-on domain: host windows (R384, R385), snoops (R381 to R383), the root of trust (R386 to R390), resets (R391 to R393) and the I3C target (R394, R395). -/

namespace Sys2Proof.Machine

/-! ## Host windows (R384, R385) -/

/-- A host window: its two words. -/
structure HostWindow where
  w0 : Word
  w1 : Word
  deriving DecidableEq, Repr

def HostWindow.base (w : HostWindow) : Nat := (w.w0.extractLsb' 16 34).toNat * 0x10000
def HostWindow.size (w : HostWindow) : Nat := ((w.w1.extractLsb' 0 32).toNat + 1) * 0x10000

/-- R384: whether an entry is valid and lies in a partition's channels. -/
def HostWindow.valid (w : HostWindow) (p : Partition) : Bool :=
  w.w0.getLsbD 63 && w.w0.extractLsb' 50 11 == 0#11 && w.w0.extractLsb' 0 16 == 0#16 && w.w1.extractLsb' 32 32 == 0#32 &&
    w.base / 2 ^ 32 < 256 && (w.base + w.size - 1) / 2 ^ 32 < 256 &&
    (List.range 256).all fun c =>
      !(w.base / 2 ^ 32 ≤ c && c ≤ (w.base + w.size - 1) / 2 ^ 32) || p.ownsChannel c

/-- The host window table of a partition, behind its control block. -/
def State.hostWindows (s : State) (p : Fin 16) : List HostWindow :=
  match s.controlBlock p with
  | none => []
  | some b => (List.range 12).map fun i =>
    let word (k : Nat) : Word := BitVec.ofNat 64 (leNat (s.hardwareRead (b + 0x40 + 16 * i + 8 * k) 8))
    ⟨word 0, word 1⟩

/-- R385: whether the host may read or write `n` bytes at a device address. (DEDUCED, log 36.) -/
def State.hostMay (s : State) (pa n : Nat) (write : Bool) : Bool :=
  match (List.finRange 16).find? fun p => (s.part p).ownsPa pa && (s.part p).ownsPa (pa + n - 1) with
  | none => false
  | some p => (s.hostWindows p).any fun w =>
    w.valid (s.part p) && w.base ≤ pa && pa + n ≤ w.base + w.size && w.w0.getLsbD (if write then 62 else 61)

/-- R380: the device address of a host address, for an access of `n` bytes. -/
def State.deviceAddr (s : State) (addr : Word) (n : Nat) : Option Nat :=
  let a := addr.toNat - s.hdmBase.toNat
  if n = 0 ∨ addr.toNat < s.hdmBase.toNat ∨ 2 ^ 40 < a + n ∨ s.host.linkDown then none else some a

/-- A refused access adds 1 to HOSTDENY. -/
def State.denyHost (s : State) : State := { s with host := { s.host with hostDeny := sat32 (s.host.hostDeny + 1) } }

/-- What a host read returns: the bytes of poisoned words are free, and it is marked poisoned where there is one (R379). -/
def State.hostBytes (s : State) (key n : Nat) : HostAnswer × State :=
  let d := s.draw
  (⟨(List.range n).map fun i =>
      if s.mem.poisoned (key + i) then BitVec.ofNat 8 (d.1 / 256 ^ i) else s.mem.byte (key + i),
    (List.range n).any fun i => s.mem.poisoned (key + i)⟩, d.2)

/-- `HOST_MEM_READ` (R385, R345). (DEDUCED, log 36.) -/
def hostMemRead (addr : Word) (n : Nat) (s : State) : State :=
  if s.always.recovery then s else
  match s.deviceAddr addr n with
  | none => s
  | some pa =>
    if s.hostMay pa n false then
      let r := s.hostBytes (hbmKey pa) n
      { r.2 with hostAnswer := some r.1 }
    else { s.denyHost with hostAnswer := some ⟨List.replicate n 0xFF#8, true⟩ }

/-- `HOST_MEM_READ` (R385). -/
def execHostMemRead (addr : Word) (n : Nat) (s : State) : Result := .next (hostMemRead addr n s)

/-- Writes bytes at their homes, word by word, for a writer outside the package: RW rises to the stamps (R342). (DEDUCED, log 36.) -/
def State.outsideWrite (s : State) (key : Nat) (bs : List Byte) : State :=
  (cutWords key bs).foldl (fun s p =>
    match p with
    | [] => s
    | (a, _) :: _ =>
      let r := s.allWays.engineWrite a false (p.map fun x => (x.1 % 4, x.2))
      { r.1 with rw := max r.1.rw r.2 }) s

/-- `HOST_MEM_WRITE` (R385, R345). (DEDUCED, log 36.) -/
def hostMemWrite (addr : Word) (bytes : List Byte) (s : State) : State :=
  if s.always.recovery then s else
  match s.deviceAddr addr bytes.length with
  | none => s
  | some pa => if s.hostMay pa bytes.length true then s.outsideWrite (hbmKey pa) bytes else s.denyHost

/-- `HOST_MEM_WRITE` (R385). -/
def execHostMemWrite (addr : Word) (bytes : List Byte) (s : State) : Result := .next (hostMemWrite addr bytes s)

/-! ## Snoops and the host cache (R381 to R383). A line is numbered by host address div 64. -/

def hostLineOf (line : Nat) : Nat := hostKey (64 * line) / 64

/-- R382: the answer to a snoop. (DESIGN CHOICE, log 46.) -/
def State.snoopAnswer (s : State) (l : Nat) : Option HostAnswer :=
  if (Tab.get {} s.hostCache l).state = .modified then some ⟨hostLineBytes s.mem l, false⟩ else none

/-- Whether a snoop finds no line: the link is lost (R383), the device is in recovery (R387), or the line is in I. -/
def State.snoopMisses (s : State) (l : Nat) : Bool :=
  s.host.linkDown || s.always.recovery || (Tab.get {} s.hostCache l).state == .invalid

/-- `SNP_INV` (R382). (DESIGN CHOICE, log 46.) -/
def snpInv (line : Nat) (s : State) : State :=
  let l := hostLineOf line
  if s.snoopMisses l then s
  else { s.hostDrop l with hostAnswer := s.snoopAnswer l }

/-- `SNP_INV` (R382). -/
def execSnpInv (line : Nat) (s : State) : Result := .next (snpInv line s)

/-- `SNP_DATA` (R382). (DESIGN CHOICE, log 46.) -/
def snpData (line : Nat) (s : State) : State :=
  let l := hostLineOf line
  if s.snoopMisses l then s
  else { s with hostCache := Tab.put {} s.hostCache l ⟨.shared, []⟩, hostAnswer := s.snoopAnswer l }

/-- `SNP_DATA` (R382). -/
def execSnpData (line : Nat) (s : State) : Result := .next (snpData line s)

/-- `SNP_CUR` (R382). (DESIGN CHOICE, log 46.) -/
def snpCur (line : Nat) (s : State) : State :=
  let l := hostLineOf line
  if s.snoopMisses l then s else { s with hostAnswer := s.snoopAnswer l }

/-- `SNP_CUR` (R382). -/
def execSnpCur (line : Nat) (s : State) : Result := .next (snpCur line s)

/-- `HOST_CACHE_FILL` (R381): the response to RdShared fills a line in S, that to RdOwn in E. -/
def hostCacheFill (line : Nat) (owned : Bool) (s : State) : State :=
  let l := hostLineOf line
  if s.host.linkDown ∨ s.always.recovery then s
  else
    let s := s.hostFill l
    let st := (Tab.get {} s.hostCache l).state
    if owned ∧ (st = .invalid ∨ st = .shared) then { s with hostCache := Tab.put {} s.hostCache l ⟨.exclusive, []⟩ }
    else if st = .invalid then { s with hostCache := Tab.put {} s.hostCache l ⟨.shared, []⟩ }
    else s

/-- `HOST_CACHE_FILL` (R381). -/
def execHostCacheFill (line : Nat) (owned : Bool) (s : State) : Result := .next (hostCacheFill line owned s)

/-- `CLUSTER_POWER_GATE` (R383): the cluster's L1s are emptied, and then its gate closes. That of a cluster of a partition is taken
to have opened again by the next step. (DEDUCED, log 43.) -/
def clusterPowerGate (k : Nat) (s : State) : State :=
  if 192 ≤ k then s
  else
    let s := (coresOfCluster k).foldl (fun s c =>
      (s.evictPushed c fun _ => true).modifyCore c fun x => { x with spans := [], icache := [] }) s
    if (s.ownerOfCluster k).isSome then s
    else { s with gated := if s.gated.contains k then s.gated else k :: s.gated }

/-- `CLUSTER_POWER_GATE` (R383). -/
def execClusterPowerGate (cluster : Nat) (s : State) : Result := .next (clusterPowerGate cluster s)

/-- `SURPRISE_LINK_LOSS` (R383): dirty lines are discarded and counted. (DEDUCED, log 42.) -/
def surpriseLinkLoss (s : State) : State :=
  if s.host.linkDown then s
  else
    let dirty := s.hostCache.filter fun (l : Nat × HostLine) => l.2.state == .modified
    { s with
      mem := dirty.foldl (fun m (l : Nat × HostLine) => m.writeBytes (l.1 * 64) l.2.old) s.mem
      hostCache := []
      host := { s.host with linkDown := true, lostLines := sat32 (s.host.lostLines + dirty.length) }
      always := { s.always with linkLoss := sat32 (s.always.linkLoss + 1) } }

/-- `SURPRISE_LINK_LOSS` (R383). -/
def execSurpriseLinkLoss (s : State) : Result := .next (surpriseLinkLoss s)

/-! ## Encryption (R388) -/

/-- R388: the tweak of a data unit: PA[49:6]. -/
def xtsTweak (pa : Nat) : BitVec 128 := BitVec.ofNat 128 (pa / 64 % 2 ^ 44)

/-- XTS: the tweak of the next 16-byte block. -/
def xtsNext (t : BitVec 128) : BitVec 128 := (t <<< 1) ^^^ (if t.getLsbD 127 then 0x87#128 else 0#128)

/-- XTS over the blocks of a data unit, from the tweak of the first. -/
def xtsBlocks (key : BitVec 256) : BitVec 128 → List (BitVec 128) → List (BitVec 128)
  | _, [] => []
  | t, b :: bs => (Config.aes256 key (b ^^^ t) ^^^ t) :: xtsBlocks key (xtsNext t) bs

/-- A key of a partition, from its draw. -/
def hbmKeyOf (draw : Nat) : BitVec 256 := BitVec.ofNat 256 (leNat (Config.entropy draw 32))

/-- R388: what the HBM holds of the 64-byte unit at a physical address: the partition's data under AES-256-XTS. Full/empty bits and
poison stand in clear, and nothing without keys is there to be read. (DESIGN CHOICE, log 86.) -/
def State.cipherUnit (s : State) (p : Fin 16) (pa : Nat) : Option (List (BitVec 128)) :=
  (s.part p).keys.map fun k =>
    let block (i : Nat) : BitVec 128 := BitVec.ofNat 128 (s.mem.read (hbmKey (pa / 64 * 64 + 16 * i)) 16)
    xtsBlocks (hbmKeyOf k.1) (Config.aes256 (hbmKeyOf k.2) (xtsTweak pa)) ((List.range 4).map block)

/-! ## Firmware (R386, R387) -/

/-- The image that runs. (DESIGN CHOICE, log 14.) -/
def AlwaysOn.image (a : AlwaysOn) : List Byte := a.firmware.getD Config.flash
def imageSvn (img : List Byte) : Nat := fieldOf img 8 4
def imageDigest (img : List Byte) : List Byte := cutBytes img 0x10 64

/-- R387: BOOTERR of an image under a fused SVN counter, 0 where it is accepted. (DEDUCED, log 40.) -/
def imageError (fused : Nat) (img : List Byte) : Nat :=
  let pk := cutBytes img 0x50 1793
  if Config.shake256 32 pk ≠ Config.keyHash then 1
  else if Config.falconVerify pk (cutBytes img 0 0x760) (cutBytes img 0x760 1280) = false then 2
  else if Config.shake256 64 (cutBytes img 3168 (fieldOf img 0xC 4)) ≠ imageDigest img then 3
  else if imageSvn img < fused then 4
  else 0

/-- R391 step 2: the firmware of the flash is verified; rejected, it leaves the device in recovery. (DEDUCED, log 40.) -/
def AlwaysOn.verified (a : AlwaysOn) : AlwaysOn :=
  let e := imageError a.fusedSvn a.image
  { a with bootErr := e, recovery := e != 0, ready := e == 0 }

/-- `FIRMWARE_IMAGE` (R387). (DEDUCED, log 40.) -/
def firmwareImage (img : List Byte) (s : State) : State :=
  let e := imageError s.always.fusedSvn img
  { s with always :=
      if e = 0 then { s.always with firmware := some img, bootErr := 0, recovery := false, ready := true }
      else { s.always with bootErr := e } }

/-- `FIRMWARE_IMAGE` (R387). -/
def execFirmwareImage (image : List Byte) (s : State) : Result := .next (firmwareImage image s)

/-- `SVN_FUSE_REQUEST` (R387): the counter rises to the SVN of the image that was accepted. (DEDUCED, log 40.) -/
def svnFuseRequest (svn : Word32) (s : State) : State :=
  if s.always.recovery = false ∧ svn.toNat = imageSvn s.always.image ∧ s.always.fusedSvn < svn.toNat then
    { s with always := { s.always with fusedSvn := svn.toNat } }
  else s

/-- `SVN_FUSE_REQUEST` (R387). -/
def execSvnFuseRequest (svn : Word32) (s : State) : Result := .next (svnFuseRequest svn s)

/-! ## Attestation (R389) -/

/-- The first `n` bytes, filled up with zeroes. -/
def fitBytes (n : Nat) (bs : List Byte) : List Byte := (bs ++ List.replicate n 0#8).take n

def PartState.code : PartState → Nat
  | .undefined => 0
  | .defined => 1
  | .running => 2
  | .paused => 3
  | .killing => 4
  | .released => 5

/-- The configuration block of a partition (R362, R363). -/
def Partition.bytes (p : Partition) (n : Fin 16) : List Byte :=
  bytesOf 4 n.val ++ bytesOf 4 (p.state.code + 256 * p.err) ++ (List.range 248).map fun i => Tab.get 0#8 p.block (8 + i)

/-- R386: the seed of FAK. -/
def AlwaysOn.fakSeed (a : AlwaysOn) : List Byte := Config.shake256 32 (Config.uds ++ imageDigest a.image)

/-- R389: the report. -/
def State.attestation (s : State) (nonce : BitVec 256) (part : Byte) : List Byte :=
  let a := s.always
  let head := bytesOf 4 1 ++ [part, BitVec.ofNat 8 a.debugged.toNat] ++ bytesOf 2 0 ++ bytesOf 8 s.tick ++
    bytesOf 32 nonce.toNat ++ fitBytes 16 Config.serial ++ fitBytes 64 (imageDigest a.image) ++
    bytesOf 4 (imageSvn a.image) ++ bytesOf 12 0 ++
    (if h : part.toNat < 16 then
      fitBytes 64 (Config.shake256 64 ((s.part ⟨part.toNat, h⟩).bytes ⟨part.toNat, h⟩))
    else bytesOf 64 0)
  let key := fitBytes 1793 (Config.falconPublic a.fakSeed) ++ bytesOf 15 0
  let body := head ++ key ++ fitBytes 1280 (Config.falconSign idkSeed key)
  body ++ fitBytes 1280 (Config.falconSign a.fakSeed body)

/-- `ATTESTATION_REQUEST` (R389). -/
def attestationRequest (nonce : BitVec 256) (part : Byte) (s : State) : State :=
  if s.always.recovery = false ∧ (part.toNat < 16 ∨ part = 0xFF#8) then
    { s with always := { s.always with report := s.attestation nonce part } }
  else s

/-- `ATTESTATION_REQUEST` (R389). -/
def execAttestationRequest (nonce : BitVec 256) (part : Byte) (s : State) : Result := .next (attestationRequest nonce part s)

/-! ## Debug (R390) -/

/-- A partition is killed to the end at once (R376). (DESIGN CHOICE, log 87.) -/
def State.killNow (s : State) (p : Fin 16) : State :=
  let s := partitionKill p s
  let s := (s.strands.filter fun m => m.launch.part == p).foldl (fun s m => s.removeStrand m.sid) s
  let s := (s.launches.filter fun l => l.part == p).foldl (fun s l =>
    killReleased p l.tag ((s.quiesce l).modifyLaunch p l.tag fun x => { x with kill := .quiesced })) s
  s.releasePartition p

def State.killAll (s : State) : State := (List.finRange 16).foldl State.killNow s

/-- R390: every partition is killed, every owned word is zeroed, and every partition key is destroyed. (DESIGN CHOICE, log 87.) -/
def State.eraseAll (s : State) : State :=
  (List.finRange 16).foldl (fun s p =>
    if (s.part p).active then (s.zeroUnits (s.part p)).modifyPart p fun x => { x with keys := none } else s) s.killAll

/-- R390: whether a token is signed by a key whose hash is fused, and bound to the serial number and the SC's nonce. Where the
token holds its parts the spec does not say. (DESIGN CHOICE, log 15.) -/
def AlwaysOn.tokenValid (a : AlwaysOn) (token : List Byte) : Bool :=
  let key := Config.tokenKey token
  Config.debugKeyHashes.contains (Config.shake256 32 key) &&
    Config.falconVerify key (Config.tokenMessage token) (Config.tokenSignature token) &&
    Config.tokenSerial token == Config.serial && Config.tokenNonce token == Config.debugNonce a.nonce

/-- `DEBUG_UNLOCK` (R390): a token is good for one attempt. (DESIGN CHOICE, log 87.) -/
def debugUnlock (token : List Byte) (s : State) : State :=
  let t := { s with always := { s.always with nonce := s.always.nonce + 1 } }
  if s.always.recovery = false ∧ s.always.tokenValid token then
    let t := t.eraseAll
    { t with always := { t.always with debugOpen := true, debugged := true } }
  else t

/-- `DEBUG_UNLOCK` (R390). -/
def execDebugUnlock (token : List Byte) (s : State) : Result := .next (debugUnlock token s)

/-! ## Resets (R391, R392) -/

/-- What a core keeps of its speed entry. (DEDUCED, log 41.) -/
def Speed.kept (x : Speed) : Speed := { derate := x.derate, inUse := x.derate, ret := x.ret, eol := x.eol, steps := x.steps }

/-- The cores after a reset: only what ageing has done to them is kept. (DEDUCED, log 41.) -/
def State.agedCores (s : State) : Tab CoreState :=
  (s.cores.map fun (c : Nat × CoreState) => (c.1, ({ speed := c.2.speed.kept } : CoreState))).filter fun c => c.2 != {}

/-- Bring-up: everything but the always-on domain is as after a cold start; HEARTBEAT does not decrease (R317). (DEDUCED, log 41.) -/
def State.bringUp (s : State) (a : AlwaysOn) (h : HostPort) : State :=
  { State.reset with
    always := a.verified
    host := h
    cores := s.agedCores
    pkg := s.pkg
    tick := s.tick
    mesh := s.mesh
    tickSource := s.tickSource
    lastTickFlit := s.lastTickFlit
    pending := s.pending
    free := s.free
    clock := s.clock }

/-- `COLD_START` (R391): fuses and flash are kept. (DEDUCED, log 41.) -/
def coldStart (s : State) : State := s.bringUp { fusedSvn := s.always.fusedSvn, firmware := s.always.firmware } {}

/-- `COLD_START` (R391). -/
def execColdStart (s : State) : Result := .next (coldStart s)

/-- `WARM_RESET` (R392, R383): the partitions are killed and the host cache is written back. (DEDUCED, log 41.) -/
def warmReset (cause : Word32) (s : State) : State :=
  if cause = 2#32 ∨ cause = 3#32 then
    let t := s.killAll
    let u := t.bringUp
      { t.always with
        cause := cause.toNat, warm := sat32 (t.always.warm + 1), debugOpen := false
        interrupts := t.always.interrupts + 1 }
      { t.host with linkDown := false }
    { u with gens := t.gens }
  else s

/-- `WARM_RESET` (R392). -/
def execWarmReset (cause : Word32) (s : State) : Result := .next (warmReset cause s)

/-- `THERMAL_TRIP` (R394): the host link goes with its rail, and all but the always-on domain with the others. (DEDUCED, log 42.) -/
def thermalTrip (s : State) : State :=
  let t := surpriseLinkLoss s
  { t.bringUp t.always t.host with
    always := { t.always with cause := 4, debugOpen := false, railsOff := true, ready := false, interrupts := t.always.interrupts + 1 } }

/-- `THERMAL_TRIP` (R394). -/
def execThermalTrip (s : State) : Result := .next (thermalTrip s)

/-! ## The I3C target (R393, R395) -/

/-- R391 step 4: the cores that failed the self-test. -/
def excludedCores : Nat := ((List.range 1536).filter fun c => !Config.passes c).length

/-- The reset record (R393), word by word. (DESIGN CHOICE, log 85.) -/
def State.resetRecord (s : State) : List Nat :=
  let a := s.always
  [1, a.cause, a.warm, a.linkLoss, s.host.lostLines, sat32 s.host.dropSt, s.host.hostDeny, a.bootErr, excludedCores] ++
    List.replicate 7 0

/-- `I3C_REQUEST` (R395): rail powers and temperatures are free. (DESIGN CHOICE, log 85.) -/
def i3cRequest (what : I3cItem) (s : State) : State :=
  let answer (bs : List Byte) (t : State) : State := { t with always := { t.always with i3c := bs } }
  match what with
  | .resetRecord off => answer (bytesOf 4 (s.resetRecord.getD (off / 4) 0)) s
  | .speedEntry core => if 1536 ≤ core then s else answer (longBytes (s.speedWords core)) s
  | .attestation => if s.always.report.getD 4 0#8 = 0xFF#8 then answer s.always.report s else answer [] s
  | .other => let d := s.draw; answer (bytesOf 8 d.1) d.2

/-- `I3C_REQUEST` (R395). -/
def execI3cRequest (what : I3cItem) (s : State) : Result := .next (i3cRequest what s)

/-- `THERMAL_WARNING` (R395). -/
def execThermalWarning (s : State) : Result :=
  .next { s with always := { s.always with interrupts := s.always.interrupts + 1 } }

end Sys2Proof.Machine
end

