-- ==== Sys2Proof/Machine/Fabric.lean ====
section
/-! DEFINITION. The fabric: remote accesses at both ends (R340, R396 to R398), the link layer of the ports (R399, R400) and the source of ticks (R401). -/

namespace Sys2Proof.Machine

/-! ## Accesses of other packages (R340, R396) -/

/-- `REMOTE_ACCESS_ARRIVAL` (R340, R396): admission, and then the access or its wait at its home (R122). (DEDUCED, log 44.) -/
def remoteAccessArrival (r : RemoteRequest) (s : State) : State :=
  match storageOf r.key with
  | .hbm pa =>
    if (r.size = 1 ∨ r.size = 2 ∨ r.size = 4 ∨ r.size = 8) ∧ r.key % r.size = 0 then
      if (s.part r.part).ownsPa pa = false then { s with remDeny := s.remDeny + 1 }
      else if mustWait s.mem r.key r.size r.op then
        let o := s.stampOrder
        { o.2 with outsideWaits := o.2.outsideWaits ++ [(o.1, r)] }
      else (s.outsidePerform r).wake s.mem (wordKeys r.key r.size)
    else s
  | _ => s

/-- `REMOTE_ACCESS_ARRIVAL` (R340). -/
def execRemoteAccessArrival (req : RemoteRequest) (s : State) : Result := .next (remoteAccessArrival req s)

/-! ## The answers to this package's accesses (R340, R398) -/

/-- The register whose operands a remote access reads, and how many. -/
def RemoteAccess.operands (r : RemoteAccess) : Reg × Nat :=
  (match r.dest with
    | .reg x => x
    | _ => .zero,
   match r.op with
    | .amo .. => 1
    | .cas .. => 2
    | _ => 0)

/-- The strand in turn takes the value of its remote access. -/
def State.takeValue (s : State) (r : RemoteAccess) (v : Nat) : State :=
  let b := s.me.ctx
  let x := r.operands.1
  let p := s.partsOf x
  match b.operands p x r.operands.2 with
  | .error _ => { s with me := s.me.retry }
  | .ok (_, c) =>
    let w : Word := if r.op = .fetest then BitVec.ofNat 64 (v % 2) else extend r.signed r.size (v % 2 ^ (8 * r.size))
    (s.setCtx c).settle p r.dest x r.operands.2 true r.la w fun c s =>
      { s with me := ({ s.me with ctx := c, stay := false } : Strand).leavePark b }

/-- The poisoned words of an answer, from the lowest: a refused or lost access (R396, R398) poisons all of them; of two words at
their home one or both are. -/
def poisonMasks (size : Nat) (which : Nat) : List Bool :=
  if size = 8 then
    match which % 3 with
    | 0 => [true, true]
    | 1 => [true, false]
    | _ => [false, true]
  else [true]

/-- A value with its poisoned words zero (R125). -/
def maskWords (v : Nat) : List Bool → Nat
  | [] => 0
  | b :: bs => (if b then 0 else v % 2 ^ 32) + 2 ^ 32 * maskWords (v / 2 ^ 32) bs

/-- A remote access that returns poison (R125, R396, R398): word by word, as `bad` says. `FETEST` is no load: it takes the word as
full. -/
def State.takePoison (s : State) (r : RemoteAccess) (bad : List Bool) (v : Nat) : State :=
  if r.op = .fetest then s.takeValue r 1
  else if s.myPart.poisonTrap then
    s.trap ⟨.poisonConsumed, (r.va &&& ~~~3#64) + BitVec.ofNat 64 (4 * bad.findIdx id)⟩
  else (s.countPoison (bad.filter id).length).takeValue r (maskWords v bad)

/-- The oldest access of a strand that has not been answered. -/
def State.oldestRemote (s : State) (sid : StrandId) : Option RemoteAccess := s.remoteOps.find? fun r => r.sid == sid && !r.lost

/-- An access is answered: a value reaches its strand, if that still waits for it. -/
def State.answerRemote (s : State) (r : RemoteAccess) (f : State → State) : State :=
  let t := { s with remoteOps := s.remoteOps.erase r }
  if returnsValue r.op then
    t.as r.sid fun s => match s.me.wait with
      | some (.remote _) => f s
      | _ => s
  else t

/-- A `SEND` to another package is accepted there, or dropped and reported back (R127). -/
def State.answerSend (s : State) (sid : StrandId) (denied : Bool) : State :=
  match s.strand? sid with
  | none => s
  | some m =>
    match m.frame, m.wait with
    | .parked, some (.send c ..) =>
      if sidPkg (contSid c) = s.pkg then s
      else (if denied then s.count m.core msgDrop else s).endSend sid
    | _, _ => s

/-- The ticks within which an access that returns a value is answered (R398). -/
def remoteBound : Nat := 10000

/-- R398: whether an access is timed and its time is over. An `LDF` or `LDE` is not timed while it is parked at its home: whether it
is, this package does not see. -/
def State.remoteOver (s : State) (r : RemoteAccess) : Bool :=
  returnsValue r.op && r.since + remoteBound ≤ s.tick &&
    (r.lost || (r.op != .ldf && r.op != .lde) || Config.choice s.free % 2 == 0)

/-- R398: an access that has timed out completes as poison. -/
def State.timeOut (s : State) (r : RemoteAccess) : State :=
  ({ s with remTimeout := s.remTimeout + 1 } : State).answerRemote r fun s => s.takePoison r (poisonMasks r.size 0) 0

/-- `REMOTE_RESPONSE` (R340, R341, R398): the answer to the strand's oldest access, which has come in time; the value is free, and
`denied` says that it is poisoned. (DEDUCED, log 18.) -/
def remoteResponse (sid : StrandId) (denied : Bool) (s : State) : State :=
  match s.oldestRemote sid with
  | some r =>
    let d := s.draw
    let e := d.2.draw
    let late := returnsValue r.op && r.op != .ldf && r.op != .lde && r.since + remoteBound < s.tick
    if late then s.timeOut r
    else e.2.answerRemote r fun s => if denied then s.takePoison r (poisonMasks r.size e.1) d.1 else s.takeValue r d.1
  | none => s.answerSend sid denied

/-- `REMOTE_RESPONSE` (R340). -/
def execRemoteResponse (sid : StrandId) (denied : Bool) (s : State) : Result := .next (remoteResponse sid denied s)

/-- `REMOTE_TIMEOUT` (R398). (DEDUCED, log 18.) -/
def remoteTimeout (sid : StrandId) (s : State) : State :=
  match s.remoteOps.find? fun r => r.sid == sid && returnsValue r.op with
  | some r =>
    let t := { s with free := s.free + 1 }
    if s.remoteOver r then t.timeOut r else t
  | none => s

/-- `REMOTE_TIMEOUT` (R398). -/
def execRemoteTimeout (sid : StrandId) (s : State) : Result := .next (remoteTimeout sid s)

/-! ## Denvos Link (R399, R400) -/

def State.port (s : State) (n : Nat) : PortState := Tab.get {} s.ports n
def State.setPort (s : State) (n : Nat) (p : PortState) : State := { s with ports := Tab.put {} s.ports n p }

/-- The counters of a lane (R415): flits corrected, replays and DROPPED. -/
def State.countLane (s : State) (lane item n : Nat) : State :=
  { s with laneCounts := Tab.put 0 s.laneCounts (4 * lane + item) (Tab.get 0 s.laneCounts (4 * lane + item) + n) }

/-- The lanes of a port that work. -/
def PortState.lanes (p : PortState) (n : Nat) : List Nat :=
  ((List.range 8).map (8 * n + ·)).filter fun l => !p.retired.contains l

/-- R400: the accesses of this package that were in flight on a port of a die that goes down are dropped: which ones is free. A dropped
store is never acknowledged. (DEDUCED, log 18.) -/
def State.dropInFlight (s : State) (die : Nat) : State :=
  { s with
    remoteOps := s.remoteOps.zipIdx.map fun x =>
      if dieOfCore (((s.strand? x.1.sid).map (·.core)).getD 0) = die ∧ Config.choice (s.free + x.2) % 2 = 0 then { x.1 with lost := true }
      else x.1
    free := s.free + s.remoteOps.length }

/-- `LANE_RETIRE` (R400): the port runs on four lanes, or goes down; what is in flight on it is then dropped. How many
messages that is is free. -/
def laneRetire (lane : Nat) (s : State) : State :=
  let n := lane / 8
  let p := s.port n
  if p.retired.contains lane ∨ p.down then s
  else
    let q := { p with retired := lane :: p.retired }
    if (q.lanes n).length < 4 then
      let d := s.draw
      ((List.range 8).map (8 * n + ·)).foldl (fun t l => t.countLane l 2 (d.1 % 2 ^ 16))
        ((d.2.setPort n { q with down := true }).dropInFlight (n / 6))
    else s.setPort n q

/-- `LANE_RETIRE` (R400). -/
def execLaneRetire (lane : Fin 192) (s : State) : Result := .next (laneRetire lane.val s)

/-- TYPE and SEQ of a flit. -/
def flitType (bs : List Byte) : Nat := fieldOf bs 0 2 / 4096
def flitSeq (bs : List Byte) : Nat := fieldOf bs 0 2 % 4096

/-- A replay is requested: it counts on every lane that works, and a lane that exceeds 2^10 in a tick is retired. -/
def State.requestReplay (s : State) (n : Nat) : State :=
  let p := s.port n
  let ls := p.lanes n
  let q := { p with replays := ls.foldl (fun t l => Tab.put 0 t l (Tab.get 0 t l + 1)) p.replays }
  let s := ls.foldl (fun s l => s.countLane l 1 1) (s.setPort n q)
  (ls.filter fun l => 1024 < Tab.get 0 q.replays l).foldl (fun s l => laneRetire l s) s

/-- R401: the tick number that a tick flit brings; HEARTBEAT never decreases. -/
def State.takeTick (s : State) (bs : List Byte) : State :=
  let t := fieldOf bs 2 8
  { s.tickTo t with lastTickFlit := max s.lastTickFlit (max s.tick t) }

/-- `FLIT_RECEIVE` (R399, R400): the flit after its correction, whose work is free; a failed CRC or a flit out of sequence
asks for a replay. (DESIGN CHOICE, log 16; DEDUCED, log 45.) -/
def flitReceive (n : Nat) (flit : List Byte) (s : State) : State :=
  let p := s.port n
  if p.down ∨ flit.length ≠ 256 then s
  else
    let d := s.draw
    let fixed := d.1 % 2 = 1
    let bs := if fixed then Config.corrected flit else flit
    let s := if fixed then ((p.lanes n)[d.1 / 2 % 8]?).elim d.2 fun l => d.2.countLane l 0 1 else d.2
    if crc32 (cutBytes bs 0 244) ≠ BitVec.ofNat 32 (fieldOf bs 244 4) ∨ flitSeq bs ≠ p.expect then s.requestReplay n
    else
      let s := s.setPort n { p with expect := (p.expect + 1) % 4096 }
      if flitType bs = 3 then s.takeTick bs else s

/-- `FLIT_RECEIVE` (R400). -/
def execFlitReceive (port : Fin 24) (flit : List Byte) (s : State) : Result := .next (flitReceive port.val flit s)

/-- `TICK_SOURCE_FAILOVER` (R401): the source has been silent for 1,000 ticks. -/
def tickSourceFailover (src : BitVec 10) (s : State) : State :=
  if s.tickSource ≠ s.pkg ∧ s.lastTickFlit + 1000 ≤ s.tick then { s with tickSource := src, lastTickFlit := s.tick } else s

/-- `TICK_SOURCE_FAILOVER` (R401). -/
def execTickSourceFailover (newSource : BitVec 10) (s : State) : Result := .next (tickSourceFailover newSource s)

end Sys2Proof.Machine
end

