-- ==== Sys2Proof/Machine/ScalarFloat.lean ====
section
/-! DEFINITION. The meanings of the scalar floating-point instructions, major 0x04 (R74 to R83). -/

namespace Sys2Proof.Machine

/-- R75: .S or .D. -/
def fmtOf (dbl : Bool) : Fmt := if dbl then fp64 else fp32
/-- R74: a .S operand is the low half of its register. -/
def operandOf (dbl : Bool) (w : Word) : Nat := if dbl then w.toNat else w.toNat % 2 ^ 32
/-- R74: a .S result is zero-extended. -/
def fpResult (r : Nat × FpFlags) : Word × FpFlags := (BitVec.ofNat 64 r.1, r.2)

/-- A float operation of the frame of R59, in the rounding mode FRM (R76). -/
def State.falu (s : State) (g : Guard) (dbl readsD : Bool) (d s1 s2 : Reg)
    (f : Fmt → Rounding → Nat → Nat → Nat → Nat × FpFlags) : State :=
  s.attempt (s.me.ctx.frame .execute g s1 s2 readsD d fun a b c =>
    fpResult (f (fmtOf dbl) (frm s.me.ctx.sys.status) (operandOf dbl a) (operandOf dbl b) (operandOf dbl c)))

/-- A float comparison (R79): `quietOk` says that only a signalling NaN raises NV. -/
def State.fcmp (s : State) (g : Guard) (dbl quietOk : Bool) (pd : BitVec 4) (s1 s2 : Reg) (f : Fp → Fp → Bool) : State :=
  s.attempt (s.me.ctx.frameP .execute g s1 s2 pd fun a b =>
    let x := (fmtOf dbl).decode (operandOf dbl a)
    let y := (fmtOf dbl).decode (operandOf dbl b)
    (f x y, { nv := if quietOk then x.isSNaN || y.isSNaN else x.isNaN || y.isNaN }))

/-- `FADD` (R75). -/
def execFadd (g : Guard) (dbl : Bool) (d s1 s2 : Reg) (s : State) : Result :=
  .next (s.falu g dbl false d s1 s2 fun f rm a b _ => f.addOp rm a b)
/-- `FSUB` (R75). -/
def execFsub (g : Guard) (dbl : Bool) (d s1 s2 : Reg) (s : State) : Result :=
  .next (s.falu g dbl false d s1 s2 fun f rm a b _ => f.subOp rm a b)
/-- `FMUL` (R75). -/
def execFmul (g : Guard) (dbl : Bool) (d s1 s2 : Reg) (s : State) : Result :=
  .next (s.falu g dbl false d s1 s2 fun f rm a b _ => f.mulOp rm a b)
/-- `FFMA` (R75): the addend is the old destination. -/
def execFfma (g : Guard) (dbl : Bool) (d s1 s2 : Reg) (s : State) : Result :=
  .next (s.falu g dbl true d s1 s2 fun f rm a b c => f.fmaOp rm false false a b c)
/-- `FDIV` (R75). -/
def execFdiv (g : Guard) (dbl : Bool) (d s1 s2 : Reg) (s : State) : Result :=
  .next (s.falu g dbl false d s1 s2 fun f rm a b _ => f.divOp rm a b)
/-- `FSQRT` (R75). -/
def execFsqrt (g : Guard) (dbl : Bool) (d s1 : Reg) (s : State) : Result :=
  .next (s.falu g dbl false d s1 .zero fun f rm a _ _ => f.sqrtOp rm a)
/-- `FMIN` (R78). -/
def execFmin (g : Guard) (dbl : Bool) (d s1 s2 : Reg) (s : State) : Result :=
  .next (s.falu g dbl false d s1 s2 fun f _ a b _ => f.minMax false a b)
/-- `FMAX` (R78). -/
def execFmax (g : Guard) (dbl : Bool) (d s1 s2 : Reg) (s : State) : Result :=
  .next (s.falu g dbl false d s1 s2 fun f _ a b _ => f.minMax true a b)

/-- `FCMP.EQ` (R79). -/
def execFcmpEq (g : Guard) (dbl : Bool) (pd : BitVec 4) (s1 s2 : Reg) (s : State) : Result :=
  .next (s.fcmp g dbl true pd s1 s2 Fp.numEq)
/-- `FCMP.LT` (R79). -/
def execFcmpLt (g : Guard) (dbl : Bool) (pd : BitVec 4) (s1 s2 : Reg) (s : State) : Result :=
  .next (s.fcmp g dbl false pd s1 s2 Fp.numLt)
/-- `FCMP.LE` (R79). -/
def execFcmpLe (g : Guard) (dbl : Bool) (pd : BitVec 4) (s1 s2 : Reg) (s : State) : Result :=
  .next (s.fcmp g dbl false pd s1 s2 fun x y => x.numLt y || x.numEq y)
/-- `FCMP.UN` (R79). -/
def execFcmpUn (g : Guard) (dbl : Bool) (pd : BitVec 4) (s1 s2 : Reg) (s : State) : Result :=
  .next (s.fcmp g dbl true pd s1 s2 fun x y => x.isNaN || y.isNaN)

/-- R80, R81: the conversion that KIND names, F being .S or .D. -/
def convert (dbl : Bool) (rm : Rounding) (kind : BitVec 3) (a : Word) : Word × FpFlags :=
  let f := fmtOf dbl
  let x := f.decode (operandOf dbl a)
  let int (r : Int × FpFlags) : Word × FpFlags := (BitVec.ofInt 64 r.1, r.2)
  match kind with
  | 0#3 => fpResult ((fmtOf (!dbl)).round rm false x)
  | 1#3 => int (toIntRange rm (-2 ^ 31) (2 ^ 31 - 1) x)
  | 2#3 => int (toIntRange rm 0 (2 ^ 32 - 1) x)
  | 3#3 => int (toIntRange rm (-2 ^ 63) (2 ^ 63 - 1) x)
  | 4#3 => int (toIntRange rm 0 (2 ^ 64 - 1) x)
  | 5#3 => fpResult (f.round rm false (Fp.fromInt a.toInt))
  | 6#3 => fpResult (f.round rm false (Fp.fromInt a.toNat))
  | _ => fpResult (f.toIntegralOp rm (operandOf dbl a))

/-- `FCVT` (R80, R81). -/
def execFcvt (g : Guard) (dbl : Bool) (rm : BitVec 2) (kind : BitVec 3) (d s1 : Reg) (s : State) : Result :=
  .next (s.attempt (s.me.ctx.frame .execute g s1 .zero false d fun a _ _ => convert dbl (Rounding.of rm) kind a))

/-- R82: the class of a code, as a bit number. -/
def classBit (f : Fmt) (a : Nat) : Nat :=
  match f.decode a with
  | .zero n => if n then 1 else 0
  | .fin x =>
    let sub := a % f.signWeight < 2 ^ f.t
    if sub then (if x.neg then 3 else 2) else (if x.neg then 5 else 4)
  | .inf n => if n then 7 else 6
  | .nan _ _ _ sig => if sig then 9 else 8

/-- `FCLASS` (R82). -/
def execFclass (g : Guard) (dbl : Bool) (d s1 : Reg) (s : State) : Result :=
  .next (s.falu g dbl false d s1 .zero fun f _ a _ _ => (2 ^ classBit f a, {}))

end Sys2Proof.Machine
end

