-- ==== Sys2Proof/Machine/VectorMemory.lean ====
section
/-! DEFINITION. Vector memory, major 0x2D (R241 to R243). -/

namespace Sys2Proof.Machine

/-- The accesses of the active lanes, in increasing lane order: the value of each lane that was loaded. A lane that traps does
so before the address of a later lane is checked. (DEDUCED, log 93; DESIGN CHOICE, log 104.) -/
def State.loadLanes (s : State) (at_ : Nat → Word) (l : List Nat) : Except Stop (List (Nat × Word32) × State) :=
  match (s.unbroken 4 (l.map at_)).loadEach 4 (l.map at_) with
  | .error e => .error e
  | .ok (vs, s) => .ok (l.zip (vs.map (BitVec.ofNat 32)), s)

/-- The stores of the active lanes. (DEDUCED, log 93.) -/
def State.storeLanes (s : State) (at_ : Nat → Word) (val : Nat → Word32) (l : List Nat) : Except Trap State :=
  s.storeEach 4 (l.map fun i => (at_ i, (val i).toNat))

/-- The active lanes under a mask. -/
def Context.active (c : Context) (k : BitVec 3) : List Nat := (List.range c.W).filter (c.mask k).getLsbD

/-- The value at an index of an association list. -/
def lookupLane (l : List (Nat × Word32)) (i : Nat) (dflt : Word32) : Word32 :=
  match l.find? fun x => x.1 == i with
  | some x => x.2
  | none => dflt

/-- The loaded lanes put into the destination, merging (R241), seen once the window has closed (R49). -/
def State.endVload (s : State) (la : BitVec 4) (vd : BitVec 4) (t : Tag) (vs : List (Nat × Word32)) : State :=
  let c := s.me.ctx
  let ls := (List.range c.W).map fun i => lookupLane vs i (c.lane vd i)
  s.done (c.writeLate s.me.issue.pos (s.lookahead la.toNat) (.v vd ls t))

/-- A vector load: `t` is the result tag. -/
def State.vload (s : State) (k : BitVec 3) (la vd : BitVec 4) (bad : Option Trap) (t : Tag) (at_ : Nat → Word) : State :=
  let c := s.me.ctx
  if c.W = 0 then s.trap ⟨.noVectorWidth, 0#64⟩
  else
    match bad with
    | some b => s.trap b
    | none =>
      if c.mergeBad false k vd t then s.trap (mergeTrap [] (c.vtag vd))
      else
        match s.loadLanes at_ (c.active k) with
        | .error e => s.stopAt e
        | .ok (vs, s) => s.endVload la vd t vs

/-- A vector store. -/
def State.vstore (s : State) (k : BitVec 3) (vd : BitVec 4) (bad : Option Trap) (at_ : Nat → Word) : State :=
  let c := s.me.ctx
  if c.W = 0 then s.trap ⟨.noVectorWidth, 0#64⟩
  else
    match bad with
    | some b => s.trap b
    | none =>
      match s.storeLanes at_ (c.lane vd) (c.active k) with
      | .error b => s.trap b
      | .ok s => s.setNote .done

/-- The addresses of R241. -/
def unitAt (base : Word) (i : Nat) : Word := base + BitVec.ofNat 64 (4 * i)
def strideAt (base stride : Word) (i : Nat) : Word := base + BitVec.ofNat 64 i * stride
def indexAt (c : Context) (base : Word) (vx : BitVec 4) (i : Nat) : Word :=
  let x := c.lane vx i
  base + 4#64 * (if c.vtag vx = tI32 then x.signExtend 64 else x.setWidth 64)
def strideReg (c : Context) (ix : BitVec 4) : Word := c.acc.a[dregNum ix]
/-- R241: an index vector of another tag. -/
def indexBad (c : Context) (vx : BitVec 4) (srcs : List Tag) : Option Trap :=
  if c.vtag vx = tI32 ∨ c.vtag vx = tU32 then none else some (tagTrap srcs)

/-- `VLD` (R241). -/
def execVld (ts : BitVec 4) (k : BitVec 3) (la vd : BitVec 4) (base : Reg) (s : State) : Result :=
  let c := s.me.ctx
  .next (s.vload k la vd none (selTag ts (c.vtag vd)) (unitAt (jumpValue base c)))
/-- `VST` (R241). -/
def execVst (k : BitVec 3) (_la vd : BitVec 4) (base : Reg) (s : State) : Result :=
  .next (s.vstore k vd none (unitAt (jumpValue base s.me.ctx)))
/-- `VLDS` (R241). -/
def execVlds (ix : BitVec 4) (k : BitVec 3) (la vd : BitVec 4) (base : Reg) (s : State) : Result :=
  let c := s.me.ctx
  .next (s.vload k la vd none (c.vtag vd) (strideAt (jumpValue base c) (strideReg c ix)))
/-- `VSTS` (R241). -/
def execVsts (ix : BitVec 4) (k : BitVec 3) (_la vd : BitVec 4) (base : Reg) (s : State) : Result :=
  let c := s.me.ctx
  .next (s.vstore k vd none (strideAt (jumpValue base c) (strideReg c ix)))
/-- `VLDX` (R241). -/
def execVldx (ix : BitVec 4) (k : BitVec 3) (la vd : BitVec 4) (base : Reg) (s : State) : Result :=
  let c := s.me.ctx
  .next (s.vload k la vd (indexBad c ix [c.vtag ix]) (c.vtag vd) (indexAt c (jumpValue base c) ix))
/-- `VSTX` (R241). -/
def execVstx (ix : BitVec 4) (k : BitVec 3) (_la vd : BitVec 4) (base : Reg) (s : State) : Result :=
  let c := s.me.ctx
  .next (s.vstore k vd (indexBad c ix [c.vtag vd, c.vtag ix]) (indexAt c (jumpValue base c) ix))

/-! ## Lane slices (R243) -/

/-- The key of a word of a lane's slice. -/
def sliceKey (lane off : Nat) : Nat := 4096 * lane + off

/-- R243: the checks of the offset. -/
def sliceBad (base : Word) : Option Trap :=
  if base.toNat % 4 ≠ 0 then some ⟨.misaligned, base⟩
  else if 4092 < base.toNat then some ⟨.protectionFault, base⟩
  else none

/-- `VLDL` (R243, R125). -/
def vldlStep (k : BitVec 3) (la vd : BitVec 4) (base : Word) (s : State) : State :=
  let c := s.me.ctx
  let m := c.vec.slice
  let bad := (c.active k).filter fun i => m.poisoned (sliceKey i base.toNat)
  if c.W = 0 then s.trap ⟨.noVectorWidth, 0#64⟩
  else
    match sliceBad base with
    | some t => s.trap t
    | none =>
      if !bad.isEmpty && s.myPart.poisonTrap then s.trap ⟨.poisonConsumed, base⟩
      else
        (s.countPoison bad.length).endVload la vd (c.vtag vd) ((c.active k).map fun i =>
          (i, if bad.contains i then 0#32 else BitVec.ofNat 32 (m.read (sliceKey i base.toNat) 4)))

/-- `VLDL` (R243). -/
def execVldl (k : BitVec 3) (la vd : BitVec 4) (base : Reg) (s : State) : Result :=
  .next (vldlStep k la vd (jumpValue base s.me.ctx) s)

/-- `VSTL` (R243). -/
def vstlStep (k : BitVec 3) (vd : BitVec 4) (base : Word) (s : State) : State :=
  let c := s.me.ctx
  if c.W = 0 then s.trap ⟨.noVectorWidth, 0#64⟩
  else
    match sliceBad base with
    | some t => s.trap t
    | none =>
      let m := (c.active k).foldl (fun m i => storeMem m (sliceKey i base.toNat) 4 (c.lane vd i).toNat) c.vec.slice
      s.done { c with vec := { c.vec with slice := m } }

/-- `VSTL` (R243). -/
def execVstl (k : BitVec 3) (_la vd : BitVec 4) (base : Reg) (s : State) : Result :=
  .next (vstlStep k vd (jumpValue base s.me.ctx) s)

end Sys2Proof.Machine
end

