-- ==== Sys2Proof/Machine/VectorMove.lean ====
section
/-! DEFINITION. Tags and conversion, major 0x2B (R234 to R237), and reductions, scans and permutations, major 0x2C (R238, R239). -/

namespace Sys2Proof.Machine

/-! ## Registers as lists of elements -/

/-- The elements of a register of a tag, over its W lanes (R209). -/
def Context.elems (c : Context) (n : BitVec 4) (t : Tag) : List Nat := (c.vreg n).flatMap (splitLane (tagBits t))

/-- A register whose element e is `f e` where that gives one; other elements keep their bits. Each lane carries the flags
of its elements. -/
def Context.patch (c : Context) (n : BitVec 4) (t : Tag) (f : Nat → Option (Nat × FpFlags)) : List LaneResult :=
  let w := tagBits t
  let p := 32 / w
  (c.vreg n).zipIdx.map fun (x : Word32 × Nat) =>
    let es := (splitLane w x.1).zipIdx.map fun (y : Nat × Nat) => (f (p * x.2 + y.2)).getD (y.1, {})
    (laneOf w (es.map (·.1)), orFlags (es.map (·.2)))

/-! ## Conversion (R234, R235) -/

/-- `VTAG` (R234). -/
def vtagStep (t : BitVec 6) (vd va : BitVec 4) (s : State) : State :=
  s.vector fun c =>
    if tagOk t = false then .error (s.wordTrap .illegalCombination) else .ok (c.write (.v vd (c.vreg va) t))

/-- `VTAG` (R234). -/
def execVtag (t : BitVec 6) (vd va : BitVec 4) (s : State) : Result := .next (vtagStep t vd va s)

def convertible (t : Tag) : Bool := isInt t || isFlt t || isB8 t

def intMin (t : Tag) : Int := if tagSigned t then -(2 ^ (tagBits t - 1) : Nat) else 0
def intMax (t : Tag) : Int := if tagSigned t then (2 ^ (tagBits t - 1) : Nat) - 1 else (2 ^ tagBits t : Nat) - 1

/-- R235: one element converted from a tag into another. Integers into floating formats round with the SAT of R235, where R215
says sat = 0. (DEDUCED, log 105.) -/
def convertElem (rm : Rounding) (sat : Bool) (ts td : Tag) (a : Nat) : Nat × FpFlags :=
  if isInt ts then
    let n := intVal (tagSigned ts) (tagBits ts) a
    if isInt td then (intCode (tagBits td) (if sat then max (intMin td) (min (intMax td) n) else n), {})
    else (tagFmt td).round rm sat (Fp.fromInt n)
  else
    let x := (tagFmt ts).decode a
    if isInt td then
      let r := toIntRange rm (intMin td) (intMax td) x
      (intCode (tagBits td) r.1, r.2)
    else (tagFmt td).round rm sat x

/-- R235: the source element that goes to destination element `e`. -/
def convertSource (cs cd w part e : Nat) : Option Nat :=
  if cs < cd then (if part * cs * w ≤ e ∧ e < (part + 1) * cs * w then some (e - part * cs * w) else none)
  else if cd < cs then some (part * cd * w + e)
  else some e

def partOk (cs cd part : Nat) : Bool := part < max (cd / cs) (max (cs / cd) 1)

/-- `VCVT` (R235). -/
def vcvtStep (z : Bool) (k : BitVec 3) (rm : BitVec 2) (sat : Bool) (part : BitVec 2) (vd va : BitVec 4) (s : State) :
    State :=
  s.vector fun c =>
    let ts := c.vtag va
    let td := c.vtag vd
    let cs := perLane ts
    let cd := perLane td
    if convertible ts = false ∨ convertible td = false then .error (tagTrap [ts])
    else if partOk cs cd part.toNat = false then .error (s.wordTrap .illegalCombination)
    else
      let src := c.elems va ts
      .ok (c.writeLanes z k vd td (c.patch vd td fun e =>
        (convertSource cs cd c.W part.toNat e).map fun j => convertElem (Rounding.of rm) sat ts td (src.getD j 0)))

/-- `VCVT` (R235). -/
def execVcvt (z : Bool) (k : BitVec 3) (rm : BitVec 2) (sat : Bool) (part : BitVec 2) (vd va : BitVec 4) (s : State) :
    Result := .next (vcvtStep z k rm sat part vd va s)

/-- `VQNT` (R236). -/
def vqntStep (rm part : BitVec 2) (vd va vs : BitVec 4) (s : State) : State :=
  s.vector fun c =>
    if c.vtag va ≠ tF32 ∨ isB8 (c.vtag vd) = false then .error (tagTrap [c.vtag va])
    else if c.W % 32 ≠ 0 ∨ vs = vd ∨ vs = va then .error (s.wordTrap .illegalCombination)
    else
      let f := tagFmt (c.vtag vd)
      let src := (c.elems va tF32).map fp32.decode
      let blocks := (List.range (c.W / 32)).map fun b => blockQuant f (Rounding.of rm) ((src.drop (32 * b)).take 32)
      let codes := blocks.flatMap (·.2.1)
      let fl := orFlags (blocks.map (·.2.2))
      let base := part.toNat * c.W
      let sbase := part.toNat * (c.W / 32)
      let out := c.patch vd (c.vtag vd) fun e => if base ≤ e ∧ e < base + c.W then some (codes.getD (e - base) 0, {}) else none
      let sc := c.patch vs tScale fun e =>
        if sbase ≤ e ∧ e < sbase + c.W / 32 then some ((blocks.map (·.1)).getD (e - sbase) 0, {}) else none
      .ok (((c.raise { fl with nv := false }).write (.v vd (out.map (·.1)) (c.vtag vd))).write (.v vs (sc.map (·.1)) tScale))

/-- `VQNT` (R236). -/
def execVqnt (rm part : BitVec 2) (vd va vs : BitVec 4) (s : State) : Result := .next (vqntStep rm part vd va vs s)

/-- `VDQNT` (R237). -/
def vdqntStep (part : BitVec 2) (vd va vs : BitVec 4) (s : State) : State :=
  s.vector fun c =>
    let td := c.vtag vd
    let cd := perLane td
    if isB8 (c.vtag va) = false ∨ c.vtag vs ≠ tScale ∨ isFlt td = false then .error (tagTrap [c.vtag va, c.vtag vs])
    else if 4 / cd ≤ part.toNat then .error (s.wordTrap .illegalCombination)
    else
      let src := c.elems va (c.vtag va)
      let scales := c.elems vs tScale
      let rs := c.patch vd td fun j =>
        let e := part.toNat * cd * c.W + j
        some (deQuant (tagFmt (c.vtag va)) (tagFmt td) (src.getD e 0) (scales.getD (e / 32) 0))
      .ok (c.writeLanes false 0#3 vd td rs)

/-- `VDQNT` (R237). -/
def execVdqnt (part : BitVec 2) (vd va vs : BitVec 4) (s : State) : Result := .next (vdqntStep part vd va vs s)

/-! ## Reductions and scans (R238) -/

/-- R238: the operation of a code. -/
def redOp (t : Tag) (op : Nat) (a b : Word32) : LaneResult :=
  let f (r : Nat × FpFlags) : LaneResult := (BitVec.ofNat 32 r.1, r.2)
  match op with
  | 0 => f (addElem t [a.toNat, b.toNat])
  | 1 => f (minElem t [a.toNat, b.toNat])
  | 2 => f (maxElem t [a.toNat, b.toNat])
  | 3 => (a &&& b, {})
  | 4 => (a ||| b, {})
  | _ => (a ^^^ b, {})

/-- R238: its identity. -/
def redIdentity (t : Tag) (op : Nat) : Word32 :=
  match op with
  | 0 => if t = tF32 then 0x80000000#32 else 0#32
  | 1 => if t = tF32 then 0x7F800000#32 else if t = tI32 then 0x7FFFFFFF#32 else 0xFFFFFFFF#32
  | 2 => if t = tF32 then 0xFF800000#32 else if t = tI32 then 0x80000000#32 else 0#32
  | 3 => 0xFFFFFFFF#32
  | _ => 0#32

/-- One level of the tree: pairs are combined. -/
def redLevel (f : Word32 → Word32 → LaneResult) : List Word32 → List LaneResult
  | a :: b :: r => f a b :: redLevel f r
  | [a] => [(a, {})]
  | [] => []

/-- The tree of `n` levels. (DEDUCED, log 71.) -/
def redTree (f : Word32 → Word32 → LaneResult) : Nat → List Word32 → Word32 × FpFlags
  | 0, ys => (ys.headD 0#32, {})
  | n + 1, ys =>
    let l := redLevel f ys
    let r := redTree f n (l.map (·.1))
    (r.1, (orFlags (l.map (·.2))).or r.2)

/-- The logarithm of the least power of two that is at least `n`. -/
def ceilLog2 (n : Nat) : Nat := if n ≤ 1 then 0 else Nat.log2 (n - 1) + 1

def redTagOk (t : Tag) : Bool := t == tI32 || t == tU32 || t == tF32

/-- `VRED` (R238). -/
def vredStep (k : BitVec 3) (op vd va : BitVec 4) (s : State) : State :=
  s.vector fun c =>
    let t := c.vtag va
    if redTagOk t = false then .error (tagTrap [t])
    else if t = tF32 ∧ 3 ≤ op.toNat then .error (s.wordTrap .illegalCombination)
    else
      let n := ceilLog2 c.W
      let ys := (List.range (2 ^ n)).map fun i =>
        if i < c.W ∧ (c.mask k).getLsbD i then c.lane va i else redIdentity t op.toNat
      let r := redTree (redOp t op.toNat) n ys
      .ok ((c.raise r.2).write (.v vd (r.1 :: List.replicate (c.W - 1) 0#32) t))

/-- `VRED` (R238). -/
def execVred (k : BitVec 3) (op vd va : BitVec 4) (s : State) : Result := .next (vredStep k op vd va s)

/-- The steps of a scan at distances s, 2s, …, each lane with the flags of its own steps. (DEDUCED, log 71.) -/
def scanFrom (f : Word32 → Word32 → LaneResult) : Nat → Nat → List LaneResult → List LaneResult
  | 0, _, xs => xs
  | n + 1, d, xs =>
    scanFrom f n (2 * d) (xs.take d ++ List.zipWith (fun x y => let r := f x.1 y.1; (r.1, y.2.or r.2)) xs (xs.drop d))

/-- `VSCAN` (R238). (DEDUCED, log 71.) -/
def vscanStep (z : Bool) (k : BitVec 3) (ex : Bool) (op : BitVec 3) (vd va : BitVec 4) (s : State) : State :=
  s.vector fun c =>
    let t := c.vtag va
    if redTagOk t = false then .error (tagTrap [t])
    else if c.mergeBad z k vd t then .error (mergeTrap [t] (c.vtag vd))
    else if t = tF32 ∧ 3 ≤ op.toNat then .error (s.wordTrap .illegalCombination)
    else
      let r := scanFrom (redOp t op.toNat) (ceilLog2 c.W) 1 ((c.vreg va).map fun x => (x, {}))
      let first := if t = tF32 ∧ op = 0#3 then 0#32 else redIdentity t op.toNat
      let xs := r.map (·.1)
      let fl := orFlags (r.zipIdx.map fun x => if (c.mask k).getLsbD x.2 then x.1.2 else {})
      .ok ((c.raise fl).writeLanes z k vd t ((if ex then first :: xs.dropLast else xs).map fun x => (x, {})))

/-- `VSCAN` (R238). -/
def execVscan (z : Bool) (k : BitVec 3) (ex : Bool) (op : BitVec 3) (vd va : BitVec 4) (s : State) : Result :=
  .next (vscanStep z k ex op vd va s)

/-! ## Permutations (R239) -/

/-- A permutation that applies the mask of R225: lane i of the result is `f i`. -/
def Context.permute (c : Context) (z : Bool) (k : BitVec 3) (vd : BitVec 4) (ts : List Tag) (ok : Bool)
    (f : Nat → Word32) : Except Trap Context :=
  let t := headTag ts
  if ok = false then .error (tagTrap ts)
  else if c.mergeBad z k vd t then .error (mergeTrap ts (c.vtag vd))
  else .ok (c.writeLanes z k vd t ((List.range c.W).map fun i => (f i, {})))

/-- `VPERM` (R239). -/
def execVperm (z : Bool) (k : BitVec 3) (vd va vb : BitVec 4) (s : State) : Result :=
  .next (s.vector fun c =>
    c.permute z k vd [c.vtag va, c.vtag vb] (isAny (c.vtag va) && (c.vtag vb == tI32 || c.vtag vb == tU32)) fun i =>
      c.lane va (c.lane vb i).toNat)

/-- `VSLIDE` (R239). -/
def execVslide (z : Bool) (k : BitVec 3) (vd va dn : BitVec 4) (s : State) : Result :=
  .next (s.vector fun c =>
    c.permute z k vd [c.vtag va] (isAny (c.vtag va)) fun i =>
      let j := (i : Int) + c.exe.d[dregNum dn].toInt
      if j < 0 then 0#32 else c.lane va j.toNat)

/-- `VZIP` (R239). -/
def execVzip (z : Bool) (k : BitVec 3) (part : Bool) (vd va vb : BitVec 4) (s : State) : Result :=
  .next (s.vector fun c =>
    let ts := [c.vtag va, c.vtag vb]
    c.permute z k vd ts (sameTags isAny ts) fun i =>
      c.lane (if i % 2 = 0 then va else vb) (part.toNat * (c.W / 2) + i / 2))

/-- `VUNZ` (R239). -/
def execVunz (z : Bool) (k : BitVec 3) (part : Bool) (vd va vb : BitVec 4) (s : State) : Result :=
  .next (s.vector fun c =>
    let ts := [c.vtag va, c.vtag vb]
    let h := c.W / 2
    c.permute z k vd ts (sameTags isAny ts) fun i =>
      if i < h then c.lane va (2 * i + part.toNat) else c.lane vb (2 * (i - h) + part.toNat))

/-- `VIOTA` (R239). -/
def execViota (k : BitVec 3) (vd : BitVec 4) (s : State) : Result :=
  .next (s.vector fun c =>
    .ok (c.write (.v vd ((List.range c.W).map fun i =>
      BitVec.ofNat 32 ((List.range i).filter (c.mask k).getLsbD).length) tI32)))

/-- `VCOMP` (R239). -/
def execVcomp (k : BitVec 3) (vd va : BitVec 4) (s : State) : Result :=
  .next (s.vector fun c =>
    if isAny (c.vtag va) = false then .error (tagTrap [c.vtag va])
    else
      let kept := ((List.range c.W).filter (c.mask k).getLsbD).map fun i => c.lane va i
      .ok (c.write (.v vd ((kept ++ List.replicate c.W 0#32).take c.W) (c.vtag va))))

end Sys2Proof.Machine
end

