-- ==== Sys2Proof/Machine/VectorSpecial.lean ====
section
/-! DEFINITION. The special functions, major 0x2A (R233), and their 16-bit forms. Exponentials and logarithms are computed to more than a hundred bits and rounded once. -/

namespace Sys2Proof.Machine

/-! ## Fixed-point series -/

/-- ln 2 × 2^320, rounded down. -/
def ln2Fix : Nat := 0xb17217f7d1cf79abc9e3b39803f2f6af40f343267298b62d8a0d175b8baafa2be7b876206debac98

/-- Σ y^j ÷ j! for j from `k` on, in fixed point of 2^320, where `term` is y^(k−1) ÷ (k−1)!. -/
def expTail (y : Nat) : Nat → Nat → Nat → Nat
  | 0, _, _ => 0
  | n + 1, k, term =>
    let t := term * y / 2 ^ 320 / k
    t + expTail y n (k + 1) t

/-- e^(y ÷ 2^320) × 2^320 for y at most 2^320. (DEDUCED, log 73.) -/
def expFix (y : Nat) : Nat := 2 ^ 320 + expTail y 90 1 (2 ^ 320)

/-- A number as fixed point of 2^320, rounded towards zero. (DEDUCED, log 73.) -/
def Exact.toFix (x : Exact) : Nat := if 0 ≤ x.e + 320 then x.m * 2 ^ (x.e + 320).toNat else x.m / 2 ^ (-(x.e + 320)).toNat

/-- 2^x. Beyond ±4096 the value stands for every value out of reach of the formats. -/
def exp2Exact (x : Exact) : Exact :=
  if 12 ≤ x.log2 then ⟨false, 1, if x.neg then -4096 else 4096, true⟩
  else
    let a := x.toFix
    let n : Nat := a / 2 ^ 320
    let f := a % 2 ^ 320
    if f = 0 then ⟨false, 1, if x.neg then -(n : Int) else n, false⟩
    else if x.neg then ⟨false, expFix ((2 ^ 320 - f) * ln2Fix / 2 ^ 320), -(n : Int) - 1 - 320, true⟩
    else ⟨false, expFix (f * ln2Fix / 2 ^ 320), (n : Int) - 320, true⟩

/-- The bits of the fraction of log2 z, the first first, for z in [1, 2) as fixed point of 2^320. -/
def log2Bits : Nat → Nat → Nat
  | 0, _ => 0
  | n + 1, z =>
    let q := z * z / 2 ^ 320
    if 2 ^ 321 ≤ q then 2 ^ n + log2Bits n (q / 2) else log2Bits n q

/-- log2 x for a positive number. -/
def log2Exact (x : Exact) : Fp :=
  let k := x.log2
  let z := x.m * 2 ^ 320 / 2 ^ (Nat.log2 x.m)
  if z = 2 ^ 320 then Fp.ofInt k 0 false
  else
    let v : Int := k * 2 ^ 128 + (log2Bits 128 z : Int)
    if v < 0 then .fin ⟨true, v.natAbs - 1, -128, true⟩ else .fin ⟨false, v.toNat, -128, true⟩

/-- e^(−u) × 2^320 for u in fixed point of 2^320, below 2^328: the 256th power of e^(−u ÷ 256). -/
def expNeg (u : Nat) : Nat :=
  let t := 2 ^ 640 / expFix (u / 256)
  (List.range 8).foldl (fun t _ => t * t / 2 ^ 320) t

/-- tanh x. -/
def tanhExact (x : Exact) : Exact :=
  if x.log2 < -32 then ⟨x.neg, x.m * 2 ^ 200 - 1, x.e - 200, true⟩
  else if 6 ≤ x.log2 then ⟨x.neg, 2 ^ 200 - 1, -200, true⟩
  else
    let t := expNeg (2 * x.toFix)
    ⟨x.neg, (2 ^ 320 - t) * 2 ^ 256 / (2 ^ 320 + t), -256, true⟩

/-- 1 ÷ √x for a positive number. -/
def rsqrtExact (x : Exact) : Exact :=
  let odd := x.e % 2 ≠ 0
  let m := if odd then x.m * 2 else x.m
  let e := if odd then x.e - 1 else x.e
  let k := 64 + Nat.log2 m
  let r := isqrt (2 ^ (2 * k) / m)
  ⟨false, r, -(e / 2) - k, r * r * m ≠ 2 ^ (2 * k)⟩

/-! ## Elements (R233) -/

/-- A unary function: `none` stands for an invalid operation; the flag is DZ. -/
def Fmt.unary (f : Fmt) (g : Fp → Option Fp × Bool) (a : Nat) : Nat × FpFlags :=
  let x := f.decode a
  let r := g x
  let q := f.finish .rne [x] r.1.isNone r.1
  (q.1, { q.2 with dz := r.2 && !x.isNaN })

def rcpFp (x : Fp) : Option Fp × Bool := (Fp.fin ⟨false, 1, 0, false⟩).div x
def rsqFp : Fp → Option Fp × Bool
  | .zero n => (some (.inf n), true)
  | .inf false => (some (.zero false), false)
  | .inf true => (none, false)
  | .fin x => if x.neg then (none, false) else (some (.fin (rsqrtExact x)), false)
  | .nan .. => (some Fp.plainNaN, false)
def sqrtFp (x : Fp) : Option Fp × Bool := (x.sqrt, false)
def exp2Fp : Fp → Option Fp × Bool
  | .zero _ => (some (.fin ⟨false, 1, 0, false⟩), false)
  | .inf n => (some (if n then .zero false else .inf false), false)
  | .fin x => (some (.fin (exp2Exact x)), false)
  | .nan .. => (some Fp.plainNaN, false)
def log2Fp : Fp → Option Fp × Bool
  | .zero _ => (some (.inf true), true)
  | .inf false => (some (.inf false), false)
  | .inf true => (none, false)
  | .fin x => if x.neg then (none, false) else (some (log2Exact x), false)
  | .nan .. => (some Fp.plainNaN, false)
def tanhFp : Fp → Option Fp × Bool
  | .zero n => (some (.zero n), false)
  | .inf n => (some (.fin ⟨n, 1, 0, false⟩), false)
  | .fin x => (some (.fin (tanhExact x)), false)
  | .nan .. => (some Fp.plainNaN, false)

def unaryElem (g : Fp → Option Fp × Bool) (t : Tag) (xs : List Nat) : Nat × FpFlags := (tagFmt t).unary g (arg xs 0)

/-- `VRCP` (R233). -/
def execVrcp (z : Bool) (k : BitVec 3) (vd va : BitVec 4) (s : State) : Result :=
  .next (s.elementwise z k vd [va] isFlt (unaryElem rcpFp))
/-- `VRSQ` (R233). -/
def execVrsq (z : Bool) (k : BitVec 3) (vd va : BitVec 4) (s : State) : Result :=
  .next (s.elementwise z k vd [va] isFlt (unaryElem rsqFp))
/-- `VSQRT` (R233). -/
def execVsqrt (z : Bool) (k : BitVec 3) (vd va : BitVec 4) (s : State) : Result :=
  .next (s.elementwise z k vd [va] isFlt (unaryElem sqrtFp))
/-- `VDIV` (R233). -/
def execVdiv (z : Bool) (k : BitVec 3) (vd va vb : BitVec 4) (s : State) : Result :=
  .next (s.elementwise z k vd [va, vb] isFlt fun t xs => (tagFmt t).divOp .rne (arg xs 0) (arg xs 1))
/-- `VEXP2` (R233). -/
def execVexp2 (z : Bool) (k : BitVec 3) (vd va : BitVec 4) (s : State) : Result :=
  .next (s.elementwise z k vd [va] isFlt (unaryElem exp2Fp))
/-- `VLOG2` (R233). -/
def execVlog2 (z : Bool) (k : BitVec 3) (vd va : BitVec 4) (s : State) : Result :=
  .next (s.elementwise z k vd [va] isFlt (unaryElem log2Fp))
/-- `VTANH` (R233). -/
def execVtanh (z : Bool) (k : BitVec 3) (vd va : BitVec 4) (s : State) : Result :=
  .next (s.elementwise z k vd [va] isFlt (unaryElem tanhFp))

/-- `VRCP`, short (R45). -/
def execVrcpShort (k : BitVec 3) (vd vs : BitVec 4) (s : State) : Result := execVrcp false k vd vs s
/-- `VEXP2`, short (R45). -/
def execVexp2Short (k : BitVec 3) (vd vs : BitVec 4) (s : State) : Result := execVexp2 false k vd vs s
/-- `VRSQ`, short (R45). -/
def execVrsqShort (k : BitVec 3) (vd vs : BitVec 4) (s : State) : Result := execVrsq false k vd vs s

end Sys2Proof.Machine
end

