-- ==== Sys2Proof/Machine/Dispatch.lean ====
section
/-! DEFINITION. The meaning of every instruction, arm by arm. -/

namespace Sys2Proof.Machine

def exec (i : Instr) (s : State) : Host.Outcome State Fault Refusal :=
  match i with
  | .add g d s1 s2 => Sys2Proof.Machine.execAdd g d s1 s2 s
  | .sub g d s1 s2 => Sys2Proof.Machine.execSub g d s1 s2 s
  | .and g d s1 s2 => Sys2Proof.Machine.execAnd g d s1 s2 s
  | .or g d s1 s2 => Sys2Proof.Machine.execOr g d s1 s2 s
  | .xor g d s1 s2 => Sys2Proof.Machine.execXor g d s1 s2 s
  | .andn g d s1 s2 => Sys2Proof.Machine.execAndn g d s1 s2 s
  | .orn g d s1 s2 => Sys2Proof.Machine.execOrn g d s1 s2 s
  | .shl g d s1 s2 => Sys2Proof.Machine.execShl g d s1 s2 s
  | .shr g d s1 s2 => Sys2Proof.Machine.execShr g d s1 s2 s
  | .sar g d s1 s2 => Sys2Proof.Machine.execSar g d s1 s2 s
  | .ror g d s1 s2 => Sys2Proof.Machine.execRor g d s1 s2 s
  | .addsc2 g d s1 s2 => Sys2Proof.Machine.execAddsc2 g d s1 s2 s
  | .addsc4 g d s1 s2 => Sys2Proof.Machine.execAddsc4 g d s1 s2 s
  | .addsc8 g d s1 s2 => Sys2Proof.Machine.execAddsc8 g d s1 s2 s
  | .addsc16 g d s1 s2 => Sys2Proof.Machine.execAddsc16 g d s1 s2 s
  | .sel g d s1 s2 => Sys2Proof.Machine.execSel g d s1 s2 s
  | .mul g d s1 s2 => Sys2Proof.Machine.execMul g d s1 s2 s
  | .mulh g d s1 s2 => Sys2Proof.Machine.execMulh g d s1 s2 s
  | .mulhu g d s1 s2 => Sys2Proof.Machine.execMulhu g d s1 s2 s
  | .div g d s1 s2 => Sys2Proof.Machine.execDiv g d s1 s2 s
  | .divu g d s1 s2 => Sys2Proof.Machine.execDivu g d s1 s2 s
  | .rem g d s1 s2 => Sys2Proof.Machine.execRem g d s1 s2 s
  | .remu g d s1 s2 => Sys2Proof.Machine.execRemu g d s1 s2 s
  | .min g d s1 s2 => Sys2Proof.Machine.execMin g d s1 s2 s
  | .max g d s1 s2 => Sys2Proof.Machine.execMax g d s1 s2 s
  | .minu g d s1 s2 => Sys2Proof.Machine.execMinu g d s1 s2 s
  | .maxu g d s1 s2 => Sys2Proof.Machine.execMaxu g d s1 s2 s
  | .clz g d s1 => Sys2Proof.Machine.execClz g d s1 s
  | .ctz g d s1 => Sys2Proof.Machine.execCtz g d s1 s
  | .popc g d s1 => Sys2Proof.Machine.execPopc g d s1 s
  | .brev g d s1 => Sys2Proof.Machine.execBrev g d s1 s
  | .bswap g d s1 => Sys2Proof.Machine.execBswap g d s1 s
  | .sext g d s1 s2 => Sys2Proof.Machine.execSext g d s1 s2 s
  | .zext g d s1 s2 => Sys2Proof.Machine.execZext g d s1 s2 s
  | .bext g d s1 s2 => Sys2Proof.Machine.execBext g d s1 s2 s
  | .bins g d s1 s2 => Sys2Proof.Machine.execBins g d s1 s2 s
  | .bset g d s1 s2 => Sys2Proof.Machine.execBset g d s1 s2 s
  | .bclr g d s1 s2 => Sys2Proof.Machine.execBclr g d s1 s2 s
  | .btst g pd s1 s2 => Sys2Proof.Machine.execBtst g pd s1 s2 s
  | .cmp g cc pd s1 s2 => Sys2Proof.Machine.execCmp g cc pd s1 s2 s
  | .plog g op pd pa pb => Sys2Proof.Machine.execPlog g op pd pa pb s
  | .pget g d => Sys2Proof.Machine.execPget g d s
  | .pput g s1 s2 => Sys2Proof.Machine.execPput g s1 s2 s
  | .fadd g dbl d s1 s2 => Sys2Proof.Machine.execFadd g dbl d s1 s2 s
  | .fsub g dbl d s1 s2 => Sys2Proof.Machine.execFsub g dbl d s1 s2 s
  | .fmul g dbl d s1 s2 => Sys2Proof.Machine.execFmul g dbl d s1 s2 s
  | .ffma g dbl d s1 s2 => Sys2Proof.Machine.execFfma g dbl d s1 s2 s
  | .fdiv g dbl d s1 s2 => Sys2Proof.Machine.execFdiv g dbl d s1 s2 s
  | .fsqrt g dbl d s1 => Sys2Proof.Machine.execFsqrt g dbl d s1 s
  | .fmin g dbl d s1 s2 => Sys2Proof.Machine.execFmin g dbl d s1 s2 s
  | .fmax g dbl d s1 s2 => Sys2Proof.Machine.execFmax g dbl d s1 s2 s
  | .fcmpEq g dbl pd s1 s2 => Sys2Proof.Machine.execFcmpEq g dbl pd s1 s2 s
  | .fcmpLt g dbl pd s1 s2 => Sys2Proof.Machine.execFcmpLt g dbl pd s1 s2 s
  | .fcmpLe g dbl pd s1 s2 => Sys2Proof.Machine.execFcmpLe g dbl pd s1 s2 s
  | .fcmpUn g dbl pd s1 s2 => Sys2Proof.Machine.execFcmpUn g dbl pd s1 s2 s
  | .fcvt g dbl rm kind d s1 => Sys2Proof.Machine.execFcvt g dbl rm kind d s1 s
  | .fclass g dbl d s1 => Sys2Proof.Machine.execFclass g dbl d s1 s
  | .hpack g d s1 s2 => Sys2Proof.Machine.execHpack g d s1 s2 s
  | .hparse g d s1 s2 => Sys2Proof.Machine.execHparse g d s1 s2 s
  | .hlayout g d s1 s2 => Sys2Proof.Machine.execHlayout g d s1 s2 s
  | .sysrd d n => Sys2Proof.Machine.execSysrd d n s
  | .syswr n s1 => Sys2Proof.Machine.execSyswr n s1 s
  | .addi d s1 imm => Sys2Proof.Machine.execAddi d s1 imm s
  | .andi d s1 imm => Sys2Proof.Machine.execAndi d s1 imm s
  | .ori d s1 imm => Sys2Proof.Machine.execOri d s1 imm s
  | .xori d s1 imm => Sys2Proof.Machine.execXori d s1 imm s
  | .shli d s1 amt => Sys2Proof.Machine.execShli d s1 amt s
  | .shri d s1 amt => Sys2Proof.Machine.execShri d s1 amt s
  | .sari d s1 amt => Sys2Proof.Machine.execSari d s1 amt s
  | .rori d s1 amt => Sys2Proof.Machine.execRori d s1 amt s
  | .cmpi cc pd s1 imm => Sys2Proof.Machine.execCmpi cc pd s1 imm s
  | .lih d imm => Sys2Proof.Machine.execLih d imm s
  | .br neg p off => Sys2Proof.Machine.execBr neg p off s
  | .jal d off => Sys2Proof.Machine.execJal d off s
  | .jalr d s1 imm => Sys2Proof.Machine.execJalr d s1 imm s
  | .switch s1 n => Sys2Proof.Machine.execSwitch s1 n s
  | .nop g => Sys2Proof.Machine.execNop g s
  | .trap g s1 => Sys2Proof.Machine.execTrap g s1 s
  | .eret g => Sys2Proof.Machine.execEret g s
  | .fence g => Sys2Proof.Machine.execFence g s
  | .fenceD g => Sys2Proof.Machine.execFenceD g s
  | .yield g => Sys2Proof.Machine.execYield g s
  | .exit g => Sys2Proof.Machine.execExit g s
  | .brk g s1 => Sys2Proof.Machine.execBrk g s1 s
  | .iter g d pd => Sys2Proof.Machine.execIter g d pd s
  | .iterS g d pd => Sys2Proof.Machine.execIterS g d pd s
  | .iterq g d which => Sys2Proof.Machine.execIterq g d which s
  | .iterx g d => Sys2Proof.Machine.execIterx g d s
  | .bar g d m => Sys2Proof.Machine.execBar g d m s
  | .bara g d m => Sys2Proof.Machine.execBara g d m s
  | .barw g d s1 m => Sys2Proof.Machine.execBarw g d s1 m s
  | .bart g pd s1 m => Sys2Proof.Machine.execBart g pd s1 m s
  | .bars g d m => Sys2Proof.Machine.execBars g d m s
  | .ld op la x base off => Sys2Proof.Machine.execLd op la x base off s
  | .st op la x base off => Sys2Proof.Machine.execSt op la x base off s
  | .ldf dbl la x base off => Sys2Proof.Machine.execLdf dbl la x base off s
  | .lde dbl la x base off => Sys2Proof.Machine.execLde dbl la x base off s
  | .stf dbl la x base off => Sys2Proof.Machine.execStf dbl la x base off s
  | .stw dbl la x base off => Sys2Proof.Machine.execStw dbl la x base off s
  | .amo dbl op la x base off => Sys2Proof.Machine.execAmo dbl op la x base off s
  | .cas dbl la x base off => Sys2Proof.Machine.execCas dbl la x base off s
  | .send la y c => Sys2Proof.Machine.execSend la y c s
  | .cont x s1 => Sys2Proof.Machine.execCont x s1 s
  | .waitr x s1 => Sys2Proof.Machine.execWaitr x s1 s
  | .pref base off => Sys2Proof.Machine.execPref base off s
  | .feset la base off => Sys2Proof.Machine.execFeset la base off s
  | .feclr la base off => Sys2Proof.Machine.execFeclr la base off s
  | .fetest la pd base off => Sys2Proof.Machine.execFetest la pd base off s
  | .quni qd qa qb => Sys2Proof.Machine.execQuni qd qa qb s
  | .qint qd qa qb => Sys2Proof.Machine.execQint qd qa qb s
  | .qsub qd qa qb => Sys2Proof.Machine.execQsub qd qa qb s
  | .qdil which qd qa v => Sys2Proof.Machine.execQdil which qd qa v s
  | .qshf which qd qa v => Sys2Proof.Machine.execQshf which qd qa v s
  | .qprj which qd qa v => Sys2Proof.Machine.execQprj which qd qa v s
  | .qclip qd qa => Sys2Proof.Machine.execQclip qd qa s
  | .qspl which qd qa v => Sys2Proof.Machine.execQspl which qd qa v s
  | .qhull qd qa => Sys2Proof.Machine.execQhull qd qa s
  | .qbox which qd qa v => Sys2Proof.Machine.execQbox which qd qa v s
  | .qstr qd v => Sys2Proof.Machine.execQstr qd v s
  | .qrag qd qa v => Sys2Proof.Machine.execQrag qd qa v s
  | .qld qd v => Sys2Proof.Machine.execQld qd v s
  | .qst qa v => Sys2Proof.Machine.execQst qa v s
  | .qclr qd => Sys2Proof.Machine.execQclr qd s
  | .qmov qd qa => Sys2Proof.Machine.execQmov qd qa s
  | .qsize x qa => Sys2Proof.Machine.execQsize x qa s
  | .qcnt which x qa => Sys2Proof.Machine.execQcnt which x qa s
  | .qget which x qa b => Sys2Proof.Machine.execQget which x qa b s
  | .qeq pd qa qb => Sys2Proof.Machine.execQeq pd qa qb s
  | .qle pd qa qb => Sys2Proof.Machine.execQle pd qa qb s
  | .qemp pd qa => Sys2Proof.Machine.execQemp pd qa s
  | .qovf pd qa => Sys2Proof.Machine.execQovf pd qa s
  | .vadd z k vd va vb => Sys2Proof.Machine.execVadd z k vd va vb s
  | .vsub z k vd va vb => Sys2Proof.Machine.execVsub z k vd va vb s
  | .vmul z k vd va vb => Sys2Proof.Machine.execVmul z k vd va vb s
  | .vmin z k vd va vb => Sys2Proof.Machine.execVmin z k vd va vb s
  | .vmax z k vd va vb => Sys2Proof.Machine.execVmax z k vd va vb s
  | .vabs z k vd va => Sys2Proof.Machine.execVabs z k vd va s
  | .vneg z k vd va => Sys2Proof.Machine.execVneg z k vd va s
  | .vand z k vd va vb => Sys2Proof.Machine.execVand z k vd va vb s
  | .vor z k vd va vb => Sys2Proof.Machine.execVor z k vd va vb s
  | .vxor z k vd va vb => Sys2Proof.Machine.execVxor z k vd va vb s
  | .vnot z k vd va => Sys2Proof.Machine.execVnot z k vd va s
  | .vshl z k vd va vb => Sys2Proof.Machine.execVshl z k vd va vb s
  | .vshr z k vd va vb => Sys2Proof.Machine.execVshr z k vd va vb s
  | .vsar z k vd va vb => Sys2Proof.Machine.execVsar z k vd va vb s
  | .vmov z k vd va => Sys2Proof.Machine.execVmov z k vd va s
  | .vsel k vd va vb => Sys2Proof.Machine.execVsel k vd va vb s
  | .vcmp z k cc kd va vb => Sys2Proof.Machine.execVcmp z k cc kd va vb s
  | .vbcst z k ts vd dn => Sys2Proof.Machine.execVbcst z k ts vd dn s
  | .vextr dx va dn => Sys2Proof.Machine.execVextr dx va dn s
  | .vfma z k vd va vb vc => Sys2Proof.Machine.execVfma z k vd va vb vc s
  | .vfms z k vd va vb vc => Sys2Proof.Machine.execVfms z k vd va vb vc s
  | .vfnma z k vd va vb vc => Sys2Proof.Machine.execVfnma z k vd va vb vc s
  | .vdot4 z k vd va vb vc => Sys2Proof.Machine.execVdot4 z k vd va vb vc s
  | .vrcp z k vd va => Sys2Proof.Machine.execVrcp z k vd va s
  | .vrsq z k vd va => Sys2Proof.Machine.execVrsq z k vd va s
  | .vsqrt z k vd va => Sys2Proof.Machine.execVsqrt z k vd va s
  | .vdiv z k vd va vb => Sys2Proof.Machine.execVdiv z k vd va vb s
  | .vexp2 z k vd va => Sys2Proof.Machine.execVexp2 z k vd va s
  | .vlog2 z k vd va => Sys2Proof.Machine.execVlog2 z k vd va s
  | .vtanh z k vd va => Sys2Proof.Machine.execVtanh z k vd va s
  | .vcvt z k rm sat part vd va => Sys2Proof.Machine.execVcvt z k rm sat part vd va s
  | .vtag t vd va => Sys2Proof.Machine.execVtag t vd va s
  | .vqnt rm part vd va vs => Sys2Proof.Machine.execVqnt rm part vd va vs s
  | .vdqnt part vd va vs => Sys2Proof.Machine.execVdqnt part vd va vs s
  | .vred k op vd va => Sys2Proof.Machine.execVred k op vd va s
  | .vscan z k ex op vd va => Sys2Proof.Machine.execVscan z k ex op vd va s
  | .vperm z k vd va vb => Sys2Proof.Machine.execVperm z k vd va vb s
  | .vslide z k vd va dn => Sys2Proof.Machine.execVslide z k vd va dn s
  | .vzip z k part vd va vb => Sys2Proof.Machine.execVzip z k part vd va vb s
  | .vunz z k part vd va vb => Sys2Proof.Machine.execVunz z k part vd va vb s
  | .viota k vd => Sys2Proof.Machine.execViota k vd s
  | .vcomp k vd va => Sys2Proof.Machine.execVcomp k vd va s
  | .vld ts k la vd base => Sys2Proof.Machine.execVld ts k la vd base s
  | .vst k la vd base => Sys2Proof.Machine.execVst k la vd base s
  | .vlds ix k la vd base => Sys2Proof.Machine.execVlds ix k la vd base s
  | .vsts ix k la vd base => Sys2Proof.Machine.execVsts ix k la vd base s
  | .vldx ix k la vd base => Sys2Proof.Machine.execVldx ix k la vd base s
  | .vstx ix k la vd base => Sys2Proof.Machine.execVstx ix k la vd base s
  | .vldl k la vd base => Sys2Proof.Machine.execVldl k la vd base s
  | .vstl k la vd base => Sys2Proof.Machine.execVstl k la vd base s
  | .vclaim n dx => Sys2Proof.Machine.execVclaim n dx s
  | .vrel => Sys2Proof.Machine.execVrel s
  | .vwid dx => Sys2Proof.Machine.execVwid dx s
  | .kand kd ka kb => Sys2Proof.Machine.execKand kd ka kb s
  | .kor kd ka kb => Sys2Proof.Machine.execKor kd ka kb s
  | .kxor kd ka kb => Sys2Proof.Machine.execKxor kd ka kb s
  | .knot kd ka => Sys2Proof.Machine.execKnot kd ka s
  | .kmov kd ka => Sys2Proof.Machine.execKmov kd ka s
  | .kpop dx ka => Sys2Proof.Machine.execKpop dx ka s
  | .kfirst dx ka => Sys2Proof.Machine.execKfirst dx ka s
  | .vaddShort k vd vs => Sys2Proof.Machine.execVaddShort k vd vs s
  | .vsubShort k vd vs => Sys2Proof.Machine.execVsubShort k vd vs s
  | .vmulShort k vd vs => Sys2Proof.Machine.execVmulShort k vd vs s
  | .vminShort k vd vs => Sys2Proof.Machine.execVminShort k vd vs s
  | .vmaxShort k vd vs => Sys2Proof.Machine.execVmaxShort k vd vs s
  | .vandShort k vd vs => Sys2Proof.Machine.execVandShort k vd vs s
  | .vorShort k vd vs => Sys2Proof.Machine.execVorShort k vd vs s
  | .vxorShort k vd vs => Sys2Proof.Machine.execVxorShort k vd vs s
  | .vmovShort k vd vs => Sys2Proof.Machine.execVmovShort k vd vs s
  | .vnegShort k vd vs => Sys2Proof.Machine.execVnegShort k vd vs s
  | .vabsShort k vd vs => Sys2Proof.Machine.execVabsShort k vd vs s
  | .vrcpShort k vd vs => Sys2Proof.Machine.execVrcpShort k vd vs s
  | .vselShort k vd vs => Sys2Proof.Machine.execVselShort k vd vs s
  | .vexp2Short k vd vs => Sys2Proof.Machine.execVexp2Short k vd vs s
  | .vrsqShort k vd vs => Sys2Proof.Machine.execVrsqShort k vd vs s
  | .vnotShort k vd vs => Sys2Proof.Machine.execVnotShort k vd vs s
  | .mma h zi la qa z => Sys2Proof.Machine.execMma h zi la qa z s
  | .mmas h zi la qa z => Sys2Proof.Machine.execMmas h zi la qa z s
  | .mmar h zi la qa z => Sys2Proof.Machine.execMmar h zi la qa z s
  | .zclaim pd z => Sys2Proof.Machine.execZclaim pd z s
  | .zrel z => Sys2Proof.Machine.execZrel z s
  | .zzero z => Sys2Proof.Machine.execZzero z s
  | .zld int qa z => Sys2Proof.Machine.execZld int qa z s
  | .zst qa z => Sys2Proof.Machine.execZst qa z s
  | .bld c la qa => Sys2Proof.Machine.execBld c la qa s
  | .brot h la => Sys2Proof.Machine.execBrot h la s
  | .bmeta la qa => Sys2Proof.Machine.execBmeta la qa s
  | .jwait h => Sys2Proof.Machine.execJwait h s
  | .jpoll pd h => Sys2Proof.Machine.execJpoll pd h s
  | .jstat x h => Sys2Proof.Machine.execJstat x h s
  | .cpy pd qd qs c => Sys2Proof.Machine.execCpy pd qd qs c s
  | .cpyg pd qd qs c => Sys2Proof.Machine.execCpyg pd qd qs c s
  | .cpys pd qd qs c => Sys2Proof.Machine.execCpys pd qd qs c s
  | .halo pd qd qs c => Sys2Proof.Machine.execHalo pd qd qs c s
  | .cfill pd qd v => Sys2Proof.Machine.execCfill pd qd v s
  | .qwait qa aw => Sys2Proof.Machine.execQwait qa aw s
  | .cseal x => Sys2Proof.Machine.execCseal x s
  | .cwait n => Sys2Proof.Machine.execCwait n s
  | .arm pd qd qs c => Sys2Proof.Machine.execArm pd qd qs c s
  | .disarm pd b => Sys2Proof.Machine.execDisarm pd b s
  | .cntrd x which => Sys2Proof.Machine.execCntrd x which s
  | .cntset which v => Sys2Proof.Machine.execCntset which v s
  | .awinit aw v => Sys2Proof.Machine.execAwinit aw v s
  | .awwait aw gen => Sys2Proof.Machine.execAwwait aw gen s
  | .record pd c => Sys2Proof.Machine.execRecord pd c s
  | .replay pd => Sys2Proof.Machine.execReplay pd s
  | .rpstop => Sys2Proof.Machine.execRpstop s
  | .rpstat x which => Sys2Proof.Machine.execRpstat x which s
  | .route x desc => Sys2Proof.Machine.execRoute x desc s
  | .rtwait h => Sys2Proof.Machine.execRtwait h s
  | .rtinv x desc => Sys2Proof.Machine.execRtinv x desc s
  | .rtstat x h => Sys2Proof.Machine.execRtstat x h s
  | .coll x pb => Sys2Proof.Machine.execColl x pb s
  | .collw h => Sys2Proof.Machine.execCollw h s
  | .collst x h => Sys2Proof.Machine.execCollst x h s
  | .mbput pd w => Sys2Proof.Machine.execMbput pd w s
  | .mbget x which => Sys2Proof.Machine.execMbget x which s
  | .queueMisuseDetect sid => Sys2Proof.Machine.execQueueMisuseDetect sid s
  | .migrationInboxArrival sid crcOk => Sys2Proof.Machine.execMigrationInboxArrival sid crcOk s
  | .migrationInstall sid => Sys2Proof.Machine.execMigrationInstall sid s
  | .migrationAck sid => Sys2Proof.Machine.execMigrationAck sid s
  | .migrationRefusal sid => Sys2Proof.Machine.execMigrationRefusal sid s
  | .migrationInboxTimeout sid => Sys2Proof.Machine.execMigrationInboxTimeout sid s
  | .arrivalReport sid => Sys2Proof.Machine.execArrivalReport sid s
  | .messageDelivery part cont value sender => Sys2Proof.Machine.execMessageDelivery part cont value sender s
  | .wordWaitRepresent sid => Sys2Proof.Machine.execWordWaitRepresent sid s
  | .wake sid => Sys2Proof.Machine.execWake sid s
  | .yieldReentry sid => Sys2Proof.Machine.execYieldReentry sid s
  | .fenceDCompletion sid => Sys2Proof.Machine.execFenceDCompletion sid s
  | .preemption sid => Sys2Proof.Machine.execPreemption sid s
  | .quantumExpiry sid => Sys2Proof.Machine.execQuantumExpiry sid s
  | .spill sid => Sys2Proof.Machine.execSpill sid s
  | .restore sid => Sys2Proof.Machine.execRestore sid s
  | .resume sid core => Sys2Proof.Machine.execResume sid core s
  | .strandCreate part tag node => Sys2Proof.Machine.execStrandCreate part tag node s
  | .quiescentDeadlock sid group => Sys2Proof.Machine.execQuiescentDeadlock sid group s
  | .memoryError place correctable => Sys2Proof.Machine.execMemoryError place correctable s
  | .scrubPass core => Sys2Proof.Machine.execScrubPass core s
  | .matrixJobStart core => Sys2Proof.Machine.execMatrixJobStart core s
  | .matrixJobComplete core => Sys2Proof.Machine.execMatrixJobComplete core s
  | .ringRoundStart cluster => Sys2Proof.Machine.execRingRoundStart cluster s
  | .ringPhaseEnd cluster => Sys2Proof.Machine.execRingPhaseEnd cluster s
  | .ringRoundTimeout cluster round => Sys2Proof.Machine.execRingRoundTimeout cluster round s
  | .copyStart id => Sys2Proof.Machine.execCopyStart id s
  | .copyPieceWrite id j => Sys2Proof.Machine.execCopyPieceWrite id j s
  | .copyCompletion id => Sys2Proof.Machine.execCopyCompletion id s
  | .arrivalPiece src => Sys2Proof.Machine.execArrivalPiece src s
  | .counterPiece src => Sys2Proof.Machine.execCounterPiece src s
  | .arrivalWatchdogExpiry key => Sys2Proof.Machine.execArrivalWatchdogExpiry key s
  | .pageWalk core root va => Sys2Proof.Machine.execPageWalk core root va s
  | .reclassification leaf => Sys2Proof.Machine.execReclassification leaf s
  | .l2Eviction line => Sys2Proof.Machine.execL2Eviction line s
  | .midnightPause => Sys2Proof.Machine.execMidnightPause s
  | .heartbeatTick => Sys2Proof.Machine.execHeartbeatTick s
  | .pushArrival => Sys2Proof.Machine.execPushArrival s
  | .ageingSample core margin => Sys2Proof.Machine.execAgeingSample core margin s
  | .derateStep core => Sys2Proof.Machine.execDerateStep core s
  | .supplySag cluster => Sys2Proof.Machine.execSupplySag cluster s
  | .supplySagEnd cluster => Sys2Proof.Machine.execSupplySagEnd cluster s
  | .configBlockWrite part off bytes => Sys2Proof.Machine.execConfigBlockWrite part off bytes s
  | .partitionDefine part => Sys2Proof.Machine.execPartitionDefine part s
  | .partitionRun part => Sys2Proof.Machine.execPartitionRun part s
  | .partitionPause part => Sys2Proof.Machine.execPartitionPause part s
  | .partitionResume part => Sys2Proof.Machine.execPartitionResume part s
  | .partitionKill part => Sys2Proof.Machine.execPartitionKill part s
  | .partitionUndefine part => Sys2Proof.Machine.execPartitionUndefine part s
  | .wayMaskWrite vf v => Sys2Proof.Machine.execWayMaskWrite vf v s
  | .doorbell q tail => Sys2Proof.Machine.execDoorbell q tail s
  | .registerWrite r v => Sys2Proof.Machine.execRegisterWrite r v s
  | .launchRecordFetch q => Sys2Proof.Machine.execLaunchRecordFetch q s
  | .nodeStart part tag node => Sys2Proof.Machine.execNodeStart part tag node s
  | .nodeComplete part tag node => Sys2Proof.Machine.execNodeComplete part tag node s
  | .loopIteration part tag node => Sys2Proof.Machine.execLoopIteration part tag node s
  | .graphCompletion part tag => Sys2Proof.Machine.execGraphCompletion part tag s
  | .killRequest part => Sys2Proof.Machine.execKillRequest part s
  | .invalidationRequest part => Sys2Proof.Machine.execInvalidationRequest part s
  | .engineQuiesceAck part tag => Sys2Proof.Machine.execEngineQuiesceAck part tag s
  | .killReleased part tag => Sys2Proof.Machine.execKillReleased part tag s
  | .revokedWriteReject part tag cluster => Sys2Proof.Machine.execRevokedWriteReject part tag cluster s
  | .vfReset vf => Sys2Proof.Machine.execVfReset vf s
  | .hostMemRead addr n => Sys2Proof.Machine.execHostMemRead addr n s
  | .hostMemWrite addr bytes => Sys2Proof.Machine.execHostMemWrite addr bytes s
  | .snpInv line => Sys2Proof.Machine.execSnpInv line s
  | .snpData line => Sys2Proof.Machine.execSnpData line s
  | .snpCur line => Sys2Proof.Machine.execSnpCur line s
  | .hostCacheFill line owned => Sys2Proof.Machine.execHostCacheFill line owned s
  | .clusterPowerGate cluster => Sys2Proof.Machine.execClusterPowerGate cluster s
  | .surpriseLinkLoss => Sys2Proof.Machine.execSurpriseLinkLoss s
  | .coldStart => Sys2Proof.Machine.execColdStart s
  | .warmReset cause => Sys2Proof.Machine.execWarmReset cause s
  | .thermalTrip => Sys2Proof.Machine.execThermalTrip s
  | .firmwareImage image => Sys2Proof.Machine.execFirmwareImage image s
  | .svnFuseRequest svn => Sys2Proof.Machine.execSvnFuseRequest svn s
  | .attestationRequest nonce part => Sys2Proof.Machine.execAttestationRequest nonce part s
  | .debugUnlock token => Sys2Proof.Machine.execDebugUnlock token s
  | .i3cRequest what => Sys2Proof.Machine.execI3cRequest what s
  | .remoteAccessArrival req => Sys2Proof.Machine.execRemoteAccessArrival req s
  | .remoteResponse sid denied => Sys2Proof.Machine.execRemoteResponse sid denied s
  | .remoteTimeout sid => Sys2Proof.Machine.execRemoteTimeout sid s
  | .flitReceive port flit => Sys2Proof.Machine.execFlitReceive port flit s
  | .laneRetire lane => Sys2Proof.Machine.execLaneRetire lane s
  | .tickSourceFailover newSource => Sys2Proof.Machine.execTickSourceFailover newSource s
  | .collCallStart cluster => Sys2Proof.Machine.execCollCallStart cluster s
  | .contributionArrival handle seq rank agrees data => Sys2Proof.Machine.execContributionArrival handle seq rank agrees data s
  | .collTimeout handle seq => Sys2Proof.Machine.execCollTimeout handle seq s
  | .twilightExpiry handle seq => Sys2Proof.Machine.execTwilightExpiry handle seq s
  | .collResultArrival handle seq rank res => Sys2Proof.Machine.execCollResultArrival handle seq rank res s
  | .coordinatorLost handle seq rank => Sys2Proof.Machine.execCoordinatorLost handle seq rank s
  | .lateMember handle seq rank res => Sys2Proof.Machine.execLateMember handle seq rank res s
  | .flush handle seq => Sys2Proof.Machine.execFlush handle seq s
  | .cancel handle seq => Sys2Proof.Machine.execCancel handle seq s
  | .openSession part entry => Sys2Proof.Machine.execOpenSession part entry s
  | .closeSession part sess => Sys2Proof.Machine.execCloseSession part sess s
  | .handshakeInit part sess msg => Sys2Proof.Machine.execHandshakeInit part sess msg s
  | .handshakeResp part sess msg => Sys2Proof.Machine.execHandshakeResp part sess msg s
  | .handshakeTimeout part sess => Sys2Proof.Machine.execHandshakeTimeout part sess s
  | .zhomerDatagram part sess dgram => Sys2Proof.Machine.execZhomerDatagram part sess dgram s
  | .zhomerRetransmit part sess => Sys2Proof.Machine.execZhomerRetransmit part sess s
  | .rekey part sess => Sys2Proof.Machine.execRekey part sess s
  | .oldKeyExpiry part sess => Sys2Proof.Machine.execOldKeyExpiry part sess s
  | .nonZhomerFrame port frame => Sys2Proof.Machine.execNonZhomerFrame port frame s
  | .routeCallStart die => Sys2Proof.Machine.execRouteCallStart die s
  | .routeRequest req => Sys2Proof.Machine.execRouteRequest req s
  | .routeGrant die call expert base => Sys2Proof.Machine.execRouteGrant die call expert base s
  | .routeRowArrival row => Sys2Proof.Machine.execRouteRowArrival row s
  | .expertCloseTimeout die handle seq expert => Sys2Proof.Machine.execExpertCloseTimeout die handle seq expert s
  | .routeGrantTimeout die call => Sys2Proof.Machine.execRouteGrantTimeout die call s
  | .routeCallComplete die => Sys2Proof.Machine.execRouteCallComplete die s
  | .thermalWarning => Sys2Proof.Machine.execThermalWarning s
  | .nestCancelLearned core part tag node => Sys2Proof.Machine.execNestCancelLearned core part tag node s

end Sys2Proof.Machine
end

