-- ==== Sys2Proof/Decode.lean ====
section
/-! DEFINITION. The decoder and the encoder: the formats of R31 to R45, the opcode map of R52 and R53, and the fate of every pattern (R54). -/

namespace Sys2Proof

/-- What the decoder answers for an instruction (R54, steps 1 to 6). -/
inductive Decoded where
  | ok (i : Instr)
  /-- Steps 1 to 5: IllegalInstruction. -/
  | illegal
  /-- Step 6: QueueMisuse at issue. -/
  | misuse
  deriving DecidableEq, Repr

/-- The scalar register that a 5-bit code names, `l` being the literal word that code 13 takes (R28, R29). -/
def Reg.ofCode (l : Word32) (c : BitVec 5) : Option Reg :=
  if h : c.toNat < 12 then some (.a ⟨c.toNat, h⟩)
  else if c = 12#5 then some .zero
  else if c = 13#5 then some (.lit l)
  else if c = 14#5 then some .queue
  else if h : 16 ≤ c.toNat ∧ c.toNat < 28 then some (.d ⟨c.toNat - 16, by omega⟩)
  else none

/-- The 5-bit code of a scalar register (R29). -/
def Reg.code : Reg → BitVec 5
  | .a n => BitVec.ofNat 5 n.val
  | .zero => 12#5
  | .lit _ => 13#5
  | .queue => 14#5
  | .d n => BitVec.ofNat 5 (n.val + 16)

/-- A predicate in a 5-bit field, whose top bit must be 0 (R31). -/
def predOf (c : BitVec 5) : Option (BitVec 4) := if c.getLsbD 4 then none else some (c.setWidth 4)

/-- A predicate number as a 5-bit field. -/
def predField (p : BitVec 4) : BitVec 5 := p.setWidth 5

/-- The low bits of a 4-bit field whose other bits must be 0. -/
def low1 (c : BitVec 4) : Option Bool := if c.toNat < 2 then some (c.getLsbD 0) else none
def low1Field (b : Bool) : BitVec 4 := if b then 1#4 else 0#4
def low2 (c : BitVec 4) : Option (BitVec 2) := if c.toNat < 4 then some (c.setWidth 2) else none
def low2Field (b : BitVec 2) : BitVec 4 := b.setWidth 4

/-- The tile number in bits [10:8], between two reserved bits (R43). -/
def tileOf (c : BitVec 5) : Option (BitVec 3) := if c.getLsbD 4 || c.getLsbD 0 then none else some (c.extractLsb' 1 3)
def tileField (z : BitVec 3) : BitVec 5 := (z.setWidth 5) <<< 1

/-- The fields of format A, high bits first, without bit [0] (R31). -/
structure FormatA where
  n : Bool
  g : BitVec 4
  minor : BitVec 5
  s2 : BitVec 5
  s1 : BitVec 5
  d : BitVec 5
  major : BitVec 6
  deriving DecidableEq, Repr

def FormatA.word (f : FormatA) : Word32 :=
  BitVec.ofBool f.n ++ f.g ++ f.minor ++ f.s2 ++ f.s1 ++ f.d ++ f.major ++ 1#1

def FormatA.of (w : Word32) : FormatA where
  n := w.getLsbD 31
  g := w.extractLsb' 27 4
  minor := w.extractLsb' 22 5
  s2 := w.extractLsb' 17 5
  s1 := w.extractLsb' 12 5
  d := w.extractLsb' 7 5
  major := w.extractLsb' 1 6

/-- The fields of format I, high bits first, without bit [0] (R32). -/
structure FormatI where
  imm : BitVec 15
  s1 : BitVec 5
  d : BitVec 5
  major : BitVec 6
  deriving DecidableEq, Repr

def FormatI.word (f : FormatI) : Word32 :=
  f.imm ++ f.s1 ++ f.d ++ f.major ++ 1#1

def FormatI.of (w : Word32) : FormatI where
  imm := w.extractLsb' 17 15
  s1 := w.extractLsb' 12 5
  d := w.extractLsb' 7 5
  major := w.extractLsb' 1 6

/-- The fields of format SH, high bits first, without bit [0] (R33). -/
structure FormatSH where
  z3 : BitVec 3
  op : BitVec 2
  z4 : BitVec 4
  amt : BitVec 6
  s1 : BitVec 5
  d : BitVec 5
  major : BitVec 6
  deriving DecidableEq, Repr

def FormatSH.word (f : FormatSH) : Word32 :=
  f.z3 ++ f.op ++ f.z4 ++ f.amt ++ f.s1 ++ f.d ++ f.major ++ 1#1

def FormatSH.of (w : Word32) : FormatSH where
  z3 := w.extractLsb' 29 3
  op := w.extractLsb' 27 2
  z4 := w.extractLsb' 23 4
  amt := w.extractLsb' 17 6
  s1 := w.extractLsb' 12 5
  d := w.extractLsb' 7 5
  major := w.extractLsb' 1 6

/-- The fields of format CI, high bits first, without bit [0] (R34). -/
structure FormatCI where
  imm : BitVec 11
  cc : BitVec 4
  s1 : BitVec 5
  pd : BitVec 5
  major : BitVec 6
  deriving DecidableEq, Repr

def FormatCI.word (f : FormatCI) : Word32 :=
  f.imm ++ f.cc ++ f.s1 ++ f.pd ++ f.major ++ 1#1

def FormatCI.of (w : Word32) : FormatCI where
  imm := w.extractLsb' 21 11
  cc := w.extractLsb' 17 4
  s1 := w.extractLsb' 12 5
  pd := w.extractLsb' 7 5
  major := w.extractLsb' 1 6

/-- The fields of format LI, high bits first, without bit [0] (R35). -/
structure FormatLI where
  imm : BitVec 20
  d : BitVec 5
  major : BitVec 6
  deriving DecidableEq, Repr

def FormatLI.word (f : FormatLI) : Word32 :=
  f.imm ++ f.d ++ f.major ++ 1#1

def FormatLI.of (w : Word32) : FormatLI where
  imm := w.extractLsb' 12 20
  d := w.extractLsb' 7 5
  major := w.extractLsb' 1 6

/-- The fields of format M, high bits first, without bit [0] (R36, R37). -/
structure FormatM where
  off : BitVec 8
  op : BitVec 3
  la : BitVec 4
  base : BitVec 5
  data : BitVec 5
  major : BitVec 6
  deriving DecidableEq, Repr

def FormatM.word (f : FormatM) : Word32 :=
  f.off ++ f.op ++ f.la ++ f.base ++ f.data ++ f.major ++ 1#1

def FormatM.of (w : Word32) : FormatM where
  off := w.extractLsb' 24 8
  op := w.extractLsb' 21 3
  la := w.extractLsb' 17 4
  base := w.extractLsb' 12 5
  data := w.extractLsb' 7 5
  major := w.extractLsb' 1 6

/-- The fields of format B, high bits first, without bit [0] (R38). -/
structure FormatB where
  off : BitVec 20
  b : BitVec 5
  major : BitVec 6
  deriving DecidableEq, Repr

def FormatB.word (f : FormatB) : Word32 :=
  f.off ++ f.b ++ f.major ++ 1#1

def FormatB.of (w : Word32) : FormatB where
  off := w.extractLsb' 12 20
  b := w.extractLsb' 7 5
  major := w.extractLsb' 1 6

/-- The fields of format S, high bits first, without bit [0] (R39). -/
structure FormatS where
  z2 : BitVec 2
  w : Bool
  n : BitVec 12
  s1 : BitVec 5
  d : BitVec 5
  major : BitVec 6
  deriving DecidableEq, Repr

def FormatS.word (f : FormatS) : Word32 :=
  f.z2 ++ BitVec.ofBool f.w ++ f.n ++ f.s1 ++ f.d ++ f.major ++ 1#1

def FormatS.of (w : Word32) : FormatS where
  z2 := w.extractLsb' 30 2
  w := w.getLsbD 29
  n := w.extractLsb' 17 12
  s1 := w.extractLsb' 12 5
  d := w.extractLsb' 7 5
  major := w.extractLsb' 1 6

/-- The fields of format Q, high bits first, without bit [0] (R40). -/
structure FormatQ where
  sel : BitVec 3
  minor : BitVec 5
  sc : BitVec 5
  qb : BitVec 4
  qa : BitVec 4
  qd : BitVec 4
  major : BitVec 6
  deriving DecidableEq, Repr

def FormatQ.word (f : FormatQ) : Word32 :=
  f.sel ++ f.minor ++ f.sc ++ f.qb ++ f.qa ++ f.qd ++ f.major ++ 1#1

def FormatQ.of (w : Word32) : FormatQ where
  sel := w.extractLsb' 29 3
  minor := w.extractLsb' 24 5
  sc := w.extractLsb' 19 5
  qb := w.extractLsb' 15 4
  qa := w.extractLsb' 11 4
  qd := w.extractLsb' 7 4
  major := w.extractLsb' 1 6

/-- The fields of format V, high bits first, without bit [0] (R41). -/
structure FormatV where
  x4 : BitVec 4
  minor : BitVec 5
  z : Bool
  k : BitVec 3
  vb : BitVec 4
  va : BitVec 4
  vd : BitVec 4
  major : BitVec 6
  deriving DecidableEq, Repr

def FormatV.word (f : FormatV) : Word32 :=
  f.x4 ++ f.minor ++ BitVec.ofBool f.z ++ f.k ++ f.vb ++ f.va ++ f.vd ++ f.major ++ 1#1

def FormatV.of (w : Word32) : FormatV where
  x4 := w.extractLsb' 28 4
  minor := w.extractLsb' 23 5
  z := w.getLsbD 22
  k := w.extractLsb' 19 3
  vb := w.extractLsb' 15 4
  va := w.extractLsb' 11 4
  vd := w.extractLsb' 7 4
  major := w.extractLsb' 1 6

/-- The fields of format VM, high bits first, without bit [0] (R42). -/
structure FormatVM where
  ix : BitVec 4
  minor : BitVec 5
  k : BitVec 3
  la : BitVec 4
  base : BitVec 5
  vd : BitVec 4
  major : BitVec 6
  deriving DecidableEq, Repr

def FormatVM.word (f : FormatVM) : Word32 :=
  f.ix ++ f.minor ++ f.k ++ f.la ++ f.base ++ f.vd ++ f.major ++ 1#1

def FormatVM.of (w : Word32) : FormatVM where
  ix := w.extractLsb' 28 4
  minor := w.extractLsb' 23 5
  k := w.extractLsb' 20 3
  la := w.extractLsb' 16 4
  base := w.extractLsb' 11 5
  vd := w.extractLsb' 7 4
  major := w.extractLsb' 1 6

/-- The fields of format MX, high bits first, without bit [0] (R43). -/
structure FormatMX where
  flags : BitVec 4
  minor : BitVec 4
  bsrc : BitVec 4
  la : BitVec 4
  qa : BitVec 4
  z : BitVec 5
  major : BitVec 6
  deriving DecidableEq, Repr

def FormatMX.word (f : FormatMX) : Word32 :=
  f.flags ++ f.minor ++ f.bsrc ++ f.la ++ f.qa ++ f.z ++ f.major ++ 1#1

def FormatMX.of (w : Word32) : FormatMX where
  flags := w.extractLsb' 28 4
  minor := w.extractLsb' 24 4
  bsrc := w.extractLsb' 20 4
  la := w.extractLsb' 16 4
  qa := w.extractLsb' 12 4
  z := w.extractLsb' 7 5
  major := w.extractLsb' 1 6

/-- The fields of format E, high bits first, without bit [0] (R44). -/
structure FormatE where
  minor : BitVec 3
  qb : BitVec 4
  qa : BitVec 4
  la : BitVec 4
  sc : BitVec 5
  res : BitVec 5
  major : BitVec 6
  deriving DecidableEq, Repr

def FormatE.word (f : FormatE) : Word32 :=
  f.minor ++ f.qb ++ f.qa ++ f.la ++ f.sc ++ f.res ++ f.major ++ 1#1

def FormatE.of (w : Word32) : FormatE where
  minor := w.extractLsb' 29 3
  qb := w.extractLsb' 25 4
  qa := w.extractLsb' 21 4
  la := w.extractLsb' 17 4
  sc := w.extractLsb' 12 5
  res := w.extractLsb' 7 5
  major := w.extractLsb' 1 6

/-- The fields of a 16-bit form (R45). -/
structure Format16 where
  k : BitVec 3
  vs : BitVec 4
  vd : BitVec 4
  op : BitVec 4
  deriving DecidableEq, Repr

def Format16.word (f : Format16) : Half16 := f.k ++ f.vs ++ f.vd ++ f.op ++ 0#1

def Format16.of (h : Half16) : Format16 where
  k := h.extractLsb' 13 3
  vs := h.extractLsb' 9 4
  vd := h.extractLsb' 5 4
  op := h.extractLsb' 1 4

/-- The literal word of S2: the second one when S1 takes the first (R28). -/
def FormatA.lit2 (f : FormatA) (l1 l2 : Word32) : Word32 := if f.s1 = 13#5 then l2 else l1
def FormatA.guard (f : FormatA) : Guard := ⟨f.n, f.g⟩

/-- Major 0x00: ADD, SUB, AND, OR, XOR, ANDN, ORN, SHL, SHR, SAR, ROR, ADDSC_2, ADDSC_4, ADDSC_8, ADDSC_16, SEL. -/
def decode00 (f : FormatA) (l1 l2 : Word32) : Option Instr :=
  match f.minor with
  | 0x0#5 => do some (.add f.guard (← Reg.ofCode 0 f.d) (← Reg.ofCode l1 f.s1) (← Reg.ofCode (f.lit2 l1 l2) f.s2))
  | 0x1#5 => do some (.sub f.guard (← Reg.ofCode 0 f.d) (← Reg.ofCode l1 f.s1) (← Reg.ofCode (f.lit2 l1 l2) f.s2))
  | 0x2#5 => do some (.and f.guard (← Reg.ofCode 0 f.d) (← Reg.ofCode l1 f.s1) (← Reg.ofCode (f.lit2 l1 l2) f.s2))
  | 0x3#5 => do some (.or f.guard (← Reg.ofCode 0 f.d) (← Reg.ofCode l1 f.s1) (← Reg.ofCode (f.lit2 l1 l2) f.s2))
  | 0x4#5 => do some (.xor f.guard (← Reg.ofCode 0 f.d) (← Reg.ofCode l1 f.s1) (← Reg.ofCode (f.lit2 l1 l2) f.s2))
  | 0x5#5 => do some (.andn f.guard (← Reg.ofCode 0 f.d) (← Reg.ofCode l1 f.s1) (← Reg.ofCode (f.lit2 l1 l2) f.s2))
  | 0x6#5 => do some (.orn f.guard (← Reg.ofCode 0 f.d) (← Reg.ofCode l1 f.s1) (← Reg.ofCode (f.lit2 l1 l2) f.s2))
  | 0x7#5 => do some (.shl f.guard (← Reg.ofCode 0 f.d) (← Reg.ofCode l1 f.s1) (← Reg.ofCode (f.lit2 l1 l2) f.s2))
  | 0x8#5 => do some (.shr f.guard (← Reg.ofCode 0 f.d) (← Reg.ofCode l1 f.s1) (← Reg.ofCode (f.lit2 l1 l2) f.s2))
  | 0x9#5 => do some (.sar f.guard (← Reg.ofCode 0 f.d) (← Reg.ofCode l1 f.s1) (← Reg.ofCode (f.lit2 l1 l2) f.s2))
  | 0xA#5 => do some (.ror f.guard (← Reg.ofCode 0 f.d) (← Reg.ofCode l1 f.s1) (← Reg.ofCode (f.lit2 l1 l2) f.s2))
  | 0xB#5 => do some (.addsc2 f.guard (← Reg.ofCode 0 f.d) (← Reg.ofCode l1 f.s1) (← Reg.ofCode (f.lit2 l1 l2) f.s2))
  | 0xC#5 => do some (.addsc4 f.guard (← Reg.ofCode 0 f.d) (← Reg.ofCode l1 f.s1) (← Reg.ofCode (f.lit2 l1 l2) f.s2))
  | 0xD#5 => do some (.addsc8 f.guard (← Reg.ofCode 0 f.d) (← Reg.ofCode l1 f.s1) (← Reg.ofCode (f.lit2 l1 l2) f.s2))
  | 0xE#5 => do some (.addsc16 f.guard (← Reg.ofCode 0 f.d) (← Reg.ofCode l1 f.s1) (← Reg.ofCode (f.lit2 l1 l2) f.s2))
  | 0xF#5 => do some (.sel f.guard (← Reg.ofCode 0 f.d) (← Reg.ofCode l1 f.s1) (← Reg.ofCode (f.lit2 l1 l2) f.s2))
  | _ => none

/-- Major 0x01: MUL, MULH, MULHU, DIV, DIVU, REM, REMU, MIN, MAX, MINU, MAXU. -/
def decode01 (f : FormatA) (l1 l2 : Word32) : Option Instr :=
  match f.minor with
  | 0x0#5 => do some (.mul f.guard (← Reg.ofCode 0 f.d) (← Reg.ofCode l1 f.s1) (← Reg.ofCode (f.lit2 l1 l2) f.s2))
  | 0x1#5 => do some (.mulh f.guard (← Reg.ofCode 0 f.d) (← Reg.ofCode l1 f.s1) (← Reg.ofCode (f.lit2 l1 l2) f.s2))
  | 0x2#5 => do some (.mulhu f.guard (← Reg.ofCode 0 f.d) (← Reg.ofCode l1 f.s1) (← Reg.ofCode (f.lit2 l1 l2) f.s2))
  | 0x3#5 => do some (.div f.guard (← Reg.ofCode 0 f.d) (← Reg.ofCode l1 f.s1) (← Reg.ofCode (f.lit2 l1 l2) f.s2))
  | 0x4#5 => do some (.divu f.guard (← Reg.ofCode 0 f.d) (← Reg.ofCode l1 f.s1) (← Reg.ofCode (f.lit2 l1 l2) f.s2))
  | 0x5#5 => do some (.rem f.guard (← Reg.ofCode 0 f.d) (← Reg.ofCode l1 f.s1) (← Reg.ofCode (f.lit2 l1 l2) f.s2))
  | 0x6#5 => do some (.remu f.guard (← Reg.ofCode 0 f.d) (← Reg.ofCode l1 f.s1) (← Reg.ofCode (f.lit2 l1 l2) f.s2))
  | 0x7#5 => do some (.min f.guard (← Reg.ofCode 0 f.d) (← Reg.ofCode l1 f.s1) (← Reg.ofCode (f.lit2 l1 l2) f.s2))
  | 0x8#5 => do some (.max f.guard (← Reg.ofCode 0 f.d) (← Reg.ofCode l1 f.s1) (← Reg.ofCode (f.lit2 l1 l2) f.s2))
  | 0x9#5 => do some (.minu f.guard (← Reg.ofCode 0 f.d) (← Reg.ofCode l1 f.s1) (← Reg.ofCode (f.lit2 l1 l2) f.s2))
  | 0xA#5 => do some (.maxu f.guard (← Reg.ofCode 0 f.d) (← Reg.ofCode l1 f.s1) (← Reg.ofCode (f.lit2 l1 l2) f.s2))
  | _ => none

/-- Major 0x02: CLZ, CTZ, POPC, BREV, BSWAP, SEXT, ZEXT, BEXT, BINS, BSET, BCLR, BTST. -/
def decode02 (f : FormatA) (l1 l2 : Word32) : Option Instr :=
  match f.minor with
  | 0x0#5 => if f.s2 = 12#5 then do some (.clz f.guard (← Reg.ofCode 0 f.d) (← Reg.ofCode l1 f.s1)) else none
  | 0x1#5 => if f.s2 = 12#5 then do some (.ctz f.guard (← Reg.ofCode 0 f.d) (← Reg.ofCode l1 f.s1)) else none
  | 0x2#5 => if f.s2 = 12#5 then do some (.popc f.guard (← Reg.ofCode 0 f.d) (← Reg.ofCode l1 f.s1)) else none
  | 0x3#5 => if f.s2 = 12#5 then do some (.brev f.guard (← Reg.ofCode 0 f.d) (← Reg.ofCode l1 f.s1)) else none
  | 0x4#5 => if f.s2 = 12#5 then do some (.bswap f.guard (← Reg.ofCode 0 f.d) (← Reg.ofCode l1 f.s1)) else none
  | 0x5#5 => do some (.sext f.guard (← Reg.ofCode 0 f.d) (← Reg.ofCode l1 f.s1) (← Reg.ofCode (f.lit2 l1 l2) f.s2))
  | 0x6#5 => do some (.zext f.guard (← Reg.ofCode 0 f.d) (← Reg.ofCode l1 f.s1) (← Reg.ofCode (f.lit2 l1 l2) f.s2))
  | 0x7#5 => do some (.bext f.guard (← Reg.ofCode 0 f.d) (← Reg.ofCode l1 f.s1) (← Reg.ofCode (f.lit2 l1 l2) f.s2))
  | 0x8#5 => do some (.bins f.guard (← Reg.ofCode 0 f.d) (← Reg.ofCode l1 f.s1) (← Reg.ofCode (f.lit2 l1 l2) f.s2))
  | 0x9#5 => do some (.bset f.guard (← Reg.ofCode 0 f.d) (← Reg.ofCode l1 f.s1) (← Reg.ofCode (f.lit2 l1 l2) f.s2))
  | 0xA#5 => do some (.bclr f.guard (← Reg.ofCode 0 f.d) (← Reg.ofCode l1 f.s1) (← Reg.ofCode (f.lit2 l1 l2) f.s2))
  | 0xB#5 => do some (.btst f.guard (← predOf f.d) (← Reg.ofCode l1 f.s1) (← Reg.ofCode (f.lit2 l1 l2) f.s2))
  | _ => none

/-- Major 0x03: CMP, PLOG, PGET, PPUT. -/
def decode03 (f : FormatA) (l1 l2 : Word32) : Option Instr :=
  if f.minor.getLsbD 4 = false then do some (.cmp f.guard (f.minor.extractLsb' 0 4) (← predOf f.d) (← Reg.ofCode l1 f.s1) (← Reg.ofCode (f.lit2 l1 l2) f.s2))
  else if f.minor.getLsbD 3 = false then do some (.plog f.guard (f.minor.extractLsb' 0 3) (← predOf f.d) (← predOf f.s1) (← predOf f.s2))
  else if f.minor = 0x18#5 then (if f.s1 = 12#5 ∧ f.s2 = 12#5 then do some (.pget f.guard (← Reg.ofCode 0 f.d)) else none)
  else if f.minor = 0x19#5 then (if f.d = 12#5 then do some (.pput f.guard (← Reg.ofCode l1 f.s1) (← Reg.ofCode (f.lit2 l1 l2) f.s2)) else none)
  else none

/-- Major 0x04: FADD, FSUB, FMUL, FFMA, FDIV, FSQRT, FMIN, FMAX, FCMP_EQ, FCMP_LT, FCMP_LE, FCMP_UN, FCVT, FCLASS. -/
def decode04 (f : FormatA) (l1 l2 : Word32) : Option Instr :=
  match f.minor with
  | 0x0#5 => do some (.fadd f.guard false (← Reg.ofCode 0 f.d) (← Reg.ofCode l1 f.s1) (← Reg.ofCode (f.lit2 l1 l2) f.s2))
  | 0x1#5 => do some (.fadd f.guard true (← Reg.ofCode 0 f.d) (← Reg.ofCode l1 f.s1) (← Reg.ofCode (f.lit2 l1 l2) f.s2))
  | 0x2#5 => do some (.fsub f.guard false (← Reg.ofCode 0 f.d) (← Reg.ofCode l1 f.s1) (← Reg.ofCode (f.lit2 l1 l2) f.s2))
  | 0x3#5 => do some (.fsub f.guard true (← Reg.ofCode 0 f.d) (← Reg.ofCode l1 f.s1) (← Reg.ofCode (f.lit2 l1 l2) f.s2))
  | 0x4#5 => do some (.fmul f.guard false (← Reg.ofCode 0 f.d) (← Reg.ofCode l1 f.s1) (← Reg.ofCode (f.lit2 l1 l2) f.s2))
  | 0x5#5 => do some (.fmul f.guard true (← Reg.ofCode 0 f.d) (← Reg.ofCode l1 f.s1) (← Reg.ofCode (f.lit2 l1 l2) f.s2))
  | 0x6#5 => do some (.ffma f.guard false (← Reg.ofCode 0 f.d) (← Reg.ofCode l1 f.s1) (← Reg.ofCode (f.lit2 l1 l2) f.s2))
  | 0x7#5 => do some (.ffma f.guard true (← Reg.ofCode 0 f.d) (← Reg.ofCode l1 f.s1) (← Reg.ofCode (f.lit2 l1 l2) f.s2))
  | 0x8#5 => do some (.fdiv f.guard false (← Reg.ofCode 0 f.d) (← Reg.ofCode l1 f.s1) (← Reg.ofCode (f.lit2 l1 l2) f.s2))
  | 0x9#5 => do some (.fdiv f.guard true (← Reg.ofCode 0 f.d) (← Reg.ofCode l1 f.s1) (← Reg.ofCode (f.lit2 l1 l2) f.s2))
  | 0xA#5 => if f.s2 = 12#5 then do some (.fsqrt f.guard false (← Reg.ofCode 0 f.d) (← Reg.ofCode l1 f.s1)) else none
  | 0xB#5 => if f.s2 = 12#5 then do some (.fsqrt f.guard true (← Reg.ofCode 0 f.d) (← Reg.ofCode l1 f.s1)) else none
  | 0xC#5 => do some (.fmin f.guard false (← Reg.ofCode 0 f.d) (← Reg.ofCode l1 f.s1) (← Reg.ofCode (f.lit2 l1 l2) f.s2))
  | 0xD#5 => do some (.fmin f.guard true (← Reg.ofCode 0 f.d) (← Reg.ofCode l1 f.s1) (← Reg.ofCode (f.lit2 l1 l2) f.s2))
  | 0xE#5 => do some (.fmax f.guard false (← Reg.ofCode 0 f.d) (← Reg.ofCode l1 f.s1) (← Reg.ofCode (f.lit2 l1 l2) f.s2))
  | 0xF#5 => do some (.fmax f.guard true (← Reg.ofCode 0 f.d) (← Reg.ofCode l1 f.s1) (← Reg.ofCode (f.lit2 l1 l2) f.s2))
  | 0x10#5 => do some (.fcmpEq f.guard false (← predOf f.d) (← Reg.ofCode l1 f.s1) (← Reg.ofCode (f.lit2 l1 l2) f.s2))
  | 0x11#5 => do some (.fcmpEq f.guard true (← predOf f.d) (← Reg.ofCode l1 f.s1) (← Reg.ofCode (f.lit2 l1 l2) f.s2))
  | 0x12#5 => do some (.fcmpLt f.guard false (← predOf f.d) (← Reg.ofCode l1 f.s1) (← Reg.ofCode (f.lit2 l1 l2) f.s2))
  | 0x13#5 => do some (.fcmpLt f.guard true (← predOf f.d) (← Reg.ofCode l1 f.s1) (← Reg.ofCode (f.lit2 l1 l2) f.s2))
  | 0x14#5 => do some (.fcmpLe f.guard false (← predOf f.d) (← Reg.ofCode l1 f.s1) (← Reg.ofCode (f.lit2 l1 l2) f.s2))
  | 0x15#5 => do some (.fcmpLe f.guard true (← predOf f.d) (← Reg.ofCode l1 f.s1) (← Reg.ofCode (f.lit2 l1 l2) f.s2))
  | 0x16#5 => do some (.fcmpUn f.guard false (← predOf f.d) (← Reg.ofCode l1 f.s1) (← Reg.ofCode (f.lit2 l1 l2) f.s2))
  | 0x17#5 => do some (.fcmpUn f.guard true (← predOf f.d) (← Reg.ofCode l1 f.s1) (← Reg.ofCode (f.lit2 l1 l2) f.s2))
  | 0x18#5 => do some (.fcvt f.guard false (f.s2.extractLsb' 3 2) (f.s2.extractLsb' 0 3) (← Reg.ofCode 0 f.d) (← Reg.ofCode l1 f.s1))
  | 0x19#5 => do some (.fcvt f.guard true (f.s2.extractLsb' 3 2) (f.s2.extractLsb' 0 3) (← Reg.ofCode 0 f.d) (← Reg.ofCode l1 f.s1))
  | 0x1A#5 => if f.s2 = 0#5 then do some (.fclass f.guard false (← Reg.ofCode 0 f.d) (← Reg.ofCode l1 f.s1)) else none
  | 0x1B#5 => if f.s2 = 0#5 then do some (.fclass f.guard true (← Reg.ofCode 0 f.d) (← Reg.ofCode l1 f.s1)) else none
  | _ => none

/-- Major 0x05: HPACK, HPARSE, HLAYOUT. -/
def decode05 (f : FormatA) (l1 l2 : Word32) : Option Instr :=
  match f.minor with
  | 0x0#5 => do some (.hpack f.guard (← Reg.ofCode 0 f.d) (← Reg.ofCode l1 f.s1) (← Reg.ofCode (f.lit2 l1 l2) f.s2))
  | 0x1#5 => do some (.hparse f.guard (← Reg.ofCode 0 f.d) (← Reg.ofCode l1 f.s1) (← Reg.ofCode (f.lit2 l1 l2) f.s2))
  | 0x2#5 => do some (.hlayout f.guard (← Reg.ofCode 0 f.d) (← Reg.ofCode l1 f.s1) (← Reg.ofCode (f.lit2 l1 l2) f.s2))
  | _ => none

/-- Major 0x06: SYSRD, SYSWR. -/
def decode06 (f : FormatS) (l1 : Word32) : Option Instr :=
  if f.w then (if f.z2 = 0#2 ∧ f.d = 12#5 then do some (.syswr f.n (← Reg.ofCode l1 f.s1)) else none)
  else if f.z2 = 0#2 ∧ f.s1 = 12#5 then do some (.sysrd (← Reg.ofCode 0 f.d) f.n) else none

/-- Major 0x08: ADDI. -/
def decode08 (f : FormatI) (l1 : Word32) : Option Instr :=
  do some (.addi (← Reg.ofCode 0 f.d) (← Reg.ofCode l1 f.s1) f.imm)

/-- Major 0x09: ANDI. -/
def decode09 (f : FormatI) (l1 : Word32) : Option Instr :=
  do some (.andi (← Reg.ofCode 0 f.d) (← Reg.ofCode l1 f.s1) f.imm)

/-- Major 0x0A: ORI. -/
def decode0A (f : FormatI) (l1 : Word32) : Option Instr :=
  do some (.ori (← Reg.ofCode 0 f.d) (← Reg.ofCode l1 f.s1) f.imm)

/-- Major 0x0B: XORI. -/
def decode0B (f : FormatI) (l1 : Word32) : Option Instr :=
  do some (.xori (← Reg.ofCode 0 f.d) (← Reg.ofCode l1 f.s1) f.imm)

/-- Major 0x0C: SHLI, SHRI, SARI, RORI. -/
def decode0C (f : FormatSH) (l1 : Word32) : Option Instr :=
  match f.op with
  | 0x0#2 => if f.z3 = 0#3 ∧ f.z4 = 0#4 then do some (.shli (← Reg.ofCode 0 f.d) (← Reg.ofCode l1 f.s1) f.amt) else none
  | 0x1#2 => if f.z3 = 0#3 ∧ f.z4 = 0#4 then do some (.shri (← Reg.ofCode 0 f.d) (← Reg.ofCode l1 f.s1) f.amt) else none
  | 0x2#2 => if f.z3 = 0#3 ∧ f.z4 = 0#4 then do some (.sari (← Reg.ofCode 0 f.d) (← Reg.ofCode l1 f.s1) f.amt) else none
  | 0x3#2 => if f.z3 = 0#3 ∧ f.z4 = 0#4 then do some (.rori (← Reg.ofCode 0 f.d) (← Reg.ofCode l1 f.s1) f.amt) else none

/-- Major 0x0D: CMPI. -/
def decode0D (f : FormatCI) (l1 : Word32) : Option Instr :=
  do some (.cmpi f.cc (← predOf f.pd) (← Reg.ofCode l1 f.s1) f.imm)

/-- Major 0x0E: LIH. -/
def decode0E (f : FormatLI) : Option Instr :=
  do some (.lih (← Reg.ofCode 0 f.d) f.imm)

/-- Major 0x10: BR. -/
def decode10 (f : FormatB) : Option Instr :=
  some (.br (f.b.getLsbD 4) (f.b.extractLsb' 0 4) f.off)

/-- Major 0x11: JAL. -/
def decode11 (f : FormatB) : Option Instr :=
  do some (.jal (← Reg.ofCode 0 f.b) f.off)

/-- Major 0x12: JALR. -/
def decode12 (f : FormatI) : Option Instr :=
  do some (.jalr (← Reg.ofCode 0 f.d) (← Reg.ofCode 0 f.s1) f.imm)

/-- Major 0x13: SWITCH. -/
def decode13 (f : FormatI) : Option Instr :=
  if f.d = 12#5 then do some (.switch (← Reg.ofCode 0 f.s1) f.imm) else none

/-- Major 0x14: NOP, TRAP, ERET, FENCE, FENCE_D, YIELD, EXIT, BRK. -/
def decode14 (f : FormatA) (l1 : Word32) : Option Instr :=
  match f.minor with
  | 0x0#5 => if f.d = 12#5 ∧ f.s2 = 12#5 ∧ f.s1 = 12#5 then some (.nop f.guard) else none
  | 0x1#5 => if f.d = 12#5 ∧ f.s2 = 12#5 then do some (.trap f.guard (← Reg.ofCode l1 f.s1)) else none
  | 0x2#5 => if f.d = 12#5 ∧ f.s2 = 12#5 ∧ f.s1 = 12#5 then some (.eret f.guard) else none
  | 0x3#5 => if f.d = 12#5 ∧ f.s2 = 12#5 ∧ f.s1 = 12#5 then some (.fence f.guard) else none
  | 0x4#5 => if f.d = 12#5 ∧ f.s2 = 12#5 ∧ f.s1 = 12#5 then some (.fenceD f.guard) else none
  | 0x5#5 => if f.d = 12#5 ∧ f.s2 = 12#5 ∧ f.s1 = 12#5 then some (.yield f.guard) else none
  | 0x6#5 => if f.d = 12#5 ∧ f.s2 = 12#5 ∧ f.s1 = 12#5 then some (.exit f.guard) else none
  | 0x7#5 => if f.d = 12#5 ∧ f.s2 = 12#5 then do some (.brk f.guard (← Reg.ofCode l1 f.s1)) else none
  | _ => none

/-- Major 0x15: ITER, ITER_S, ITERQ, ITERX. -/
def decode15 (f : FormatA) : Option Instr :=
  match f.minor with
  | 0x0#5 => if f.s1 = 12#5 then do some (.iter f.guard (← Reg.ofCode 0 f.d) (← predOf f.s2)) else none
  | 0x1#5 => if f.s1 = 12#5 then do some (.iterS f.guard (← Reg.ofCode 0 f.d) (← predOf f.s2)) else none
  | 0x2#5 => if f.s1 = 12#5 then do some (.iterq f.guard (← Reg.ofCode 0 f.d) f.s2) else none
  | 0x3#5 => if f.s1 = 12#5 ∧ f.s2 = 12#5 then do some (.iterx f.guard (← Reg.ofCode 0 f.d)) else none
  | _ => none

/-- Major 0x16: BAR, BARA, BARW, BART, BARS. -/
def decode16 (f : FormatA) : Option Instr :=
  match f.minor with
  | 0x0#5 => if f.s1 = 12#5 then do some (.bar f.guard (← Reg.ofCode 0 f.d) f.s2) else none
  | 0x1#5 => if f.s1 = 12#5 then do some (.bara f.guard (← Reg.ofCode 0 f.d) f.s2) else none
  | 0x2#5 => do some (.barw f.guard (← Reg.ofCode 0 f.d) (← Reg.ofCode 0 f.s1) f.s2)
  | 0x3#5 => do some (.bart f.guard (← predOf f.d) (← Reg.ofCode 0 f.s1) f.s2)
  | 0x4#5 => if f.s1 = 12#5 then do some (.bars f.guard (← Reg.ofCode 0 f.d) f.s2) else none
  | _ => none

/-- Major 0x18: LD. -/
def decode18 (f : FormatM) : Option Instr :=
  do some (.ld f.op f.la (← Reg.ofCode 0 f.data) (← Reg.ofCode 0 f.base) f.off)

/-- Major 0x19: ST. -/
def decode19 (f : FormatM) : Option Instr :=
  if f.op.getLsbD 2 = false then do some (.st (f.op.extractLsb' 0 2) f.la (← Reg.ofCode 0 f.data) (← Reg.ofCode 0 f.base) f.off) else none

/-- Major 0x1A: LDF, LDE, STF, STW. -/
def decode1A (f : FormatM) : Option Instr :=
  match f.op with
  | 0x0#3 => do some (.ldf false f.la (← Reg.ofCode 0 f.data) (← Reg.ofCode 0 f.base) f.off)
  | 0x1#3 => do some (.ldf true f.la (← Reg.ofCode 0 f.data) (← Reg.ofCode 0 f.base) f.off)
  | 0x2#3 => do some (.lde false f.la (← Reg.ofCode 0 f.data) (← Reg.ofCode 0 f.base) f.off)
  | 0x3#3 => do some (.lde true f.la (← Reg.ofCode 0 f.data) (← Reg.ofCode 0 f.base) f.off)
  | 0x4#3 => do some (.stf false f.la (← Reg.ofCode 0 f.data) (← Reg.ofCode 0 f.base) f.off)
  | 0x5#3 => do some (.stf true f.la (← Reg.ofCode 0 f.data) (← Reg.ofCode 0 f.base) f.off)
  | 0x6#3 => do some (.stw false f.la (← Reg.ofCode 0 f.data) (← Reg.ofCode 0 f.base) f.off)
  | 0x7#3 => do some (.stw true f.la (← Reg.ofCode 0 f.data) (← Reg.ofCode 0 f.base) f.off)

/-- Major 0x1B: AMO. -/
def decode1B (f : FormatM) : Option Instr :=
  do some (.amo (f.off.getLsbD 7) f.op f.la (← Reg.ofCode 0 f.data) (← Reg.ofCode 0 f.base) (f.off.extractLsb' 0 7))

/-- Major 0x1C: CAS. -/
def decode1C (f : FormatM) : Option Instr :=
  if f.op = 0#3 then do some (.cas (f.off.getLsbD 7) f.la (← Reg.ofCode 0 f.data) (← Reg.ofCode 0 f.base) (f.off.extractLsb' 0 7)) else none

/-- Major 0x1D: SEND, CONT, WAITR. -/
def decode1D (f : FormatE) (l1 : Word32) : Option Instr :=
  match f.minor with
  | 0x0#3 => if f.qa = 0#4 ∧ f.qb = 0#4 then do some (.send f.la (← Reg.ofCode 0 f.res) (← Reg.ofCode l1 f.sc)) else none
  | 0x1#3 => if f.qa = 0#4 ∧ f.qb = 0#4 ∧ f.la = 0#4 then do some (.cont (← Reg.ofCode 0 f.res) (← Reg.ofCode l1 f.sc)) else none
  | 0x2#3 => if f.qa = 0#4 ∧ f.qb = 0#4 ∧ f.la = 0#4 then do some (.waitr (← Reg.ofCode 0 f.res) (← Reg.ofCode l1 f.sc)) else none
  | _ => none

/-- Major 0x1E: PREF, FESET, FECLR, FETEST. -/
def decode1E (f : FormatM) : Option Instr :=
  match f.op with
  | 0x0#3 => if f.la = 0#4 ∧ f.data = 12#5 then do some (.pref (← Reg.ofCode 0 f.base) f.off) else none
  | 0x1#3 => if f.data = 12#5 then do some (.feset f.la (← Reg.ofCode 0 f.base) f.off) else none
  | 0x2#3 => if f.data = 12#5 then do some (.feclr f.la (← Reg.ofCode 0 f.base) f.off) else none
  | 0x3#3 => do some (.fetest f.la (← predOf f.data) (← Reg.ofCode 0 f.base) f.off)
  | _ => none

/-- Major 0x20: QUNI, QINT, QSUB, QDIL, QSHF, QPRJ, QCLIP, QSPL, QHULL. -/
def decode20 (f : FormatQ) (l1 : Word32) : Option Instr :=
  match f.minor with
  | 0x0#5 => if f.sc = 12#5 ∧ f.sel = 0#3 then some (.quni f.qd f.qa f.qb) else none
  | 0x1#5 => if f.sc = 12#5 ∧ f.sel = 0#3 then some (.qint f.qd f.qa f.qb) else none
  | 0x2#5 => if f.sc = 12#5 ∧ f.sel = 0#3 then some (.qsub f.qd f.qa f.qb) else none
  | 0x3#5 => if f.qb = 0#4 then do some (.qdil f.sel f.qd f.qa (← Reg.ofCode l1 f.sc)) else none
  | 0x4#5 => if f.qb = 0#4 then do some (.qshf f.sel f.qd f.qa (← Reg.ofCode l1 f.sc)) else none
  | 0x5#5 => if f.qb = 0#4 then do some (.qprj f.sel f.qd f.qa (← Reg.ofCode l1 f.sc)) else none
  | 0x6#5 => if f.qb = 0#4 ∧ f.sc = 12#5 ∧ f.sel = 0#3 then some (.qclip f.qd f.qa) else none
  | 0x7#5 => if f.qb = 0#4 then do some (.qspl f.sel f.qd f.qa (← Reg.ofCode l1 f.sc)) else none
  | 0x8#5 => if f.qb = 0#4 ∧ f.sc = 12#5 ∧ f.sel = 0#3 then some (.qhull f.qd f.qa) else none
  | _ => none

/-- Major 0x21: QBOX, QSTR, QRAG, QLD, QST, QCLR, QMOV. -/
def decode21 (f : FormatQ) (l1 : Word32) : Option Instr :=
  match f.minor with
  | 0x0#5 => if f.qb = 0#4 then do some (.qbox f.sel f.qd f.qa (← Reg.ofCode l1 f.sc)) else none
  | 0x1#5 => if f.qa = 0#4 ∧ f.qb = 0#4 ∧ f.sel = 0#3 then do some (.qstr f.qd (← Reg.ofCode l1 f.sc)) else none
  | 0x2#5 => if f.qb = 0#4 ∧ f.sel = 0#3 then do some (.qrag f.qd f.qa (← Reg.ofCode l1 f.sc)) else none
  | 0x3#5 => if f.qa = 0#4 ∧ f.qb = 0#4 ∧ f.sel = 0#3 then do some (.qld f.qd (← Reg.ofCode l1 f.sc)) else none
  | 0x4#5 => if f.qd = 0#4 ∧ f.qb = 0#4 ∧ f.sel = 0#3 then do some (.qst f.qa (← Reg.ofCode l1 f.sc)) else none
  | 0x5#5 => if f.qa = 0#4 ∧ f.qb = 0#4 ∧ f.sc = 12#5 ∧ f.sel = 0#3 then some (.qclr f.qd) else none
  | 0x6#5 => if f.qb = 0#4 ∧ f.sc = 12#5 ∧ f.sel = 0#3 then some (.qmov f.qd f.qa) else none
  | _ => none

/-- Major 0x22: QSIZE, QCNT, QGET, QEQ, QLE, QEMP, QOVF. -/
def decode22 (f : FormatQ) : Option Instr :=
  match f.minor with
  | 0x0#5 => if f.qd = 0#4 ∧ f.qb = 0#4 ∧ f.sel = 0#3 then do some (.qsize (← Reg.ofCode 0 f.sc) f.qa) else none
  | 0x1#5 => if f.qd = 0#4 ∧ f.qb = 0#4 then do some (.qcnt f.sel (← Reg.ofCode 0 f.sc) f.qa) else none
  | 0x2#5 => if f.qd = 0#4 then do some (.qget f.sel (← Reg.ofCode 0 f.sc) f.qa f.qb) else none
  | 0x3#5 => if f.sc = 12#5 ∧ f.sel = 0#3 then some (.qeq f.qd f.qa f.qb) else none
  | 0x4#5 => if f.sc = 12#5 ∧ f.sel = 0#3 then some (.qle f.qd f.qa f.qb) else none
  | 0x5#5 => if f.qb = 0#4 ∧ f.sc = 12#5 ∧ f.sel = 0#3 then some (.qemp f.qd f.qa) else none
  | 0x6#5 => if f.qb = 0#4 ∧ f.sc = 12#5 ∧ f.sel = 0#3 then some (.qovf f.qd f.qa) else none
  | _ => none

/-- Major 0x28: VADD, VSUB, VMUL, VMIN, VMAX, VABS, VNEG, VAND, VOR, VXOR, VNOT, VSHL, VSHR, VSAR, VMOV, VSEL, VCMP, VBCST, VEXTR. -/
def decode28 (f : FormatV) : Option Instr :=
  match f.minor with
  | 0x0#5 => if f.x4 = 0#4 then some (.vadd f.z f.k f.vd f.va f.vb) else none
  | 0x1#5 => if f.x4 = 0#4 then some (.vsub f.z f.k f.vd f.va f.vb) else none
  | 0x2#5 => if f.x4 = 0#4 then some (.vmul f.z f.k f.vd f.va f.vb) else none
  | 0x3#5 => if f.x4 = 0#4 then some (.vmin f.z f.k f.vd f.va f.vb) else none
  | 0x4#5 => if f.x4 = 0#4 then some (.vmax f.z f.k f.vd f.va f.vb) else none
  | 0x5#5 => if f.x4 = 0#4 ∧ f.vb = 0#4 then some (.vabs f.z f.k f.vd f.va) else none
  | 0x6#5 => if f.x4 = 0#4 ∧ f.vb = 0#4 then some (.vneg f.z f.k f.vd f.va) else none
  | 0x7#5 => if f.x4 = 0#4 then some (.vand f.z f.k f.vd f.va f.vb) else none
  | 0x8#5 => if f.x4 = 0#4 then some (.vor f.z f.k f.vd f.va f.vb) else none
  | 0x9#5 => if f.x4 = 0#4 then some (.vxor f.z f.k f.vd f.va f.vb) else none
  | 0xA#5 => if f.x4 = 0#4 ∧ f.vb = 0#4 then some (.vnot f.z f.k f.vd f.va) else none
  | 0xB#5 => if f.x4 = 0#4 then some (.vshl f.z f.k f.vd f.va f.vb) else none
  | 0xC#5 => if f.x4 = 0#4 then some (.vshr f.z f.k f.vd f.va f.vb) else none
  | 0xD#5 => if f.x4 = 0#4 then some (.vsar f.z f.k f.vd f.va f.vb) else none
  | 0xE#5 => if f.x4 = 0#4 ∧ f.vb = 0#4 then some (.vmov f.z f.k f.vd f.va) else none
  | 0xF#5 => if f.x4 = 0#4 ∧ f.z = false then some (.vsel f.k f.vd f.va f.vb) else none
  | 0x10#5 => some (.vcmp f.z f.k f.x4 f.vd f.va f.vb)
  | 0x11#5 => if f.vb = 0#4 then some (.vbcst f.z f.k f.x4 f.vd f.va) else none
  | 0x12#5 => if f.x4 = 0#4 ∧ f.z = false ∧ f.k = 0#3 then some (.vextr f.vd f.va f.vb) else none
  | _ => none

/-- Major 0x29: VFMA, VFMS, VFNMA, VDOT4. -/
def decode29 (f : FormatV) : Option Instr :=
  match f.minor with
  | 0x0#5 => some (.vfma f.z f.k f.vd f.va f.vb f.x4)
  | 0x1#5 => some (.vfms f.z f.k f.vd f.va f.vb f.x4)
  | 0x2#5 => some (.vfnma f.z f.k f.vd f.va f.vb f.x4)
  | 0x3#5 => some (.vdot4 f.z f.k f.vd f.va f.vb f.x4)
  | _ => none

/-- Major 0x2A: VRCP, VRSQ, VSQRT, VDIV, VEXP2, VLOG2, VTANH. -/
def decode2A (f : FormatV) : Option Instr :=
  match f.minor with
  | 0x0#5 => if f.x4 = 0#4 ∧ f.vb = 0#4 then some (.vrcp f.z f.k f.vd f.va) else none
  | 0x1#5 => if f.x4 = 0#4 ∧ f.vb = 0#4 then some (.vrsq f.z f.k f.vd f.va) else none
  | 0x2#5 => if f.x4 = 0#4 ∧ f.vb = 0#4 then some (.vsqrt f.z f.k f.vd f.va) else none
  | 0x3#5 => if f.x4 = 0#4 then some (.vdiv f.z f.k f.vd f.va f.vb) else none
  | 0x4#5 => if f.x4 = 0#4 ∧ f.vb = 0#4 then some (.vexp2 f.z f.k f.vd f.va) else none
  | 0x5#5 => if f.x4 = 0#4 ∧ f.vb = 0#4 then some (.vlog2 f.z f.k f.vd f.va) else none
  | 0x6#5 => if f.x4 = 0#4 ∧ f.vb = 0#4 then some (.vtanh f.z f.k f.vd f.va) else none
  | _ => none

/-- Major 0x2B: VCVT, VTAG, VQNT, VDQNT. -/
def decode2B (f : FormatV) : Option Instr :=
  match f.minor with
  | 0x0#5 => if f.vb.getLsbD 3 = false then do some (.vcvt f.z f.k (← low2 f.x4) (f.vb.getLsbD 2) (f.vb.extractLsb' 0 2) f.vd f.va) else none
  | 0x1#5 => if f.z = false ∧ f.k = 0#3 then do some (.vtag ((← low2 f.x4) ++ f.vb) f.vd f.va) else none
  | 0x2#5 => if f.z = false ∧ f.k = 0#3 then some (.vqnt (f.vb.extractLsb' 2 2) (f.vb.extractLsb' 0 2) f.vd f.va f.x4) else none
  | 0x3#5 => if f.z = false ∧ f.k = 0#3 then do some (.vdqnt (← low2 f.vb) f.vd f.va f.x4) else none
  | _ => none

/-- Major 0x2C: VRED, VSCAN, VPERM, VSLIDE, VZIP, VUNZ, VIOTA, VCOMP. -/
def decode2C (f : FormatV) : Option Instr :=
  match f.minor with
  | 0x0#5 => if f.z = false ∧ f.vb = 0#4 then some (.vred f.k f.x4 f.vd f.va) else none
  | 0x1#5 => if f.vb = 0#4 then some (.vscan f.z f.k (f.x4.getLsbD 3) (f.x4.extractLsb' 0 3) f.vd f.va) else none
  | 0x2#5 => if f.x4 = 0#4 then some (.vperm f.z f.k f.vd f.va f.vb) else none
  | 0x3#5 => if f.x4 = 0#4 then some (.vslide f.z f.k f.vd f.va f.vb) else none
  | 0x4#5 => do some (.vzip f.z f.k (← low1 f.x4) f.vd f.va f.vb)
  | 0x5#5 => do some (.vunz f.z f.k (← low1 f.x4) f.vd f.va f.vb)
  | 0x6#5 => if f.x4 = 0#4 ∧ f.z = false ∧ f.vb = 0#4 ∧ f.va = 0#4 then some (.viota f.k f.vd) else none
  | 0x7#5 => if f.x4 = 0#4 ∧ f.z = false ∧ f.vb = 0#4 then some (.vcomp f.k f.vd f.va) else none
  | _ => none

/-- Major 0x2D: VLD, VST, VLDS, VSTS, VLDX, VSTX, VLDL, VSTL. -/
def decode2D (f : FormatVM) : Option Instr :=
  match f.minor with
  | 0x0#5 => do some (.vld f.ix f.k f.la f.vd (← Reg.ofCode 0 f.base))
  | 0x1#5 => if f.ix = 0#4 then do some (.vst f.k f.la f.vd (← Reg.ofCode 0 f.base)) else none
  | 0x2#5 => do some (.vlds f.ix f.k f.la f.vd (← Reg.ofCode 0 f.base))
  | 0x3#5 => do some (.vsts f.ix f.k f.la f.vd (← Reg.ofCode 0 f.base))
  | 0x4#5 => do some (.vldx f.ix f.k f.la f.vd (← Reg.ofCode 0 f.base))
  | 0x5#5 => do some (.vstx f.ix f.k f.la f.vd (← Reg.ofCode 0 f.base))
  | 0x6#5 => if f.ix = 0#4 then do some (.vldl f.k f.la f.vd (← Reg.ofCode 0 f.base)) else none
  | 0x7#5 => if f.ix = 0#4 then do some (.vstl f.k f.la f.vd (← Reg.ofCode 0 f.base)) else none
  | _ => none

/-- Major 0x2E: VCLAIM, VREL, VWID, KAND, KOR, KXOR, KNOT, KMOV, KPOP, KFIRST. -/
def decode2E (f : FormatV) : Option Instr :=
  match f.minor with
  | 0x0#5 => if f.z = false ∧ f.k = 0#3 ∧ f.vb = 0#4 ∧ f.va = 0#4 then some (.vclaim f.x4 f.vd) else none
  | 0x1#5 => if f.x4 = 0#4 ∧ f.z = false ∧ f.k = 0#3 ∧ f.vb = 0#4 ∧ f.va = 0#4 ∧ f.vd = 0#4 then some .vrel else none
  | 0x2#5 => if f.x4 = 0#4 ∧ f.z = false ∧ f.k = 0#3 ∧ f.vb = 0#4 ∧ f.va = 0#4 then some (.vwid f.vd) else none
  | 0x3#5 => if f.x4 = 0#4 ∧ f.z = false ∧ f.k = 0#3 then some (.kand f.vd f.va f.vb) else none
  | 0x4#5 => if f.x4 = 0#4 ∧ f.z = false ∧ f.k = 0#3 then some (.kor f.vd f.va f.vb) else none
  | 0x5#5 => if f.x4 = 0#4 ∧ f.z = false ∧ f.k = 0#3 then some (.kxor f.vd f.va f.vb) else none
  | 0x6#5 => if f.x4 = 0#4 ∧ f.z = false ∧ f.k = 0#3 ∧ f.vb = 0#4 then some (.knot f.vd f.va) else none
  | 0x7#5 => if f.x4 = 0#4 ∧ f.z = false ∧ f.k = 0#3 ∧ f.vb = 0#4 then some (.kmov f.vd f.va) else none
  | 0x8#5 => if f.x4 = 0#4 ∧ f.z = false ∧ f.k = 0#3 ∧ f.vb = 0#4 then some (.kpop f.vd f.va) else none
  | 0x9#5 => if f.x4 = 0#4 ∧ f.z = false ∧ f.k = 0#3 ∧ f.vb = 0#4 then some (.kfirst f.vd f.va) else none
  | _ => none

/-- Major 0x30: MMA, MMAS, MMAR. -/
def decode30 (f : FormatMX) : Option Instr :=
  match f.minor with
  | 0x0#4 => do some (.mma f.flags (← low1 f.bsrc) f.la f.qa (← tileOf f.z))
  | 0x1#4 => do some (.mmas f.flags (← low1 f.bsrc) f.la f.qa (← tileOf f.z))
  | 0x2#4 => do some (.mmar f.flags (← low1 f.bsrc) f.la f.qa (← tileOf f.z))
  | _ => none

/-- Major 0x31: ZCLAIM, ZREL, ZZERO, ZLD, ZST. -/
def decode31 (f : FormatMX) : Option Instr :=
  match f.minor with
  | 0x0#4 => if f.flags = 0#4 ∧ f.la = 0#4 ∧ f.qa = 0#4 then do some (.zclaim f.bsrc (← tileOf f.z)) else none
  | 0x1#4 => if f.flags = 0#4 ∧ f.bsrc = 0#4 ∧ f.la = 0#4 ∧ f.qa = 0#4 then do some (.zrel (← tileOf f.z)) else none
  | 0x2#4 => if f.flags = 0#4 ∧ f.bsrc = 0#4 ∧ f.la = 0#4 ∧ f.qa = 0#4 then do some (.zzero (← tileOf f.z)) else none
  | 0x3#4 => if f.bsrc = 0#4 ∧ f.la = 0#4 then do some (.zld (← low1 f.flags) f.qa (← tileOf f.z)) else none
  | 0x4#4 => if f.flags = 0#4 ∧ f.bsrc = 0#4 ∧ f.la = 0#4 then do some (.zst f.qa (← tileOf f.z)) else none
  | _ => none

/-- Major 0x32: BLD, BROT, BMETA. -/
def decode32 (f : FormatMX) : Option Instr :=
  match f.minor with
  | 0x0#4 => if f.bsrc = 0#4 ∧ f.z = 0#5 then do some (.bld (← low1 f.flags) f.la f.qa) else none
  | 0x1#4 => if f.bsrc = 0#4 ∧ f.qa = 0#4 ∧ f.z = 0#5 then some (.brot f.flags f.la) else none
  | 0x2#4 => if f.flags = 0#4 ∧ f.bsrc = 0#4 ∧ f.z = 0#5 then some (.bmeta f.la f.qa) else none
  | _ => none

/-- Major 0x33: JWAIT, JPOLL, JSTAT. -/
def decode33 (f : FormatE) (l1 : Word32) : Option Instr :=
  match f.minor with
  | 0x0#3 => if f.qb = 0#4 ∧ f.qa = 0#4 ∧ f.la = 0#4 ∧ f.res = 12#5 then do some (.jwait (← Reg.ofCode l1 f.sc)) else none
  | 0x1#3 => if f.qb = 0#4 ∧ f.qa = 0#4 ∧ f.la = 0#4 then do some (.jpoll (← predOf f.res) (← Reg.ofCode l1 f.sc)) else none
  | 0x2#3 => if f.qb = 0#4 ∧ f.qa = 0#4 ∧ f.la = 0#4 then do some (.jstat (← Reg.ofCode 0 f.res) (← Reg.ofCode l1 f.sc)) else none
  | _ => none

/-- Major 0x38: CPY, CPYG, CPYS, HALO, CFILL, QWAIT. -/
def decode38 (f : FormatE) (l1 : Word32) : Option Instr :=
  match f.minor with
  | 0x0#3 => if f.la = 0#4 then do some (.cpy (← predOf f.res) f.qa f.qb (← Reg.ofCode l1 f.sc)) else none
  | 0x1#3 => if f.la = 0#4 then do some (.cpyg (← predOf f.res) f.qa f.qb (← Reg.ofCode l1 f.sc)) else none
  | 0x2#3 => if f.la = 0#4 then do some (.cpys (← predOf f.res) f.qa f.qb (← Reg.ofCode l1 f.sc)) else none
  | 0x3#3 => if f.la = 0#4 then do some (.halo (← predOf f.res) f.qa f.qb (← Reg.ofCode l1 f.sc)) else none
  | 0x4#3 => if f.qb = 0#4 ∧ f.la = 0#4 then do some (.cfill (← predOf f.res) f.qa (← Reg.ofCode l1 f.sc)) else none
  | 0x5#3 => if f.qb = 0#4 ∧ f.la = 0#4 ∧ f.res = 12#5 then do some (.qwait f.qa (← Reg.ofCode l1 f.sc)) else none
  | _ => none

/-- Major 0x39: CSEAL, CWAIT, ARM, DISARM, CNTRD, CNTSET, AWINIT, AWWAIT. -/
def decode39 (f : FormatE) (l1 : Word32) : Option Instr :=
  match f.minor with
  | 0x0#3 => if f.qb = 0#4 ∧ f.qa = 0#4 ∧ f.la = 0#4 ∧ f.sc = 12#5 then do some (.cseal (← Reg.ofCode 0 f.res)) else none
  | 0x1#3 => if f.qb = 0#4 ∧ f.qa = 0#4 ∧ f.la = 0#4 ∧ f.res = 12#5 then do some (.cwait (← Reg.ofCode l1 f.sc)) else none
  | 0x2#3 => if f.la = 0#4 then do some (.arm (← predOf f.res) f.qa f.qb (← Reg.ofCode l1 f.sc)) else none
  | 0x3#3 => if f.qb = 0#4 ∧ f.qa = 0#4 ∧ f.la = 0#4 then do some (.disarm (← predOf f.res) (← Reg.ofCode l1 f.sc)) else none
  | 0x4#3 => if f.qb = 0#4 ∧ f.qa = 0#4 ∧ f.la = 0#4 then do some (.cntrd (← Reg.ofCode 0 f.res) (← Reg.ofCode l1 f.sc)) else none
  | 0x5#3 => if f.qb = 0#4 ∧ f.qa = 0#4 ∧ f.la = 0#4 then do some (.cntset (← Reg.ofCode l1 f.sc) (← Reg.ofCode 0 f.res)) else none
  | 0x6#3 => if f.qb = 0#4 ∧ f.qa = 0#4 ∧ f.la = 0#4 then do some (.awinit (← Reg.ofCode l1 f.sc) (← Reg.ofCode 0 f.res)) else none
  | 0x7#3 => if f.qb = 0#4 ∧ f.qa = 0#4 ∧ f.la = 0#4 then do some (.awwait (← Reg.ofCode l1 f.sc) (← Reg.ofCode 0 f.res)) else none

/-- Major 0x3A: RECORD, REPLAY, RPSTOP, RPSTAT. -/
def decode3A (f : FormatE) (l1 : Word32) : Option Instr :=
  match f.minor with
  | 0x0#3 => if f.qb = 0#4 ∧ f.qa = 0#4 ∧ f.la = 0#4 then do some (.record (← predOf f.res) (← Reg.ofCode l1 f.sc)) else none
  | 0x1#3 => if f.qb = 0#4 ∧ f.qa = 0#4 ∧ f.la = 0#4 ∧ f.sc = 12#5 then do some (.replay (← predOf f.res)) else none
  | 0x2#3 => if f.qb = 0#4 ∧ f.qa = 0#4 ∧ f.la = 0#4 ∧ f.sc = 12#5 ∧ f.res = 12#5 then some .rpstop else none
  | 0x3#3 => if f.qb = 0#4 ∧ f.qa = 0#4 ∧ f.la = 0#4 then do some (.rpstat (← Reg.ofCode 0 f.res) (← Reg.ofCode l1 f.sc)) else none
  | _ => none

/-- Major 0x3B: ROUTE, RTWAIT, RTINV, RTSTAT. -/
def decode3B (f : FormatE) (l1 : Word32) : Option Instr :=
  match f.minor with
  | 0x0#3 => if f.qb = 0#4 ∧ f.qa = 0#4 ∧ f.la = 0#4 then do some (.route (← Reg.ofCode 0 f.res) (← Reg.ofCode l1 f.sc)) else none
  | 0x1#3 => if f.qb = 0#4 ∧ f.qa = 0#4 ∧ f.la = 0#4 ∧ f.res = 12#5 then do some (.rtwait (← Reg.ofCode l1 f.sc)) else none
  | 0x2#3 => if f.qb = 0#4 ∧ f.qa = 0#4 ∧ f.la = 0#4 then do some (.rtinv (← Reg.ofCode 0 f.res) (← Reg.ofCode l1 f.sc)) else none
  | 0x3#3 => if f.qb = 0#4 ∧ f.qa = 0#4 ∧ f.la = 0#4 then do some (.rtstat (← Reg.ofCode 0 f.res) (← Reg.ofCode l1 f.sc)) else none
  | _ => none

/-- Major 0x3C: COLL, COLLW, COLLST, MBPUT, MBGET. -/
noncomputable def decode3C (f : FormatE) (l1 : Word32) : Option Instr :=
  match f.minor with
  | 0x0#3 => if f.qb = 0#4 ∧ f.qa = 0#4 ∧ f.la = 0#4 then do some (.coll (← Reg.ofCode 0 f.res) (← Reg.ofCode l1 f.sc)) else none
  | 0x1#3 => if f.qb = 0#4 ∧ f.qa = 0#4 ∧ f.la = 0#4 ∧ f.res = 12#5 then do some (.collw (← Reg.ofCode l1 f.sc)) else none
  | 0x2#3 => if f.qb = 0#4 ∧ f.qa = 0#4 ∧ f.la = 0#4 then do some (.collst (← Reg.ofCode 0 f.res) (← Reg.ofCode l1 f.sc)) else none
  | 0x3#3 => if f.qb = 0#4 ∧ f.qa = 0#4 ∧ f.la = 0#4 then do some (.mbput (← predOf f.res) (← Reg.ofCode l1 f.sc)) else none
  | 0x4#3 => if f.qb = 0#4 ∧ f.qa = 0#4 ∧ f.la = 0#4 then do some (.mbget (← Reg.ofCode 0 f.res) (← Reg.ofCode l1 f.sc)) else none
  | _ => none

/-- The major opcode, bits [6:1] (R52). -/
def majorOf (w : Word32) : BitVec 6 := w.extractLsb' 1 6

/-- The instruction whose 32-bit word is `w`, before the checks of positions, halves and values; `l1` and `l2` are the
words that follow it (R28, R52). -/
noncomputable def rawDecode (w l1 l2 : Word32) : Option Instr :=
  match majorOf w with
  | 0x00#6 => decode00 (FormatA.of w) l1 l2
  | 0x01#6 => decode01 (FormatA.of w) l1 l2
  | 0x02#6 => decode02 (FormatA.of w) l1 l2
  | 0x03#6 => decode03 (FormatA.of w) l1 l2
  | 0x04#6 => decode04 (FormatA.of w) l1 l2
  | 0x05#6 => decode05 (FormatA.of w) l1 l2
  | 0x06#6 => decode06 (FormatS.of w) l1
  | 0x08#6 => decode08 (FormatI.of w) l1
  | 0x09#6 => decode09 (FormatI.of w) l1
  | 0x0A#6 => decode0A (FormatI.of w) l1
  | 0x0B#6 => decode0B (FormatI.of w) l1
  | 0x0C#6 => decode0C (FormatSH.of w) l1
  | 0x0D#6 => decode0D (FormatCI.of w) l1
  | 0x0E#6 => decode0E (FormatLI.of w)
  | 0x10#6 => decode10 (FormatB.of w)
  | 0x11#6 => decode11 (FormatB.of w)
  | 0x12#6 => decode12 (FormatI.of w)
  | 0x13#6 => decode13 (FormatI.of w)
  | 0x14#6 => decode14 (FormatA.of w) l1
  | 0x15#6 => decode15 (FormatA.of w)
  | 0x16#6 => decode16 (FormatA.of w)
  | 0x18#6 => decode18 (FormatM.of w)
  | 0x19#6 => decode19 (FormatM.of w)
  | 0x1A#6 => decode1A (FormatM.of w)
  | 0x1B#6 => decode1B (FormatM.of w)
  | 0x1C#6 => decode1C (FormatM.of w)
  | 0x1D#6 => decode1D (FormatE.of w) l1
  | 0x1E#6 => decode1E (FormatM.of w)
  | 0x20#6 => decode20 (FormatQ.of w) l1
  | 0x21#6 => decode21 (FormatQ.of w) l1
  | 0x22#6 => decode22 (FormatQ.of w)
  | 0x28#6 => decode28 (FormatV.of w)
  | 0x29#6 => decode29 (FormatV.of w)
  | 0x2A#6 => decode2A (FormatV.of w)
  | 0x2B#6 => decode2B (FormatV.of w)
  | 0x2C#6 => decode2C (FormatV.of w)
  | 0x2D#6 => decode2D (FormatVM.of w)
  | 0x2E#6 => decode2E (FormatV.of w)
  | 0x30#6 => decode30 (FormatMX.of w)
  | 0x31#6 => decode31 (FormatMX.of w)
  | 0x32#6 => decode32 (FormatMX.of w)
  | 0x33#6 => decode33 (FormatE.of w) l1
  | 0x38#6 => decode38 (FormatE.of w) l1
  | 0x39#6 => decode39 (FormatE.of w) l1
  | 0x3A#6 => decode3A (FormatE.of w) l1
  | 0x3B#6 => decode3B (FormatE.of w) l1
  | 0x3C#6 => decode3C (FormatE.of w) l1
  | _ => none

/-- Code 14 in S1 of major 0x14 raises QueueMisuse for every instruction of the major, when nothing else in the word is
wrong (R90). (DEDUCED, log 81.) -/
def sysQueueMisuse (w : Word32) : Bool :=
  let f := FormatA.of w
  f.major == 0x14#6 && f.minor.toNat < 8 && f.d == 12#5 && f.s2 == 12#5 && f.s1 == 14#5 && !(f.n && f.g == 0#4)

/-- Steps 1 to 6 of R54 for a 32-bit word. (DESIGN CHOICE, log 5.) -/
noncomputable def decodeWord (w l1 l2 : Word32) : Decoded :=
  match rawDecode w l1 l2 with
  | some i =>
    match i.check with
    | .legal => .ok i
    | .illegal => .illegal
    | .misuse => .misuse
  | none => if sysQueueMisuse w then .misuse else .illegal

/-- The 16-bit form of an instruction (R45, R46). -/
def decodeShort (h : Half16) : Decoded :=
  if h = 0#16 then .illegal
  else
    let f := Format16.of h
    match f.op with
    | 0x0#4 => .ok (.vaddShort f.k f.vd f.vs)
    | 0x1#4 => .ok (.vsubShort f.k f.vd f.vs)
    | 0x2#4 => .ok (.vmulShort f.k f.vd f.vs)
    | 0x3#4 => .ok (.vminShort f.k f.vd f.vs)
    | 0x4#4 => .ok (.vmaxShort f.k f.vd f.vs)
    | 0x5#4 => .ok (.vandShort f.k f.vd f.vs)
    | 0x6#4 => .ok (.vorShort f.k f.vd f.vs)
    | 0x7#4 => .ok (.vxorShort f.k f.vd f.vs)
    | 0x8#4 => .ok (.vmovShort f.k f.vd f.vs)
    | 0x9#4 => .ok (.vnegShort f.k f.vd f.vs)
    | 0xA#4 => .ok (.vabsShort f.k f.vd f.vs)
    | 0xB#4 => .ok (.vrcpShort f.k f.vd f.vs)
    | 0xC#4 => .ok (.vselShort f.k f.vd f.vs)
    | 0xD#4 => .ok (.vexp2Short f.k f.vd f.vs)
    | 0xE#4 => .ok (.vrsqShort f.k f.vd f.vs)
    | _ => .ok (.vnotShort f.k f.vd f.vs)

/-- The halfwords and words of a list of bytes, zero past its end (R3). -/
def byteAt (bs : List Byte) (n : Nat) : Byte := bs.getD n 0#8
def halfAt (bs : List Byte) (n : Nat) : Half16 := byteAt bs (n + 1) ++ byteAt bs n
def wordAt (bs : List Byte) (n : Nat) : Word32 := halfAt bs (n + 2) ++ halfAt bs n

/-- The decoder over bytes, the lowest address first: total on any bytes. -/
noncomputable def decode (bs : List Byte) : Decoded :=
  if (byteAt bs 0).getLsbD 0 then decodeWord (wordAt bs 0) (wordAt bs 4) (wordAt bs 8)
  else decodeShort (halfAt bs 0)

/-- The 32-bit word of an instruction (0 for the forms that have none). -/
def Instr.word : Instr → Word32
  | .add g d s1 s2 => FormatA.word ⟨g.neg, g.p, 0x0#5, s2.code, s1.code, d.code, 0x00#6⟩
  | .sub g d s1 s2 => FormatA.word ⟨g.neg, g.p, 0x1#5, s2.code, s1.code, d.code, 0x00#6⟩
  | .and g d s1 s2 => FormatA.word ⟨g.neg, g.p, 0x2#5, s2.code, s1.code, d.code, 0x00#6⟩
  | .or g d s1 s2 => FormatA.word ⟨g.neg, g.p, 0x3#5, s2.code, s1.code, d.code, 0x00#6⟩
  | .xor g d s1 s2 => FormatA.word ⟨g.neg, g.p, 0x4#5, s2.code, s1.code, d.code, 0x00#6⟩
  | .andn g d s1 s2 => FormatA.word ⟨g.neg, g.p, 0x5#5, s2.code, s1.code, d.code, 0x00#6⟩
  | .orn g d s1 s2 => FormatA.word ⟨g.neg, g.p, 0x6#5, s2.code, s1.code, d.code, 0x00#6⟩
  | .shl g d s1 s2 => FormatA.word ⟨g.neg, g.p, 0x7#5, s2.code, s1.code, d.code, 0x00#6⟩
  | .shr g d s1 s2 => FormatA.word ⟨g.neg, g.p, 0x8#5, s2.code, s1.code, d.code, 0x00#6⟩
  | .sar g d s1 s2 => FormatA.word ⟨g.neg, g.p, 0x9#5, s2.code, s1.code, d.code, 0x00#6⟩
  | .ror g d s1 s2 => FormatA.word ⟨g.neg, g.p, 0xA#5, s2.code, s1.code, d.code, 0x00#6⟩
  | .addsc2 g d s1 s2 => FormatA.word ⟨g.neg, g.p, 0xB#5, s2.code, s1.code, d.code, 0x00#6⟩
  | .addsc4 g d s1 s2 => FormatA.word ⟨g.neg, g.p, 0xC#5, s2.code, s1.code, d.code, 0x00#6⟩
  | .addsc8 g d s1 s2 => FormatA.word ⟨g.neg, g.p, 0xD#5, s2.code, s1.code, d.code, 0x00#6⟩
  | .addsc16 g d s1 s2 => FormatA.word ⟨g.neg, g.p, 0xE#5, s2.code, s1.code, d.code, 0x00#6⟩
  | .sel g d s1 s2 => FormatA.word ⟨g.neg, g.p, 0xF#5, s2.code, s1.code, d.code, 0x00#6⟩
  | .mul g d s1 s2 => FormatA.word ⟨g.neg, g.p, 0x0#5, s2.code, s1.code, d.code, 0x01#6⟩
  | .mulh g d s1 s2 => FormatA.word ⟨g.neg, g.p, 0x1#5, s2.code, s1.code, d.code, 0x01#6⟩
  | .mulhu g d s1 s2 => FormatA.word ⟨g.neg, g.p, 0x2#5, s2.code, s1.code, d.code, 0x01#6⟩
  | .div g d s1 s2 => FormatA.word ⟨g.neg, g.p, 0x3#5, s2.code, s1.code, d.code, 0x01#6⟩
  | .divu g d s1 s2 => FormatA.word ⟨g.neg, g.p, 0x4#5, s2.code, s1.code, d.code, 0x01#6⟩
  | .rem g d s1 s2 => FormatA.word ⟨g.neg, g.p, 0x5#5, s2.code, s1.code, d.code, 0x01#6⟩
  | .remu g d s1 s2 => FormatA.word ⟨g.neg, g.p, 0x6#5, s2.code, s1.code, d.code, 0x01#6⟩
  | .min g d s1 s2 => FormatA.word ⟨g.neg, g.p, 0x7#5, s2.code, s1.code, d.code, 0x01#6⟩
  | .max g d s1 s2 => FormatA.word ⟨g.neg, g.p, 0x8#5, s2.code, s1.code, d.code, 0x01#6⟩
  | .minu g d s1 s2 => FormatA.word ⟨g.neg, g.p, 0x9#5, s2.code, s1.code, d.code, 0x01#6⟩
  | .maxu g d s1 s2 => FormatA.word ⟨g.neg, g.p, 0xA#5, s2.code, s1.code, d.code, 0x01#6⟩
  | .clz g d s1 => FormatA.word ⟨g.neg, g.p, 0x0#5, 12#5, s1.code, d.code, 0x02#6⟩
  | .ctz g d s1 => FormatA.word ⟨g.neg, g.p, 0x1#5, 12#5, s1.code, d.code, 0x02#6⟩
  | .popc g d s1 => FormatA.word ⟨g.neg, g.p, 0x2#5, 12#5, s1.code, d.code, 0x02#6⟩
  | .brev g d s1 => FormatA.word ⟨g.neg, g.p, 0x3#5, 12#5, s1.code, d.code, 0x02#6⟩
  | .bswap g d s1 => FormatA.word ⟨g.neg, g.p, 0x4#5, 12#5, s1.code, d.code, 0x02#6⟩
  | .sext g d s1 s2 => FormatA.word ⟨g.neg, g.p, 0x5#5, s2.code, s1.code, d.code, 0x02#6⟩
  | .zext g d s1 s2 => FormatA.word ⟨g.neg, g.p, 0x6#5, s2.code, s1.code, d.code, 0x02#6⟩
  | .bext g d s1 s2 => FormatA.word ⟨g.neg, g.p, 0x7#5, s2.code, s1.code, d.code, 0x02#6⟩
  | .bins g d s1 s2 => FormatA.word ⟨g.neg, g.p, 0x8#5, s2.code, s1.code, d.code, 0x02#6⟩
  | .bset g d s1 s2 => FormatA.word ⟨g.neg, g.p, 0x9#5, s2.code, s1.code, d.code, 0x02#6⟩
  | .bclr g d s1 s2 => FormatA.word ⟨g.neg, g.p, 0xA#5, s2.code, s1.code, d.code, 0x02#6⟩
  | .btst g pd s1 s2 => FormatA.word ⟨g.neg, g.p, 0xB#5, s2.code, s1.code, predField pd, 0x02#6⟩
  | .cmp g cc pd s1 s2 => FormatA.word ⟨g.neg, g.p, 0#1 ++ cc, s2.code, s1.code, predField pd, 0x03#6⟩
  | .plog g op pd pa pb => FormatA.word ⟨g.neg, g.p, 2#2 ++ op, predField pb, predField pa, predField pd, 0x03#6⟩
  | .pget g d => FormatA.word ⟨g.neg, g.p, 0x18#5, 12#5, 12#5, d.code, 0x03#6⟩
  | .pput g s1 s2 => FormatA.word ⟨g.neg, g.p, 0x19#5, s2.code, s1.code, 12#5, 0x03#6⟩
  | .fadd g dbl d s1 s2 => FormatA.word ⟨g.neg, g.p, 0#4 ++ BitVec.ofBool dbl, s2.code, s1.code, d.code, 0x04#6⟩
  | .fsub g dbl d s1 s2 => FormatA.word ⟨g.neg, g.p, 1#4 ++ BitVec.ofBool dbl, s2.code, s1.code, d.code, 0x04#6⟩
  | .fmul g dbl d s1 s2 => FormatA.word ⟨g.neg, g.p, 2#4 ++ BitVec.ofBool dbl, s2.code, s1.code, d.code, 0x04#6⟩
  | .ffma g dbl d s1 s2 => FormatA.word ⟨g.neg, g.p, 3#4 ++ BitVec.ofBool dbl, s2.code, s1.code, d.code, 0x04#6⟩
  | .fdiv g dbl d s1 s2 => FormatA.word ⟨g.neg, g.p, 4#4 ++ BitVec.ofBool dbl, s2.code, s1.code, d.code, 0x04#6⟩
  | .fsqrt g dbl d s1 => FormatA.word ⟨g.neg, g.p, 5#4 ++ BitVec.ofBool dbl, 12#5, s1.code, d.code, 0x04#6⟩
  | .fmin g dbl d s1 s2 => FormatA.word ⟨g.neg, g.p, 6#4 ++ BitVec.ofBool dbl, s2.code, s1.code, d.code, 0x04#6⟩
  | .fmax g dbl d s1 s2 => FormatA.word ⟨g.neg, g.p, 7#4 ++ BitVec.ofBool dbl, s2.code, s1.code, d.code, 0x04#6⟩
  | .fcmpEq g dbl pd s1 s2 => FormatA.word ⟨g.neg, g.p, 8#4 ++ BitVec.ofBool dbl, s2.code, s1.code, predField pd, 0x04#6⟩
  | .fcmpLt g dbl pd s1 s2 => FormatA.word ⟨g.neg, g.p, 9#4 ++ BitVec.ofBool dbl, s2.code, s1.code, predField pd, 0x04#6⟩
  | .fcmpLe g dbl pd s1 s2 => FormatA.word ⟨g.neg, g.p, 10#4 ++ BitVec.ofBool dbl, s2.code, s1.code, predField pd, 0x04#6⟩
  | .fcmpUn g dbl pd s1 s2 => FormatA.word ⟨g.neg, g.p, 11#4 ++ BitVec.ofBool dbl, s2.code, s1.code, predField pd, 0x04#6⟩
  | .fcvt g dbl rm kind d s1 => FormatA.word ⟨g.neg, g.p, 12#4 ++ BitVec.ofBool dbl, rm ++ kind, s1.code, d.code, 0x04#6⟩
  | .fclass g dbl d s1 => FormatA.word ⟨g.neg, g.p, 13#4 ++ BitVec.ofBool dbl, 0#5, s1.code, d.code, 0x04#6⟩
  | .hpack g d s1 s2 => FormatA.word ⟨g.neg, g.p, 0x0#5, s2.code, s1.code, d.code, 0x05#6⟩
  | .hparse g d s1 s2 => FormatA.word ⟨g.neg, g.p, 0x1#5, s2.code, s1.code, d.code, 0x05#6⟩
  | .hlayout g d s1 s2 => FormatA.word ⟨g.neg, g.p, 0x2#5, s2.code, s1.code, d.code, 0x05#6⟩
  | .sysrd d n => FormatS.word ⟨0#2, false, n, 12#5, d.code, 0x06#6⟩
  | .syswr n s1 => FormatS.word ⟨0#2, true, n, s1.code, 12#5, 0x06#6⟩
  | .addi d s1 imm => FormatI.word ⟨imm, s1.code, d.code, 0x08#6⟩
  | .andi d s1 imm => FormatI.word ⟨imm, s1.code, d.code, 0x09#6⟩
  | .ori d s1 imm => FormatI.word ⟨imm, s1.code, d.code, 0x0A#6⟩
  | .xori d s1 imm => FormatI.word ⟨imm, s1.code, d.code, 0x0B#6⟩
  | .shli d s1 amt => FormatSH.word ⟨0#3, 0#2, 0#4, amt, s1.code, d.code, 0x0C#6⟩
  | .shri d s1 amt => FormatSH.word ⟨0#3, 1#2, 0#4, amt, s1.code, d.code, 0x0C#6⟩
  | .sari d s1 amt => FormatSH.word ⟨0#3, 2#2, 0#4, amt, s1.code, d.code, 0x0C#6⟩
  | .rori d s1 amt => FormatSH.word ⟨0#3, 3#2, 0#4, amt, s1.code, d.code, 0x0C#6⟩
  | .cmpi cc pd s1 imm => FormatCI.word ⟨imm, cc, s1.code, predField pd, 0x0D#6⟩
  | .lih d imm => FormatLI.word ⟨imm, d.code, 0x0E#6⟩
  | .br neg p off => FormatB.word ⟨off, BitVec.ofBool neg ++ p, 0x10#6⟩
  | .jal d off => FormatB.word ⟨off, d.code, 0x11#6⟩
  | .jalr d s1 imm => FormatI.word ⟨imm, s1.code, d.code, 0x12#6⟩
  | .switch s1 n => FormatI.word ⟨n, s1.code, 12#5, 0x13#6⟩
  | .nop g => FormatA.word ⟨g.neg, g.p, 0x0#5, 12#5, 12#5, 12#5, 0x14#6⟩
  | .trap g s1 => FormatA.word ⟨g.neg, g.p, 0x1#5, 12#5, s1.code, 12#5, 0x14#6⟩
  | .eret g => FormatA.word ⟨g.neg, g.p, 0x2#5, 12#5, 12#5, 12#5, 0x14#6⟩
  | .fence g => FormatA.word ⟨g.neg, g.p, 0x3#5, 12#5, 12#5, 12#5, 0x14#6⟩
  | .fenceD g => FormatA.word ⟨g.neg, g.p, 0x4#5, 12#5, 12#5, 12#5, 0x14#6⟩
  | .yield g => FormatA.word ⟨g.neg, g.p, 0x5#5, 12#5, 12#5, 12#5, 0x14#6⟩
  | .exit g => FormatA.word ⟨g.neg, g.p, 0x6#5, 12#5, 12#5, 12#5, 0x14#6⟩
  | .brk g s1 => FormatA.word ⟨g.neg, g.p, 0x7#5, 12#5, s1.code, 12#5, 0x14#6⟩
  | .iter g d pd => FormatA.word ⟨g.neg, g.p, 0x0#5, predField pd, 12#5, d.code, 0x15#6⟩
  | .iterS g d pd => FormatA.word ⟨g.neg, g.p, 0x1#5, predField pd, 12#5, d.code, 0x15#6⟩
  | .iterq g d which => FormatA.word ⟨g.neg, g.p, 0x2#5, which, 12#5, d.code, 0x15#6⟩
  | .iterx g d => FormatA.word ⟨g.neg, g.p, 0x3#5, 12#5, 12#5, d.code, 0x15#6⟩
  | .bar g d m => FormatA.word ⟨g.neg, g.p, 0x0#5, m, 12#5, d.code, 0x16#6⟩
  | .bara g d m => FormatA.word ⟨g.neg, g.p, 0x1#5, m, 12#5, d.code, 0x16#6⟩
  | .barw g d s1 m => FormatA.word ⟨g.neg, g.p, 0x2#5, m, s1.code, d.code, 0x16#6⟩
  | .bart g pd s1 m => FormatA.word ⟨g.neg, g.p, 0x3#5, m, s1.code, predField pd, 0x16#6⟩
  | .bars g d m => FormatA.word ⟨g.neg, g.p, 0x4#5, m, 12#5, d.code, 0x16#6⟩
  | .ld op la x base off => FormatM.word ⟨off, op, la, base.code, x.code, 0x18#6⟩
  | .st op la x base off => FormatM.word ⟨off, 0#1 ++ op, la, base.code, x.code, 0x19#6⟩
  | .ldf dbl la x base off => FormatM.word ⟨off, 0#2 ++ BitVec.ofBool dbl, la, base.code, x.code, 0x1A#6⟩
  | .lde dbl la x base off => FormatM.word ⟨off, 1#2 ++ BitVec.ofBool dbl, la, base.code, x.code, 0x1A#6⟩
  | .stf dbl la x base off => FormatM.word ⟨off, 2#2 ++ BitVec.ofBool dbl, la, base.code, x.code, 0x1A#6⟩
  | .stw dbl la x base off => FormatM.word ⟨off, 3#2 ++ BitVec.ofBool dbl, la, base.code, x.code, 0x1A#6⟩
  | .amo dbl op la x base off => FormatM.word ⟨BitVec.ofBool dbl ++ off, op, la, base.code, x.code, 0x1B#6⟩
  | .cas dbl la x base off => FormatM.word ⟨BitVec.ofBool dbl ++ off, 0#3, la, base.code, x.code, 0x1C#6⟩
  | .send la y c => FormatE.word ⟨0x0#3, 0#4, 0#4, la, c.code, y.code, 0x1D#6⟩
  | .cont x s1 => FormatE.word ⟨0x1#3, 0#4, 0#4, 0#4, s1.code, x.code, 0x1D#6⟩
  | .waitr x s1 => FormatE.word ⟨0x2#3, 0#4, 0#4, 0#4, s1.code, x.code, 0x1D#6⟩
  | .pref base off => FormatM.word ⟨off, 0#3, 0#4, base.code, 12#5, 0x1E#6⟩
  | .feset la base off => FormatM.word ⟨off, 1#3, la, base.code, 12#5, 0x1E#6⟩
  | .feclr la base off => FormatM.word ⟨off, 2#3, la, base.code, 12#5, 0x1E#6⟩
  | .fetest la pd base off => FormatM.word ⟨off, 3#3, la, base.code, predField pd, 0x1E#6⟩
  | .quni qd qa qb => FormatQ.word ⟨0#3, 0x0#5, 12#5, qb, qa, qd, 0x20#6⟩
  | .qint qd qa qb => FormatQ.word ⟨0#3, 0x1#5, 12#5, qb, qa, qd, 0x20#6⟩
  | .qsub qd qa qb => FormatQ.word ⟨0#3, 0x2#5, 12#5, qb, qa, qd, 0x20#6⟩
  | .qdil which qd qa v => FormatQ.word ⟨which, 0x3#5, v.code, 0#4, qa, qd, 0x20#6⟩
  | .qshf which qd qa v => FormatQ.word ⟨which, 0x4#5, v.code, 0#4, qa, qd, 0x20#6⟩
  | .qprj which qd qa v => FormatQ.word ⟨which, 0x5#5, v.code, 0#4, qa, qd, 0x20#6⟩
  | .qclip qd qa => FormatQ.word ⟨0#3, 0x6#5, 12#5, 0#4, qa, qd, 0x20#6⟩
  | .qspl which qd qa v => FormatQ.word ⟨which, 0x7#5, v.code, 0#4, qa, qd, 0x20#6⟩
  | .qhull qd qa => FormatQ.word ⟨0#3, 0x8#5, 12#5, 0#4, qa, qd, 0x20#6⟩
  | .qbox which qd qa v => FormatQ.word ⟨which, 0x0#5, v.code, 0#4, qa, qd, 0x21#6⟩
  | .qstr qd v => FormatQ.word ⟨0#3, 0x1#5, v.code, 0#4, 0#4, qd, 0x21#6⟩
  | .qrag qd qa v => FormatQ.word ⟨0#3, 0x2#5, v.code, 0#4, qa, qd, 0x21#6⟩
  | .qld qd v => FormatQ.word ⟨0#3, 0x3#5, v.code, 0#4, 0#4, qd, 0x21#6⟩
  | .qst qa v => FormatQ.word ⟨0#3, 0x4#5, v.code, 0#4, qa, 0#4, 0x21#6⟩
  | .qclr qd => FormatQ.word ⟨0#3, 0x5#5, 12#5, 0#4, 0#4, qd, 0x21#6⟩
  | .qmov qd qa => FormatQ.word ⟨0#3, 0x6#5, 12#5, 0#4, qa, qd, 0x21#6⟩
  | .qsize x qa => FormatQ.word ⟨0#3, 0x0#5, x.code, 0#4, qa, 0#4, 0x22#6⟩
  | .qcnt which x qa => FormatQ.word ⟨which, 0x1#5, x.code, 0#4, qa, 0#4, 0x22#6⟩
  | .qget which x qa b => FormatQ.word ⟨which, 0x2#5, x.code, b, qa, 0#4, 0x22#6⟩
  | .qeq pd qa qb => FormatQ.word ⟨0#3, 0x3#5, 12#5, qb, qa, pd, 0x22#6⟩
  | .qle pd qa qb => FormatQ.word ⟨0#3, 0x4#5, 12#5, qb, qa, pd, 0x22#6⟩
  | .qemp pd qa => FormatQ.word ⟨0#3, 0x5#5, 12#5, 0#4, qa, pd, 0x22#6⟩
  | .qovf pd qa => FormatQ.word ⟨0#3, 0x6#5, 12#5, 0#4, qa, pd, 0x22#6⟩
  | .vadd z k vd va vb => FormatV.word ⟨0#4, 0x0#5, z, k, vb, va, vd, 0x28#6⟩
  | .vsub z k vd va vb => FormatV.word ⟨0#4, 0x1#5, z, k, vb, va, vd, 0x28#6⟩
  | .vmul z k vd va vb => FormatV.word ⟨0#4, 0x2#5, z, k, vb, va, vd, 0x28#6⟩
  | .vmin z k vd va vb => FormatV.word ⟨0#4, 0x3#5, z, k, vb, va, vd, 0x28#6⟩
  | .vmax z k vd va vb => FormatV.word ⟨0#4, 0x4#5, z, k, vb, va, vd, 0x28#6⟩
  | .vabs z k vd va => FormatV.word ⟨0#4, 0x5#5, z, k, 0#4, va, vd, 0x28#6⟩
  | .vneg z k vd va => FormatV.word ⟨0#4, 0x6#5, z, k, 0#4, va, vd, 0x28#6⟩
  | .vand z k vd va vb => FormatV.word ⟨0#4, 0x7#5, z, k, vb, va, vd, 0x28#6⟩
  | .vor z k vd va vb => FormatV.word ⟨0#4, 0x8#5, z, k, vb, va, vd, 0x28#6⟩
  | .vxor z k vd va vb => FormatV.word ⟨0#4, 0x9#5, z, k, vb, va, vd, 0x28#6⟩
  | .vnot z k vd va => FormatV.word ⟨0#4, 0xA#5, z, k, 0#4, va, vd, 0x28#6⟩
  | .vshl z k vd va vb => FormatV.word ⟨0#4, 0xB#5, z, k, vb, va, vd, 0x28#6⟩
  | .vshr z k vd va vb => FormatV.word ⟨0#4, 0xC#5, z, k, vb, va, vd, 0x28#6⟩
  | .vsar z k vd va vb => FormatV.word ⟨0#4, 0xD#5, z, k, vb, va, vd, 0x28#6⟩
  | .vmov z k vd va => FormatV.word ⟨0#4, 0xE#5, z, k, 0#4, va, vd, 0x28#6⟩
  | .vsel k vd va vb => FormatV.word ⟨0#4, 0xF#5, false, k, vb, va, vd, 0x28#6⟩
  | .vcmp z k cc kd va vb => FormatV.word ⟨cc, 0x10#5, z, k, vb, va, kd, 0x28#6⟩
  | .vbcst z k ts vd dn => FormatV.word ⟨ts, 0x11#5, z, k, 0#4, dn, vd, 0x28#6⟩
  | .vextr dx va dn => FormatV.word ⟨0#4, 0x12#5, false, 0#3, dn, va, dx, 0x28#6⟩
  | .vfma z k vd va vb vc => FormatV.word ⟨vc, 0x0#5, z, k, vb, va, vd, 0x29#6⟩
  | .vfms z k vd va vb vc => FormatV.word ⟨vc, 0x1#5, z, k, vb, va, vd, 0x29#6⟩
  | .vfnma z k vd va vb vc => FormatV.word ⟨vc, 0x2#5, z, k, vb, va, vd, 0x29#6⟩
  | .vdot4 z k vd va vb vc => FormatV.word ⟨vc, 0x3#5, z, k, vb, va, vd, 0x29#6⟩
  | .vrcp z k vd va => FormatV.word ⟨0#4, 0x0#5, z, k, 0#4, va, vd, 0x2A#6⟩
  | .vrsq z k vd va => FormatV.word ⟨0#4, 0x1#5, z, k, 0#4, va, vd, 0x2A#6⟩
  | .vsqrt z k vd va => FormatV.word ⟨0#4, 0x2#5, z, k, 0#4, va, vd, 0x2A#6⟩
  | .vdiv z k vd va vb => FormatV.word ⟨0#4, 0x3#5, z, k, vb, va, vd, 0x2A#6⟩
  | .vexp2 z k vd va => FormatV.word ⟨0#4, 0x4#5, z, k, 0#4, va, vd, 0x2A#6⟩
  | .vlog2 z k vd va => FormatV.word ⟨0#4, 0x5#5, z, k, 0#4, va, vd, 0x2A#6⟩
  | .vtanh z k vd va => FormatV.word ⟨0#4, 0x6#5, z, k, 0#4, va, vd, 0x2A#6⟩
  | .vcvt z k rm sat part vd va => FormatV.word ⟨low2Field rm, 0x0#5, z, k, 0#1 ++ BitVec.ofBool sat ++ part, va, vd, 0x2B#6⟩
  | .vtag t vd va => FormatV.word ⟨low2Field (t.extractLsb' 4 2), 0x1#5, false, 0#3, t.extractLsb' 0 4, va, vd, 0x2B#6⟩
  | .vqnt rm part vd va vs => FormatV.word ⟨vs, 0x2#5, false, 0#3, rm ++ part, va, vd, 0x2B#6⟩
  | .vdqnt part vd va vs => FormatV.word ⟨vs, 0x3#5, false, 0#3, low2Field part, va, vd, 0x2B#6⟩
  | .vred k op vd va => FormatV.word ⟨op, 0x0#5, false, k, 0#4, va, vd, 0x2C#6⟩
  | .vscan z k ex op vd va => FormatV.word ⟨BitVec.ofBool ex ++ op, 0x1#5, z, k, 0#4, va, vd, 0x2C#6⟩
  | .vperm z k vd va vb => FormatV.word ⟨0#4, 0x2#5, z, k, vb, va, vd, 0x2C#6⟩
  | .vslide z k vd va dn => FormatV.word ⟨0#4, 0x3#5, z, k, dn, va, vd, 0x2C#6⟩
  | .vzip z k part vd va vb => FormatV.word ⟨low1Field part, 0x4#5, z, k, vb, va, vd, 0x2C#6⟩
  | .vunz z k part vd va vb => FormatV.word ⟨low1Field part, 0x5#5, z, k, vb, va, vd, 0x2C#6⟩
  | .viota k vd => FormatV.word ⟨0#4, 0x6#5, false, k, 0#4, 0#4, vd, 0x2C#6⟩
  | .vcomp k vd va => FormatV.word ⟨0#4, 0x7#5, false, k, 0#4, va, vd, 0x2C#6⟩
  | .vld ts k la vd base => FormatVM.word ⟨ts, 0x0#5, k, la, base.code, vd, 0x2D#6⟩
  | .vst k la vd base => FormatVM.word ⟨0#4, 0x1#5, k, la, base.code, vd, 0x2D#6⟩
  | .vlds ix k la vd base => FormatVM.word ⟨ix, 0x2#5, k, la, base.code, vd, 0x2D#6⟩
  | .vsts ix k la vd base => FormatVM.word ⟨ix, 0x3#5, k, la, base.code, vd, 0x2D#6⟩
  | .vldx ix k la vd base => FormatVM.word ⟨ix, 0x4#5, k, la, base.code, vd, 0x2D#6⟩
  | .vstx ix k la vd base => FormatVM.word ⟨ix, 0x5#5, k, la, base.code, vd, 0x2D#6⟩
  | .vldl k la vd base => FormatVM.word ⟨0#4, 0x6#5, k, la, base.code, vd, 0x2D#6⟩
  | .vstl k la vd base => FormatVM.word ⟨0#4, 0x7#5, k, la, base.code, vd, 0x2D#6⟩
  | .vclaim n dx => FormatV.word ⟨n, 0x0#5, false, 0#3, 0#4, 0#4, dx, 0x2E#6⟩
  | .vrel => FormatV.word ⟨0#4, 0x1#5, false, 0#3, 0#4, 0#4, 0#4, 0x2E#6⟩
  | .vwid dx => FormatV.word ⟨0#4, 0x2#5, false, 0#3, 0#4, 0#4, dx, 0x2E#6⟩
  | .kand kd ka kb => FormatV.word ⟨0#4, 0x3#5, false, 0#3, kb, ka, kd, 0x2E#6⟩
  | .kor kd ka kb => FormatV.word ⟨0#4, 0x4#5, false, 0#3, kb, ka, kd, 0x2E#6⟩
  | .kxor kd ka kb => FormatV.word ⟨0#4, 0x5#5, false, 0#3, kb, ka, kd, 0x2E#6⟩
  | .knot kd ka => FormatV.word ⟨0#4, 0x6#5, false, 0#3, 0#4, ka, kd, 0x2E#6⟩
  | .kmov kd ka => FormatV.word ⟨0#4, 0x7#5, false, 0#3, 0#4, ka, kd, 0x2E#6⟩
  | .kpop dx ka => FormatV.word ⟨0#4, 0x8#5, false, 0#3, 0#4, ka, dx, 0x2E#6⟩
  | .kfirst dx ka => FormatV.word ⟨0#4, 0x9#5, false, 0#3, 0#4, ka, dx, 0x2E#6⟩
  | .mma h zi la qa z => FormatMX.word ⟨h, 0x0#4, low1Field zi, la, qa, tileField z, 0x30#6⟩
  | .mmas h zi la qa z => FormatMX.word ⟨h, 0x1#4, low1Field zi, la, qa, tileField z, 0x30#6⟩
  | .mmar h zi la qa z => FormatMX.word ⟨h, 0x2#4, low1Field zi, la, qa, tileField z, 0x30#6⟩
  | .zclaim pd z => FormatMX.word ⟨0#4, 0x0#4, pd, 0#4, 0#4, tileField z, 0x31#6⟩
  | .zrel z => FormatMX.word ⟨0#4, 0x1#4, 0#4, 0#4, 0#4, tileField z, 0x31#6⟩
  | .zzero z => FormatMX.word ⟨0#4, 0x2#4, 0#4, 0#4, 0#4, tileField z, 0x31#6⟩
  | .zld int qa z => FormatMX.word ⟨low1Field int, 0x3#4, 0#4, 0#4, qa, tileField z, 0x31#6⟩
  | .zst qa z => FormatMX.word ⟨0#4, 0x4#4, 0#4, 0#4, qa, tileField z, 0x31#6⟩
  | .bld c la qa => FormatMX.word ⟨low1Field c, 0x0#4, 0#4, la, qa, 0#5, 0x32#6⟩
  | .brot h la => FormatMX.word ⟨h, 0x1#4, 0#4, la, 0#4, 0#5, 0x32#6⟩
  | .bmeta la qa => FormatMX.word ⟨0#4, 0x2#4, 0#4, la, qa, 0#5, 0x32#6⟩
  | .jwait h => FormatE.word ⟨0x0#3, 0#4, 0#4, 0#4, h.code, 12#5, 0x33#6⟩
  | .jpoll pd h => FormatE.word ⟨0x1#3, 0#4, 0#4, 0#4, h.code, predField pd, 0x33#6⟩
  | .jstat x h => FormatE.word ⟨0x2#3, 0#4, 0#4, 0#4, h.code, x.code, 0x33#6⟩
  | .cpy pd qd qs c => FormatE.word ⟨0x0#3, qs, qd, 0#4, c.code, predField pd, 0x38#6⟩
  | .cpyg pd qd qs c => FormatE.word ⟨0x1#3, qs, qd, 0#4, c.code, predField pd, 0x38#6⟩
  | .cpys pd qd qs c => FormatE.word ⟨0x2#3, qs, qd, 0#4, c.code, predField pd, 0x38#6⟩
  | .halo pd qd qs c => FormatE.word ⟨0x3#3, qs, qd, 0#4, c.code, predField pd, 0x38#6⟩
  | .cfill pd qd v => FormatE.word ⟨0x4#3, 0#4, qd, 0#4, v.code, predField pd, 0x38#6⟩
  | .qwait qa aw => FormatE.word ⟨0x5#3, 0#4, qa, 0#4, aw.code, 12#5, 0x38#6⟩
  | .cseal x => FormatE.word ⟨0x0#3, 0#4, 0#4, 0#4, 12#5, x.code, 0x39#6⟩
  | .cwait n => FormatE.word ⟨0x1#3, 0#4, 0#4, 0#4, n.code, 12#5, 0x39#6⟩
  | .arm pd qd qs c => FormatE.word ⟨0x2#3, qs, qd, 0#4, c.code, predField pd, 0x39#6⟩
  | .disarm pd b => FormatE.word ⟨0x3#3, 0#4, 0#4, 0#4, b.code, predField pd, 0x39#6⟩
  | .cntrd x which => FormatE.word ⟨0x4#3, 0#4, 0#4, 0#4, which.code, x.code, 0x39#6⟩
  | .cntset which v => FormatE.word ⟨0x5#3, 0#4, 0#4, 0#4, which.code, v.code, 0x39#6⟩
  | .awinit aw v => FormatE.word ⟨0x6#3, 0#4, 0#4, 0#4, aw.code, v.code, 0x39#6⟩
  | .awwait aw gen => FormatE.word ⟨0x7#3, 0#4, 0#4, 0#4, aw.code, gen.code, 0x39#6⟩
  | .record pd c => FormatE.word ⟨0x0#3, 0#4, 0#4, 0#4, c.code, predField pd, 0x3A#6⟩
  | .replay pd => FormatE.word ⟨0x1#3, 0#4, 0#4, 0#4, 12#5, predField pd, 0x3A#6⟩
  | .rpstop => FormatE.word ⟨0x2#3, 0#4, 0#4, 0#4, 12#5, 12#5, 0x3A#6⟩
  | .rpstat x which => FormatE.word ⟨0x3#3, 0#4, 0#4, 0#4, which.code, x.code, 0x3A#6⟩
  | .route x desc => FormatE.word ⟨0x0#3, 0#4, 0#4, 0#4, desc.code, x.code, 0x3B#6⟩
  | .rtwait h => FormatE.word ⟨0x1#3, 0#4, 0#4, 0#4, h.code, 12#5, 0x3B#6⟩
  | .rtinv x desc => FormatE.word ⟨0x2#3, 0#4, 0#4, 0#4, desc.code, x.code, 0x3B#6⟩
  | .rtstat x h => FormatE.word ⟨0x3#3, 0#4, 0#4, 0#4, h.code, x.code, 0x3B#6⟩
  | .coll x pb => FormatE.word ⟨0x0#3, 0#4, 0#4, 0#4, pb.code, x.code, 0x3C#6⟩
  | .collw h => FormatE.word ⟨0x1#3, 0#4, 0#4, 0#4, h.code, 12#5, 0x3C#6⟩
  | .collst x h => FormatE.word ⟨0x2#3, 0#4, 0#4, 0#4, h.code, x.code, 0x3C#6⟩
  | .mbput pd w => FormatE.word ⟨0x3#3, 0#4, 0#4, 0#4, w.code, predField pd, 0x3C#6⟩
  | .mbget x which => FormatE.word ⟨0x4#3, 0#4, 0#4, 0#4, which.code, x.code, 0x3C#6⟩
  | .vaddShort _ _ _ => 0#32
  | .vsubShort _ _ _ => 0#32
  | .vmulShort _ _ _ => 0#32
  | .vminShort _ _ _ => 0#32
  | .vmaxShort _ _ _ => 0#32
  | .vandShort _ _ _ => 0#32
  | .vorShort _ _ _ => 0#32
  | .vxorShort _ _ _ => 0#32
  | .vmovShort _ _ _ => 0#32
  | .vnegShort _ _ _ => 0#32
  | .vabsShort _ _ _ => 0#32
  | .vrcpShort _ _ _ => 0#32
  | .vselShort _ _ _ => 0#32
  | .vexp2Short _ _ _ => 0#32
  | .vrsqShort _ _ _ => 0#32
  | .vnotShort _ _ _ => 0#32
  | .queueMisuseDetect _ => 0#32
  | .migrationInboxArrival _ _ => 0#32
  | .migrationInstall _ => 0#32
  | .migrationAck _ => 0#32
  | .migrationRefusal _ => 0#32
  | .migrationInboxTimeout _ => 0#32
  | .arrivalReport _ => 0#32
  | .messageDelivery _ _ _ _ => 0#32
  | .wordWaitRepresent _ => 0#32
  | .wake _ => 0#32
  | .yieldReentry _ => 0#32
  | .fenceDCompletion _ => 0#32
  | .preemption _ => 0#32
  | .quantumExpiry _ => 0#32
  | .spill _ => 0#32
  | .restore _ => 0#32
  | .resume _ _ => 0#32
  | .strandCreate _ _ _ => 0#32
  | .quiescentDeadlock _ _ => 0#32
  | .memoryError _ _ => 0#32
  | .scrubPass _ => 0#32
  | .matrixJobStart _ => 0#32
  | .matrixJobComplete _ => 0#32
  | .ringRoundStart _ => 0#32
  | .ringPhaseEnd _ => 0#32
  | .ringRoundTimeout _ _ => 0#32
  | .copyStart _ => 0#32
  | .copyPieceWrite _ _ => 0#32
  | .copyCompletion _ => 0#32
  | .arrivalPiece _ => 0#32
  | .counterPiece _ => 0#32
  | .arrivalWatchdogExpiry _ => 0#32
  | .pageWalk _ _ _ => 0#32
  | .reclassification _ => 0#32
  | .l2Eviction _ => 0#32
  | .midnightPause => 0#32
  | .heartbeatTick => 0#32
  | .pushArrival => 0#32
  | .ageingSample _ _ => 0#32
  | .derateStep _ => 0#32
  | .supplySag _ => 0#32
  | .supplySagEnd _ => 0#32
  | .configBlockWrite _ _ _ => 0#32
  | .partitionDefine _ => 0#32
  | .partitionRun _ => 0#32
  | .partitionPause _ => 0#32
  | .partitionResume _ => 0#32
  | .partitionKill _ => 0#32
  | .partitionUndefine _ => 0#32
  | .wayMaskWrite _ _ => 0#32
  | .doorbell _ _ => 0#32
  | .registerWrite _ _ => 0#32
  | .launchRecordFetch _ => 0#32
  | .nodeStart _ _ _ => 0#32
  | .nodeComplete _ _ _ => 0#32
  | .loopIteration _ _ _ => 0#32
  | .graphCompletion _ _ => 0#32
  | .killRequest _ => 0#32
  | .invalidationRequest _ => 0#32
  | .engineQuiesceAck _ _ => 0#32
  | .killReleased _ _ => 0#32
  | .revokedWriteReject _ _ _ => 0#32
  | .vfReset _ => 0#32
  | .hostMemRead _ _ => 0#32
  | .hostMemWrite _ _ => 0#32
  | .snpInv _ => 0#32
  | .snpData _ => 0#32
  | .snpCur _ => 0#32
  | .hostCacheFill _ _ => 0#32
  | .clusterPowerGate _ => 0#32
  | .surpriseLinkLoss => 0#32
  | .coldStart => 0#32
  | .warmReset _ => 0#32
  | .thermalTrip => 0#32
  | .firmwareImage _ => 0#32
  | .svnFuseRequest _ => 0#32
  | .attestationRequest _ _ => 0#32
  | .debugUnlock _ => 0#32
  | .i3cRequest _ => 0#32
  | .remoteAccessArrival _ => 0#32
  | .remoteResponse _ _ => 0#32
  | .remoteTimeout _ => 0#32
  | .flitReceive _ _ => 0#32
  | .laneRetire _ => 0#32
  | .tickSourceFailover _ => 0#32
  | .collCallStart _ => 0#32
  | .contributionArrival _ _ _ _ _ => 0#32
  | .collTimeout _ _ => 0#32
  | .twilightExpiry _ _ => 0#32
  | .collResultArrival _ _ _ _ => 0#32
  | .coordinatorLost _ _ _ => 0#32
  | .lateMember _ _ _ _ => 0#32
  | .flush _ _ => 0#32
  | .cancel _ _ => 0#32
  | .openSession _ _ => 0#32
  | .closeSession _ _ => 0#32
  | .handshakeInit _ _ _ => 0#32
  | .handshakeResp _ _ _ => 0#32
  | .handshakeTimeout _ _ => 0#32
  | .zhomerDatagram _ _ _ => 0#32
  | .zhomerRetransmit _ _ => 0#32
  | .rekey _ _ => 0#32
  | .oldKeyExpiry _ _ => 0#32
  | .nonZhomerFrame _ _ => 0#32
  | .routeCallStart _ => 0#32
  | .routeRequest _ => 0#32
  | .routeGrant _ _ _ _ => 0#32
  | .routeRowArrival _ => 0#32
  | .expertCloseTimeout _ _ _ _ => 0#32
  | .routeGrantTimeout _ _ => 0#32
  | .routeCallComplete _ => 0#32
  | .thermalWarning => 0#32
  | .nestCancelLearned _ _ _ _ => 0#32

/-- The halfword of a 16-bit form. -/
def Instr.short : Instr → Option Half16
  | .vaddShort k vd vs => some (Format16.word ⟨k, vs, vd, 0x0#4⟩)
  | .vsubShort k vd vs => some (Format16.word ⟨k, vs, vd, 0x1#4⟩)
  | .vmulShort k vd vs => some (Format16.word ⟨k, vs, vd, 0x2#4⟩)
  | .vminShort k vd vs => some (Format16.word ⟨k, vs, vd, 0x3#4⟩)
  | .vmaxShort k vd vs => some (Format16.word ⟨k, vs, vd, 0x4#4⟩)
  | .vandShort k vd vs => some (Format16.word ⟨k, vs, vd, 0x5#4⟩)
  | .vorShort k vd vs => some (Format16.word ⟨k, vs, vd, 0x6#4⟩)
  | .vxorShort k vd vs => some (Format16.word ⟨k, vs, vd, 0x7#4⟩)
  | .vmovShort k vd vs => some (Format16.word ⟨k, vs, vd, 0x8#4⟩)
  | .vnegShort k vd vs => some (Format16.word ⟨k, vs, vd, 0x9#4⟩)
  | .vabsShort k vd vs => some (Format16.word ⟨k, vs, vd, 0xA#4⟩)
  | .vrcpShort k vd vs => some (Format16.word ⟨k, vs, vd, 0xB#4⟩)
  | .vselShort k vd vs => some (Format16.word ⟨k, vs, vd, 0xC#4⟩)
  | .vexp2Short k vd vs => some (Format16.word ⟨k, vs, vd, 0xD#4⟩)
  | .vrsqShort k vd vs => some (Format16.word ⟨k, vs, vd, 0xE#4⟩)
  | .vnotShort k vd vs => some (Format16.word ⟨k, vs, vd, 0xF#4⟩)
  | _ => none

/-- The bytes of a word and of a halfword, lowest first (R3). -/
def bytesOfHalf (h : Half16) : List Byte := [h.extractLsb' 0 8, h.extractLsb' 8 8]
def bytesOfWord (w : Word32) : List Byte :=
  [w.extractLsb' 0 8, w.extractLsb' 8 8, w.extractLsb' 16 8, w.extractLsb' 24 8]

/-- The encoder: the bytes of an instruction with its literal words (R27, R28). -/
def encode (i : Instr) : List Byte :=
  match i.short with
  | some h => bytesOfHalf h
  | none => bytesOfWord i.word ++ (i.lits.map bytesOfWord).flatten

/-- The instruction of a table row: its bits are `w`, and every bit above `nbits` is zero. (DESIGN CHOICE, log 5.) -/
noncomputable def decodeTableWord (_nbits w : Nat) : Option Instr :=
  match decode ((List.range 12).map fun k => BitVec.ofNat 8 (w >>> (8 * k))) with
  | .ok i => some i
  | _ => none

end Sys2Proof
end

