-- ==== Sys2Proof/Machine/Hazards.lean ====
section
/-! DEFINITION. What keeps the two halves of a strand in step (R47 to R51): the vector state that instructions share, the instructions that wait for the other half, the lookahead of a word, and lightness (R21). -/

namespace Sys2Proof.Machine

/-- The vector state that an instruction uses: 0 to 15 for the v-registers, 16 to 23 for the masks, 24 for the lane claim. -/
structure VectorUse where
  reads : List Nat := []
  writes : List Nat := []
  deriving DecidableEq, Repr

/-- The use of an instruction under a mask (R224): the registers it writes keep their other lanes (R225). -/
def lanes (k : BitVec 3) (ws rs : List (BitVec 4)) : VectorUse where
  reads := 24 :: (if k = 0#3 then [] else [16 + k.toNat]) ++ rs.map (·.toNat)
  writes := ws.map (·.toNat)
def masks (ws rs : List (BitVec 4)) : VectorUse where
  reads := 24 :: rs.map fun n => 16 + n.toNat
  writes := ws.map fun n => 16 + n.toNat
/-- `VCLAIM`, `VREL` and `ITER.S` change the claim, every v-register and every mask. -/
def whole : VectorUse where
  writes := List.range 25

/-- What of the vector state an instruction uses. (DEDUCED, log 8.) -/
def Instr.vectorUse : Instr → VectorUse
  | .vadd _ k vd va vb => lanes k [vd] [va, vb]
  | .vsub _ k vd va vb => lanes k [vd] [va, vb]
  | .vmul _ k vd va vb => lanes k [vd] [va, vb]
  | .vmin _ k vd va vb => lanes k [vd] [va, vb]
  | .vmax _ k vd va vb => lanes k [vd] [va, vb]
  | .vand _ k vd va vb => lanes k [vd] [va, vb]
  | .vor _ k vd va vb => lanes k [vd] [va, vb]
  | .vxor _ k vd va vb => lanes k [vd] [va, vb]
  | .vshl _ k vd va vb => lanes k [vd] [va, vb]
  | .vshr _ k vd va vb => lanes k [vd] [va, vb]
  | .vsar _ k vd va vb => lanes k [vd] [va, vb]
  | .vdiv _ k vd va vb => lanes k [vd] [va, vb]
  | .vperm _ k vd va vb => lanes k [vd] [va, vb]
  | .vzip _ k _ vd va vb => lanes k [vd] [va, vb]
  | .vunz _ k _ vd va vb => lanes k [vd] [va, vb]
  | .vsel k vd va vb => lanes k [vd] [va, vb]
  | .vabs _ k vd va => lanes k [vd] [va]
  | .vneg _ k vd va => lanes k [vd] [va]
  | .vnot _ k vd va => lanes k [vd] [va]
  | .vmov _ k vd va => lanes k [vd] [va]
  | .vrcp _ k vd va => lanes k [vd] [va]
  | .vrsq _ k vd va => lanes k [vd] [va]
  | .vsqrt _ k vd va => lanes k [vd] [va]
  | .vexp2 _ k vd va => lanes k [vd] [va]
  | .vlog2 _ k vd va => lanes k [vd] [va]
  | .vtanh _ k vd va => lanes k [vd] [va]
  | .vfma _ k vd va vb vc => lanes k [vd] [va, vb, vc]
  | .vfms _ k vd va vb vc => lanes k [vd] [va, vb, vc]
  | .vfnma _ k vd va vb vc => lanes k [vd] [va, vb, vc]
  | .vdot4 _ k vd va vb vc => lanes k [vd] [va, vb, vc]
  | .vcmp _ k _ kd va vb => let u := lanes k [] [va, vb]; { u with writes := [16 + kd.toNat] }
  | .vbcst _ k _ vd _ => lanes k [vd] []
  | .vextr _ va _ => lanes 0 [] [va]
  | .vcvt _ k _ _ _ vd va => lanes k [vd] [va]
  | .vtag _ vd va => lanes 0 [vd] [va]
  | .vqnt _ _ vd va vs => lanes 0 [vd] [va, vs]
  | .vdqnt _ vd va vs => lanes 0 [vd] [va, vs]
  | .vred k _ vd va => lanes k [vd] [va]
  | .vscan _ k _ _ vd va => lanes k [vd] [va]
  | .vslide _ k vd va _ => lanes k [vd] [va]
  | .viota k vd => lanes k [vd] []
  | .vcomp k vd va => lanes k [vd] [va]
  | .vld _ k _ vd _ => lanes k [vd] []
  | .vst k _ vd _ => lanes k [] [vd]
  | .vlds _ k _ vd _ => lanes k [vd] []
  | .vsts _ k _ vd _ => lanes k [] [vd]
  | .vldx ix k _ vd _ => lanes k [vd] [ix]
  | .vstx ix k _ vd _ => lanes k [] [vd, ix]
  | .vldl k _ vd _ => lanes k [vd] []
  | .vstl k _ vd _ => lanes k [] [vd]
  | .vclaim _ _ => whole
  | .vrel => whole
  | .iterS .. => whole
  | .vwid _ => lanes 0 [] []
  | .kand kd ka kb => masks [kd] [ka, kb]
  | .kor kd ka kb => masks [kd] [ka, kb]
  | .kxor kd ka kb => masks [kd] [ka, kb]
  | .knot kd ka => masks [kd] [ka]
  | .kmov kd ka => masks [kd] [ka]
  | .kpop _ ka => masks [] [ka]
  | .kfirst _ ka => masks [] [ka]
  | .vaddShort k vd vs => lanes k [vd] [vs]
  | .vsubShort k vd vs => lanes k [vd] [vs]
  | .vmulShort k vd vs => lanes k [vd] [vs]
  | .vminShort k vd vs => lanes k [vd] [vs]
  | .vmaxShort k vd vs => lanes k [vd] [vs]
  | .vandShort k vd vs => lanes k [vd] [vs]
  | .vorShort k vd vs => lanes k [vd] [vs]
  | .vxorShort k vd vs => lanes k [vd] [vs]
  | .vmovShort k vd vs => lanes k [vd] [vs]
  | .vnegShort k vd vs => lanes k [vd] [vs]
  | .vabsShort k vd vs => lanes k [vd] [vs]
  | .vrcpShort k vd vs => lanes k [vd] [vs]
  | .vselShort k vd vs => lanes k [vd] [vs]
  | .vexp2Short k vd vs => lanes k [vd] [vs]
  | .vrsqShort k vd vs => lanes k [vd] [vs]
  | .vnotShort k vd vs => lanes k [vd] [vs]
  | .cpy .. | .halo .. | .cfill .. | .arm .. => lanes 0 [] []
  | .cpyg .. | .cpys .. => { reads := List.range 25 }
  | _ => {}

/-- Whether two instructions must keep their order: one writes what the other uses. (DEDUCED, log 8.) -/
def VectorUse.clashes (x y : VectorUse) : Bool :=
  (x.writes.any fun n => y.reads.contains n || y.writes.contains n) || (y.writes.any fun n => x.reads.contains n)

/-- Whether an instruction uses the vector state at all. -/
def VectorUse.any (x : VectorUse) : Bool := !(x.reads.isEmpty && x.writes.isEmpty)

/-- The instruction that an item of the lagging half stands for, where it is not a queue or a link alone. -/
def Held.instr? : Held → Option Instr
  | .whole i => some i
  | .part i => some i
  | _ => none

/-- R95, R129: instructions that wait until the other half has done everything older. -/
def Instr.serial : Instr → Bool
  | .sysrd .. | .syswr .. | .waitr .. => true
  | _ => false

/-- R48: the instructions with an access part and an execute part. -/
def Instr.twoPart : Instr → Bool
  | .ld _ _ (.d _) _ _ | .st _ _ (.d _) _ _ | .ldf _ _ (.d _) _ _ | .lde _ _ (.d _) _ _ | .stf _ _ (.d _) _ _
  | .stw _ _ (.d _) _ _ | .amo _ _ _ (.d _) _ _ | .cas _ _ (.d _) _ _ => true
  | _ => false

/-- The lookahead of an instruction word, where its format carries one (R49, R50). -/
def lookahead? (w : Word32) : Option Nat :=
  let m := (majorOf w).toNat
  if w.getLsbD 0 = false then none
  else if (0x18 ≤ m ∧ m ≤ 0x1E) ∨ m = 0x33 ∨ (0x38 ≤ m ∧ m ≤ 0x3C) then some (w.extractLsb' 17 4).toNat
  else if m = 0x2D ∨ (0x30 ≤ m ∧ m ≤ 0x32) then some (w.extractLsb' 16 4).toNat
  else none

/-- The lookahead of an instruction word (R49). -/
def lookaheadOf (w : Word32) : Nat := (lookahead? w).getD 0

/-! ## What the half that is ahead may do (R103, R104) -/

/-- R104: the instructions whose effects are withheld while their half is ahead: their results are no registers, so that what
is younger in their half can go on. (DEDUCED, log 6.) -/
def Instr.withholds : Instr → Bool
  | .st .. | .stw .. | .feset .. | .feclr .. | .send .. | .vst .. | .vsts .. | .vstx .. | .vstl .. | .qst .. | .hlayout ..
  | .cpy .. | .cpyg .. | .cpys .. | .cfill .. | .halo .. => true
  | _ => false

/-- Whether an instruction may touch memory or an engine, and so keeps its place behind what is withheld (R337). (DEDUCED, log 6.) -/
def Instr.reaches (w : Word32) : Instr → Bool
  | .qst .. | .qld .. | .qstr .. | .hlayout .. | .hpack .. | .hparse .. => true
  | _ => (lookahead? w).isSome

/-- Parks that are no effect on anything (R103): waits that only test, and loads. -/
def Wait.pure : Wait → Bool
  | .word _ _ minor .. => minor == 0#2
  | .job _ | .batch _ | .arrival .. | .region .. | .coll _ | .route _ => true
  | .barrier _ _ _ arrived => !arrived
  | .remote waits => !waits
  | _ => false

/-- What a strand holds beside the context of its halves, and beside how far it has come. -/
def Strand.outside (m : Strand) : Strand :=
  { m with ctx := {}, pc := 0#64, issue := {}, pos := 0, ts := 0, hits := 0, deferred := [], owed := none, undo := none, note := .done
           heldLag := none, heldLead := false, stay := false, frame := .running, wait := none, parts := [] }

/-- What of a state an instruction ahead of older ones must leave alone (R103): everything but the context of its strand,
timestamps, and what caches and buffers hold. -/
def State.beyond (s : State) : State :=
  { s with
    me := s.me.outside, mem := s.mem.clear fun a => isHost a, stamps := [], floors := [], marks := [], l2 := [], clusterTlb := []
    hostCache := [], latest := 0, cores := [], free := 0, clock := 0, mesh := 0, burst := {}
    remoteOps := s.remoteOps.filter fun r => r.op != .load && r.op != .ldf && r.op != .fetest }

/-- R103: whether an instruction of the half that is ahead has had no effect outside the strand. (DEDUCED, log 6.) -/
def State.onlyAhead (s t : State) : Bool :=
  decide (s.beyond = t.beyond) && decide ((s.core s.me.core).layouts = (t.core s.me.core).layouts) &&
    decide ((s.core s.me.core).recctl = (t.core s.me.core).recctl) &&
    (match t.me.frame, t.me.wait with
    | .running, none => true
    | .running, some w | .parked, some w => w.pure
    | _, _ => false)

/-- R47: whether an instruction must not pass an item that the lagging half has still to do. (DEDUCED, log 8.) -/
def mustStay (c : Context) (i : Instr) (d : Deferred) : Bool :=
  match d.work.instr? with
  | none => false
  | some j =>
    let x := Instr.vectorUse i
    let y := Instr.vectorUse j
    Instr.serial j || x.clashes y || (x.any && y.any && !c.vec.windows.isEmpty)

end Sys2Proof.Machine
end

