-- ==== Sys2Proof/Machine/ReadAhead.lean ====
section
/-! DEFINITION. The moments at which engines read their sources: between any two steps, word by word (R269, R276, R412, R435). -/

namespace Sys2Proof.Machine

/-- The words of `n` bytes from an address. -/
def wordsFrom (o : Origin) (va : Word) (n : Nat) : List (Origin × Word) :=
  (List.range ((n + 3) / 4)).map fun i => (o, va + BitVec.ofNat 64 (4 * i))

/-- The source addresses that a copy has still to read, each with whether it lies in the lane slices. -/
def Copy.sources (c : Copy) : List (Bool × Nat) :=
  match c.state with
  | .armed _ _ _ => []
  | _ => c.todo.flatMap fun p => p.flatMap fun (x : Nat × ByteSource) =>
    match x.2 with
    | .byte a => [(c.lss, a)]
    | .const _ => []
    | .expand e x _ _ => [(c.lss, e), (false, x)]

/-- The addresses that a job reads: for `BMETA` the four halfwords of each block. -/
def Job.sources (j : Job) : List (Origin × Word) :=
  j.source.addrs.flatMap fun a => if j.kind = .bmeta then [(j.origin, a), (j.origin, a + 4#64)] else [(j.origin, a)]

/-- R412: the words of SRC and RES, until the contribution is formed. -/
def CollCall.sources (c : CollCall) : List (Origin × Word) :=
  let b := c.block
  if c.formed.isSome then [] else wordsFrom c.origin b.src (b.srcCount * b.esize) ++ wordsFrom c.origin b.res (b.resCount * 4)

/-- R435: the words of CHOICE and MAP; of X for `ROUTE`; and for `RTINV` those of INV, and of Y at this package's homes. (DEDUCED, log 92.) -/
def State.routeSources (s : State) (c : RouteCall) : List (Origin × Word) :=
  let r := c.desc
  let ys :=
    match Tab.get none s.routeHomes r.handle.toNat with
    | none => []
    | some h => (List.range r.nexp).flatMap fun e =>
      if (c.expert e).1 = s.pkg then
        match s.engineNat h.origin c.seen (h.desc.map + BitVec.ofNat 64 (32 * e + 24)) 8 with
        | .error _ => []
        | .ok (y, _) => wordsFrom h.origin (h.desc.map + BitVec.ofNat 64 (32 * e + 24)) 8 ++ wordsFrom h.origin (BitVec.ofNat 64 y) (c.capOf e * h.desc.yrb)
      else []
  wordsFrom c.origin r.choice (8 * (r.ntok * r.k)) ++ wordsFrom c.origin r.map (32 * r.nexp) ++
    (if c.combine then wordsFrom c.origin r.inv (4 * (r.ntok * r.k)) ++ ys else wordsFrom c.origin r.x (r.ntok * r.rb))

/-- One word is read ahead, unless it has been read or a lookup fails, which is reported where the work comes to it. (DEDUCED, log 92.) -/
def State.lookAt (s : State) (seen : List (Nat × Option Word32)) (x : Origin × Word) : State × List (Nat × Option Word32) :=
  match s.enginePlace x.1 x.2 needR with
  | .error _ => (s, seen)
  | .ok (k, t) =>
    if seen.any fun y => y.1 == k / 4 then (s, seen)
    else
      let r := t.engineRead k
      (r.2, (k / 4, r.1) :: seen)

/-- The words of a list that a number's bits name. -/
def named {α : Type} (n : Nat) (l : List α) : List α := (l.zipIdx.filter fun x => n.testBit x.2).map (·.1)

/-- A draw names the words of a list that are read ahead now; with an empty list nothing is drawn. (DEDUCED, log 92.) -/
def State.lookAhead (s : State) (seen : List (Nat × Option Word32)) (l : List (Origin × Word)) : State × List (Nat × Option Word32) :=
  if l.isEmpty then (s, seen)
  else
    let d := s.draw
    (named d.1 l).foldl (fun a x => a.1.lookAt a.2 x) (d.2, seen)

/-- R276: a copy reads some of its source words ahead. (DEDUCED, log 92.) -/
def State.copyAhead (s : State) (c : Copy) : State :=
  let l := c.sources
  if l.isEmpty then s
  else
    let d := s.draw
    let r := (named d.1 l).foldl (fun (a : State × Copy) x =>
      match a.1.copyWord a.2 x.1 x.2 with
      | .error _ => a
      | .ok (_, s, c) => (s, c)) (d.2, c)
    r.1.putCopy r.2

/-- Between two steps every engine may read any of the words that its work has still to read. (DEDUCED, log 92.) -/
def State.readAhead (s : State) : State :=
  let s := s.copies.foldl State.copyAhead s
  let s := (s.matrix.flatMap fun q => q.2.jobs).foldl (fun s j =>
    let r := s.lookAhead j.seen j.sources
    if j.sources.isEmpty then s else r.1.putJob { j with seen := r.2 }) s
  let s := s.collCalls.foldl (fun s x =>
    let r := s.lookAhead x.2.seen x.2.sources
    if x.2.sources.isEmpty then s else r.1.putCall x.1 { x.2 with seen := r.2 }) s
  s.routeCalls.foldl (fun s c =>
    let l := s.routeSources c
    let r := s.lookAhead c.seen l
    if l.isEmpty then s else r.1.putRouteCall { c with seen := r.2 }) s

end Sys2Proof.Machine
end

