-- ==== Sys2Proof/Machine/Sched.lean ====
section
/-! DEFINITION. How a step of the machine is made: fetching and issuing an instruction of a strand (R47 to R54, R447), the lagging half (R16, R48), the rotation (R162), and what the hardware does of itself between instructions. -/

namespace Sys2Proof.Machine

/-- The meaning of every instruction, as `step` hands it to the scheduler. -/
abbrev Meaning := Instr → State → Result

/-! ## Fetching (R27, R28, R54, R447, R448) -/

/-- What the fetch of the next instruction gives: the instruction, with `issue` set in the state, or its trap. -/
inductive Fetched where
  | ok (i : Instr) (s : State)
  | bad (t : Trap) (s : State)

/-- The issue record of an instruction that could not be decoded, or not be fetched whole (R448). -/
def Strand.blankIssue (m : Strand) (w : Word32) (long : Bool) : Issue :=
  { addr := m.pc, next := m.pc + (if long then 4#64 else 2#64), word := w, long := long, half := .execute, pos := m.pos }

/-- The state with the issue record of the strand in turn set. -/
def State.issuing (s : State) (i : Issue) : State := { s with me := { s.me with issue := i } }

/-- Table words that follow an instruction (R88). -/
def tableWords : Instr → Nat
  | .switch _ n => n.toNat
  | _ => 0

/-- The literal words from an address on (R28). -/
def State.fetchLits (s : State) (va : Word) : Nat → Except Trap (List Word32 × State)
  | 0 => .ok ([], s)
  | n + 1 =>
    match s.fetchWord va with
    | .error t => .error t
    | .ok (w, s) =>
      match s.fetchLits (va + 4#64) n with
      | .error t => .error t
      | .ok (ws, s) => .ok (w :: ws, s)

/-- R54: the trap of a word that the decoder refuses. -/
def decodeTrap (w : Word32) (misuse : Bool) : Trap :=
  if misuse then ⟨.queueMisuse, w.setWidth 64 ||| 0x8000000000000000#64⟩ else ⟨.illegalInstruction, w.setWidth 64⟩

/-- A 32-bit instruction, once its word is fetched: the literal words, and the whole. -/
noncomputable def State.fetchLong (s : State) (w : Word32) : Fetched :=
  let b := s.me.blankIssue w true
  match decodeWord w 0#32 0#32 with
  | .ok i =>
    let n := i.lits.length
    let iss : Issue :=
      { b with next := s.me.pc + 4#64 + BitVec.ofNat 64 (4 * n), nlit := n, ntab := tableWords i, half := i.half }
    match s.fetchLits (s.me.pc + 4#64) n with
    | .error t => .bad t (s.issuing iss)
    | .ok (ws, s) =>
      match decodeWord w (ws.getD 0 0#32) (ws.getD 1 0#32) with
      | .ok i => .ok i (s.issuing iss)
      | .illegal => .bad (decodeTrap w false) (s.issuing b)
      | .misuse => .bad (decodeTrap w true) (s.issuing b)
  | .illegal => .bad (decodeTrap w false) (s.issuing b)
  | .misuse => .bad (decodeTrap w true) (s.issuing b)

/-- The next instruction of the strand in turn. -/
noncomputable def State.fetchNext (s : State) : Fetched :=
  let m := s.me
  match s.fetchHalf m.pc with
  | .error t => .bad t (s.issuing (m.blankIssue 0#32 false))
  | .ok (lo, s1) =>
    if lo.getLsbD 0 = false then
      let w := lo.setWidth 32
      match decodeShort lo with
      | .ok i => .ok i (s1.issuing (m.blankIssue w false))
      | _ => .bad (decodeTrap w false) (s1.issuing (m.blankIssue w false))
    else
      match s1.fetchHalf (m.pc + 2#64) with
      | .error t => .bad t (s.issuing (m.blankIssue 0#32 true))
      | .ok (hi, s2) => s2.fetchLong (hi ++ lo)

/-! ## The lagging half (R16, R47, R48, R84) -/

/-- How far the lagging half has come in this step. -/
inductive Drained where
  /-- Nothing is held. -/
  | none
  /-- The oldest held item is done, or the strand has parked or trapped there. -/
  | moved (r : Result)
  /-- The oldest held item cannot proceed: on a queue, or otherwise. -/
  | stuck (q : Option QueueName) (s : State)

/-- The windows of a lagging half that end before the position of a held item close. -/
def Context.closeLag (c : Context) (d : Deferred) : Context :=
  match d.lag with
  | .access =>
    let c := c.closeAccess d.issue.pos
    match d.work.instr? with
    | some i => if (Instr.vectorUse i).any then c.closeVector d.issue.pos else c
    | Option.none => c
  | _ => (c.closeExecute d.issue.pos).closeVector d.issue.pos

/-- What a held item that is no whole instruction does. -/
def heldStep (d : Deferred) (s : State) : State :=
  let c := s.me.ctx
  match d.work with
  | .popTo n la =>
    match c.pop .execute with
    | .error q => s.hold q
    | .ok (v, c) => s.done (c.writeLate d.issue.pos la (.d n v))
  | .pushFrom n => s.attempt (c.push .execute c.exe.d[n])
  | .follow =>
    let owner : Side := if d.lag = .access then .execute else .access
    match c.queues.outcomes owner with
    | [] => s.hold (outcomeQueue owner)
    | _ :: r => s.done (c.setOutcomes owner r)
  | .link r v =>
    s.done (match r with
      | .a n => c.write (.a n v)
      | .d n => c.write (.d n v)
      | _ => c)
  | _ => s

/-- The causes that wait for a wait (R109), by code. -/
def waitCause (code : Nat) : Cause :=
  if code = 0x10 then .quiescentDeadlock else if code = 0x11 then .arrivalStall else .engineError

/-- R109: raises the trap that waits, at the instruction now issuing. -/
def State.raiseWaiting (s : State) (p : Nat × Word) : State :=
  ({ s with me := { s.me with pendingTrap := none } } : State).trap ⟨waitCause p.1, p.2⟩

/-- The strand stands again where it stood before a held item ran, which has had its effect. -/
def State.settleHeld (t : State) (old : Strand) : State :=
  let m := if t.me.undo.isSome then t.me.retire old.ctx else t.me
  { t with me := { m with pc := old.pc, pos := old.pos, issue := old.issue } }

/-- An instruction begins, or goes on: accesses of earlier turns are not made again (R143, R242). -/
def State.recall (s : State) : State :=
  { s with me := { s.me with parts := [] }, burst := { s.burst with replay := s.me.parts, made := [] } }

/-- The lagging half tries its oldest held item. (DEDUCED, log 7.) -/
def State.drainHeld (ex : Meaning) (s : State) (d : Deferred) (ds : List Deferred) : Drained :=
  let t : State := ({ s with me := { s.me with
    issue := d.issue, undo := some d, deferred := ds, ctx := s.me.ctx.closeLag d, note := .done } } : State).recall
  let r : Result :=
    match s.me.pendingTrap, d.lag with
    | some p, .access => .next (t.raiseWaiting p)
    | _, _ =>
      match d.work.instr? with
      | some i => ex i t
      | Option.none => .next (heldStep d t)
  match r with
  | .next t =>
    match t.me.note with
    | .done => .moved (.next (if t.me.sid = s.me.sid then t.settleHeld s.me else t))
    | .held q => .stuck (some q) { t with me := { t.me with pc := s.me.pc, pos := s.me.pos } }
    | .waits | .blocked | .stalled => .stuck Option.none { t with me := { t.me with pc := s.me.pc, pos := s.me.pos } }
    | .paused => .moved (.next { t with me := { t.me with pc := s.me.pc, pos := s.me.pos, issue := s.me.issue, note := .stalled } })
    | .parked | .trapped => .moved (.next t)
  | r => .moved r

/-- R104: nothing older can trap any more: what an instruction has withheld is performed. Its half has gone on with the
registers and queues that the instruction left; one that would park is issued anew, and what is younger with it. (DEDUCED, log 6.) -/
def State.release (ex : Meaning) (s : State) (d : Deferred) (ds : List Deferred) (i : Instr) : Drained :=
  let m : Strand := { s.me with issue := d.issue, undo := some d, deferred := ds, note := .done }
  match ex i { s with me := { m with ctx := m.backTo d } } with
  | .next t =>
    match t.me.note with
    | .done => .moved (.next (({ t with me := { t.me with ctx := s.me.ctx } } : State).settleHeld s.me))
    | .held _ | .waits | .blocked | .stalled | .paused => .stuck Option.none s
    | .parked => .moved (.next { s with me := { s.me.regroup with note := .stalled } })
    | .trapped => .moved (.next t)
  | r => .moved r

/-- The oldest thing that is still to be done. -/
def State.drain (ex : Meaning) (s : State) : Drained :=
  match s.me.deferred with
  | [] => .none
  | d :: ds =>
    match d.work with
    | .withheld i _ => s.release ex d ds i
    | _ => s.drainHeld ex d ds

/-! ## The half that leads -/

/-- Which half's windows an instruction closes as it issues: both where both halves stand at it. -/
def Context.closeLead (c : Context) (s : State) (i : Instr) (pos : Nat) : Context :=
  match s.lagging with
  | none => c.close pos
  | some .access => (c.closeExecute pos).closeVector pos
  | some _ =>
    let c := c.closeAccess pos
    if (Instr.vectorUse i).any then c.closeVector pos else c

/-- The instruction in `issue` issues: the program counter stands behind it, and the windows that end before it close. (DEDUCED, log 10.) -/
def State.lift (s : State) (i : Instr) : State :=
  let m := s.me
  let s : State := { s with me := { m with
    ctx := m.ctx.closeLead s i m.issue.pos, pc := m.issue.next, pos := m.issue.pos + 1, note := .done, missed := none } }
  s.showLight.recall

/-- The strand passes the instruction in `issue`, which the lagging half has still to do. (DEDUCED, log 7.) -/
def State.leaveTo (s : State) (i : Instr) (lag : Side) (n : Note) : State :=
  { s with me := { s.me with
      deferred := s.me.deferred ++ [⟨s.me.issue, .whole i, lag, s.me.ctx⟩]
      pc := s.me.issue.next
      pos := s.me.issue.pos + 1
      note := n } }

/-- The leading half does not issue in this step. -/
def State.stall (s : State) : State := s.setNote .waits

/-- R104: an instruction of the half that is ahead has issued, which took the context to that of `t`: its other effects are
withheld. -/
def State.withhold (s t : State) (i : Instr) : State :=
  let bar := (lookahead? s.me.issue.word).map (s.me.issue.pos + ·)
  { s with me := { s.me with
      ctx := t.me.ctx
      deferred := t.me.deferred ++ [⟨s.me.issue, .withheld i bar, s.lagging.getD .execute, s.me.ctx⟩]
      note := .done } }

/-- The instruction in `issue` issues on its half, or on both, while older ones are still to be done: it has no effect outside
its strand yet (R103, R104). (DEDUCED, log 6.) -/
def State.issueAhead (s : State) (i : Instr) (t : State) : State :=
  match t.me.note with
  | .held _ | .waits => t
  | n =>
    if n ≠ .trapped ∧ (s.lift i).onlyAhead t then t
    else if n = .done ∧ Instr.withholds i then (s.lift i).withhold t i
    else s.stall

/-- The instruction in `issue` issues on its half, or on both. A queue or an engine that holds it holds its half only (R16,
R247, R253). (DEDUCED, log 6.) -/
def State.issue1 (ex : Meaning) (s : State) (i : Instr) : Result :=
  match ex i (s.lift i) with
  | .next t =>
    match s.me.deferred, t.me.note with
    | _ :: _, _ => .next (s.issueAhead i t)
    | [], .held q => .next (if i.half = .both then t else t.leaveTo i i.half (.held q))
    | [], .blocked => .next (if i.half = .both then t else t.leaveTo i i.half .blocked)
    | [], _ => .next t
  | r => r

/-- Whether what an older instruction has withheld bars an instruction (R49, R104, R337). (DEDUCED, log 6.) -/
def Deferred.bars (d : Deferred) (i : Instr) (iss : Issue) : Bool :=
  match d.work with
  | .withheld _ bar => (bar.map fun p => decide (p < iss.pos)).getD false || Instr.reaches iss.word i
  | _ => false

/-- R51: whether a pre-emption holds the strand before the instruction in `issue`: its lookahead is above 0, and an older window
is open. A request that waits for the report of an arrival has not reached the strand (R23). (DEDUCED, log 89.) -/
def Strand.holdsForPreempt (m : Strand) : Bool :=
  m.preempt && !m.unreported && m.parts.isEmpty && m.issue.long && 0 < lookaheadOf m.issue.word && (m.ctx.close m.issue.pos).windowOpen

/-- The next instruction of the strand, once it is fetched (R47, R51, R109). (DEDUCED, log 6.) -/
def State.leadWith (ex : Meaning) (s : State) (i : Instr) : Result :=
  let m := s.me
  match m.deferred, m.pendingTrap with
  | [], some p => .next (s.raiseWaiting p)
  | _ :: _, some _ => .next s.stall
  | ds, none =>
    if m.holdsForPreempt then
      if ds.isEmpty then .next (s.preemptNow m.sid) else .next (s.setNote .stalled)
    else if ds.any (fun d => mustStay m.ctx i d || d.bars i m.issue) then .next s.stall
    else if i.half ≠ .both ∧ some i.half = s.lagging ∧ Instr.twoPart i = false then .next (s.leaveTo i i.half .done)
    else s.issue1 ex i

/-- R48: the pop of `lq` that an `AMO` or `CAS` still owes. -/
def State.payOwed (s : State) (o : Fin 12 × Nat × Nat) : State :=
  match s.me.ctx.pop .execute with
  | .error q => s.setNote (.held q)
  | .ok (v, c) => { s with me := { s.me with ctx := c.writeLate o.2.2 o.2.1 (.d o.1 v), owed := none, note := .done } }

/-- An instruction that could not be fetched or decoded: a trap that waits for a wait comes first (R109). -/
def State.leadBad (s t : State) (b : Trap) : State :=
  match s.me.deferred, s.me.pendingTrap with
  | [], some p => t.raiseWaiting p
  | [], none => ((t.setCtx (t.me.ctx.close t.me.pos)).showLight).trap b
  | _ :: _, _ => s.stall

/-- The half that leads, or both halves, go on. (DEDUCED, log 7.) -/
noncomputable def State.lead (ex : Meaning) (s : State) : Result :=
  match s.me.owed with
  | some o => .next (s.payOwed o)
  | none =>
    match s.fetchNext with
    | .ok i t => t.leadWith ex i
    | .bad b t => .next (s.leadBad t b)

/-! ## A strand's turn -/

/-- R16, R161: what is known of the lagging half once the half that leads has been tried too: the queue that holds it, if that
half has moved no queue, and whether that half waits as well. (DEDUCED, log 9.) -/
def State.noteHeld (q : Option QueueName) (before : Queues) (s : State) : State :=
  let waits : Bool := match s.me.note with
    | .held _ | .waits => true
    | _ => false
  { s with me := { s.me with
      heldLag := if s.me.ctx.queues = before then q else none
      heldLead := waits && q.isSome } }

/-- One instruction, or one item of the lagging half, of the strand in turn. -/
noncomputable def State.strandStep (ex : Meaning) (s : State) : Result :=
  if s.me.going.isEmpty = false then .next s.goOn
  else if s.me.heldLead ∧ s.me.heldLag.isSome ∧ s.me.deferred.isEmpty = false then .next (queueMisuse s.me.sid s)
  else
    let note (q : Option QueueName) (r : Result) : Result :=
      match r with
      | .next u => .next (if u.me.sid = s.me.sid then u.noteHeld q s.me.ctx.queues else u)
      | r => r
    if s.me.note = .paused then note none (s.lead ex)
    else match s.drain ex with
    | .none => note none (s.lead ex)
    | .moved r => note none r
    | .stuck q t => note q (t.lead ex)

/-- The halves on which a strand has issued in a step that took it from `m` to `n` (R93, R162). -/
def issuedHalves (m n : Strand) : List Side :=
  match m.deferred, n.deferred with
  | d :: _, es =>
    if es.head? ≠ some d then (match d.work with
      | .withheld .. => []
      | _ => [d.lag])
    else
      match n.note, es.getLast?.map (·.work) with
      | .done, some (Held.whole _) => if m.deferred.length < es.length then [] else [if d.lag = .access then .execute else .access]
      | .done, _ | .parked, _ | .trapped, _ => [if d.lag = .access then .execute else .access]
      | _, _ => []
  | [], es =>
    match n.note, es with
    | .done, [] | .parked, _ | .trapped, _ => if n.issue.half = .both then [.access, .execute] else [n.issue.half]
    | .done, e :: _ => [if e.lag = .access then .execute else .access]
    | _, _ => []

/-- R93: a strand has issued on some halves: no yielded strand waits for it there any more. (DEDUCED, log 11.) -/
def State.passYield (sid : StrandId) (hs : List Side) (s : State) : State :=
  let pass (m : Strand) : Strand := { m with yieldSet := m.yieldSet.filter fun x => !(x.1 == sid && hs.contains x.2) }
  { s with me := pass s.me, others := (s.others.filter fun m => m.sid != Strand.absent.sid).map pass }

/-- R93: strands that have ceased to be ready for a half, or to stand in the core's rotation, are waited for no longer. -/
def State.pruneYields (s : State) : State :=
  let stays (m : Strand) (x : StrandId × Side) : Bool :=
    match s.strand? x.1 with
    | some y => y.core == m.core && y.readyOn x.2
    | none => false
  let prune (m : Strand) : Strand := { m with yieldSet := m.yieldSet.filter (stays m) }
  { s with me := prune s.me, others := s.others.map prune }

/-- What follows a strand's step, which began as `m`: a pre-emption that waited for the boundary (R167), and yields (R93). -/
def State.afterStrand (m : Strand) (s : State) : State :=
  let hs := if s.me.sid ≠ m.sid then [.access, .execute] else if m.going.isEmpty then issuedHalves m s.me else []
  (if s.me.sid = m.sid ∧ s.me.preempt ∧ s.me.yieldsNow then s.preemptNow m.sid else s).passYield m.sid hs

/-- The turn of a strand, if it may issue. -/
noncomputable def State.turnOf (ex : Meaning) (sid : StrandId) (s : State) : Result :=
  match s.strand? sid with
  | none => .next s
  | some m =>
    if m.frame = .running ∧ m.wait.isNone then
      match (s.focus sid).strandStep ex with
      | .next t => .next (t.afterStrand m)
      | r => r
    else .next s

/-! ## What the hardware does of itself -/

/-- What may occur to a strand. -/
def strandAutos (m : Strand) (core : Nat) : List (State → State) :=
  let i := m.sid
  [ inboxArrival i true, migrationInstall i, fun (s : State) => s.modify i fun m => { m with leaving := none }, migrationRefusal i,
    inboxTimeout i, fun (s : State) => s.modify i fun m => { m with unreported := false }, wordWaitRepresent i,
    fun (s : State) => s.as i State.wakeMe,
    fun (s : State) => s.modify i fun m => if m.frame = .yielded ∧ m.yieldSet = [] then { m with frame := .running } else m,
    fenceDCompletion i, queueMisuse i, quantumExpiry i, fun (s : State) => s.spill i, restoreStep i, resumeStep i m.core,
    resumeStep i core, remoteResponse i false, remoteTimeout i ] ++
  m.memberOf.map (fun e => quiescentDeadlock i (BitVec.ofNat 8 e)) ++
  (match m.wait with
    | some (.arrival key ..) | some (.region _ (some (key, _))) => [arrivalWatchdogExpiry key]
    | _ => [])

/-- What may occur to a launch and its nodes. -/
def Launch.autos (l : Launch) : List (State → State) :=
  let node (v : Nat) : LaunchRef := ⟨l.part, l.tag, v⟩
  [ fun (s : State) => s.killStep l, killReleased l.part l.tag, graphCompletion l.part l.tag ] ++
  (List.range l.nodes.length).flatMap fun v =>
    [ nodeStart (node v), nodeComplete (node v), loopIteration (node v), strandCreate (node v) ] ++
      (((l.nodes[v]?).bind (·.nest)).map fun _ =>
        (List.range 1536).map fun k => nestCancelLearned k (node v)).getD []

/-- What may occur in the matrix engine of a cluster (R249, R250, R260). -/
def matrixAutos (q : Nat × MatrixQueue) : List (State → State) :=
  (List.range 8).flatMap (fun i => [matrixJobStart (8 * q.1 + i), matrixJobComplete (8 * q.1 + i)]) ++
    [ringRoundStart q.1, ringPhaseEnd q.1] ++ q.2.jobs.map fun j => ringRoundTimeout q.1 j.round

/-- What may occur to a copy (R276, R282, R286, R291); `j` names a piece. -/
def Copy.autos (c : Copy) (j : Nat) : List (State → State) :=
  [copyStart c.id, copyPieceWrite c.id (j % (c.todo.length + 1)), copyCompletion c.id, arrivalPiece (.copy c.id),
   counterPiece (.copy c.id)]

/-- A result that says nothing, for a call whose coordinator is in this package (R409). -/
def CollResult.blank : CollResult := ⟨[], 0#64, 0#64, false, false, []⟩

/-- What may occur in a communication master (R402 to R410). -/
def collAutos (k : Nat) (m : CollMaster) : List (State → State) :=
  (fun (s : State) => s.mailStep k) :: m.calls.flatMap fun c =>
    let h := c.block.handle
    let n := c.block.rank
    [ fun (s : State) => s.withSends (contributionArrival h c.seq n true []), collResultArrival h c.seq n CollResult.blank,
      lateMember h c.seq n CollResult.blank, coordinatorLost h c.seq n ]

def Coordinator.autos (x : Coordinator) : List (State → State) :=
  [fun (s : State) => s.withSends (collTimeout x.handle x.seq), twilightExpiry x.handle x.seq]

/-- What may occur in a routing engine (R426 to R434). -/
def routeAutos (die : Nat) (q : RouteEngine) : List (State → State) :=
  [routeCallStart die, routeCallComplete die] ++ q.calls.map (fun c => routeGrantTimeout die (BitVec.ofNat 16 c.idx)) ++
    q.experts.map (fun e => expertCloseTimeout die e.handle e.seq e.expert) ++ q.rows.map routeRowArrival

/-- Everything that may occur next without an instruction and without a cause outside the package; what is not enabled
changes nothing. `d` draws a core and a piece. (DESIGN CHOICE, log 3.) -/
def State.autos (s : State) (d : Nat) : List (State → State) :=
  [heartbeatTick, midnightPause, pushArrival] ++
    s.strands.flatMap (fun m => strandAutos m (d % 1536)) ++
    s.launches.flatMap Launch.autos ++
    s.matrix.flatMap matrixAutos ++
    s.copies.flatMap (fun c => Copy.autos c d) ++
    s.queues.map (fun q => launchRecordFetch (BitVec.ofNat 11 q.1)) ++
    s.masters.flatMap (fun m => collAutos m.1 m.2) ++
    s.coords.flatMap Coordinator.autos ++
    s.routers.flatMap (fun r => routeAutos r.1 r.2) ++
    s.arrivals.map (fun a => arrivalWatchdogExpiry a.1) ++
    s.l2.flatMap (fun (x : Nat × List L2Line) => x.2.map fun l => l2Eviction (l.line - hbmKey 0 / 128))

/-! ## Engine events that write several words (R115) -/

/-- The events that write more than a word. -/
noncomputable def State.writingEvents (s : State) : List Instr :=
  s.masters.flatMap (fun m => .collCallStart m.1 :: m.2.calls.flatMap fun c =>
    [.collResultArrival c.block.handle c.seq c.block.rank CollResult.blank, .lateMember c.block.handle c.seq c.block.rank CollResult.blank]) ++
    s.routers.flatMap (fun r => .routeCallComplete r.1 :: r.2.rows.map .routeRowArrival) ++
    s.launches.map fun l => .graphCompletion l.part l.tag

/-- The words that an event would write now, the first first. (DESIGN CHOICE, log 108.) -/
def State.findWords (ex : Meaning) (s : State) (i : Instr) : List AheadWord :=
  match ex i { s with ahead := some { event := i, finding := true, words := [] } } with
  | .next t => (t.ahead.map (·.words)).getD []
  | _ => []

/-- The words that an event writes first: a number of them, which may leave out the lower of the last two of a doubleword. (DESIGN CHOICE, log 108.) -/
def firstWords (d : Nat) (ws : List AheadWord) : List AheadWord :=
  let n := d / 2 % (ws.length + 1)
  let first := ws.take n
  match first[n - 1]?, first[n - 2]? with
  | some x, some y => if d % 2 = 1 ∧ x.va.toNat % 8 = 4 ∧ y.va + 4#64 = x.va then first.eraseIdx (n - 2) else first
  | _, _ => first

/-- Words written, up to the first whose address faults: the state, and the words with their stamps. -/
def State.writeWords (s : State) : List AheadWord → State × List AheadWord
  | [] => (s, [])
  | x :: xs =>
    match s.enginePlace x.origin x.va needW with
    | .error _ => (s, [])
    | .ok (k, s) =>
      let w := s.engineWrite k true x.bytes
      let r := w.1.writeWords xs
      (r.1, { x with key := k, stamp := w.2 } :: r.2)

/-- An engine event writes some of its words; strands may have turns before it does the rest. (DESIGN CHOICE, log 108.) -/
def State.beginEvent (ex : Meaning) (d : Nat) (i : Instr) (s : State) : Result :=
  let r := s.writeWords (firstWords d (s.findWords ex i))
  .next (if r.2.isEmpty then s else { r.1 with ahead := some { event := i, finding := false, words := r.2 } })

/-- The event that is in progress does the rest. (DESIGN CHOICE, log 108.) -/
def Ahead.finish (ex : Meaning) (a : Ahead) (s : State) : Result :=
  match ex a.event s with
  | .next t => .next { t with ahead := none }
  | r => r

/-- What the hardware may do next: the rest of an engine event that is in progress, or anything that may occur. (DESIGN CHOICE, log 108.) -/
noncomputable def State.hardware (ex : Meaning) (s : State) (d : Nat) : List (State → Result) :=
  match s.ahead with
  | some a => [a.finish ex]
  | none => (s.autos d).map (fun f s => .next (f s)) ++ s.writingEvents.map (State.beginEvent ex d)

/-! ## The rotation (R162) and the order of events -/

/-- The half of which a strand's next instruction is; both where it is of either. -/
noncomputable def State.nextHalf (s : State) (m : Strand) : Side :=
  match m.deferred.head?, m.heldLag with
  | some d, none => (match d.work with
    | .withheld .. => .both
    | _ => d.lag)
  | _, _ =>
    match (s.focus m.sid).fetchNext with
    | .ok i _ => i.half
    | .bad .. => .both

/-- R161: whether a strand's next instruction is ready for a half. -/
noncomputable def State.readyFor (s : State) (m : Strand) (h : Side) : Bool :=
  m.readyOn h && (s.nextHalf m == h || s.nextHalf m == .both)

/-- R162: the ready slots of a core for a half, cyclically from a pointer on. -/
noncomputable def State.rotation (s : State) (core ptr : Nat) (h : Side) : List Strand :=
  let ms := s.strands.filter fun m => m.core == core && s.readyFor m h
  (List.range 16).filterMap fun k => ms.find? fun m => m.slot == (ptr + k) % 16

/-- R162: one pipe of a core chooses; the access pipe has priority in even cycles. The strand, whether the pipe is the execute
pipe, and the pointer that follows if it issues. The pipe that has no ready strand keeps its pointer. -/
noncomputable def State.pipeChoice (s : State) (core : Nat) : Option (StrandId × Bool × Nat) × State :=
  let c := s.core core
  let exe := if c.cycle % 2 = 0 then c.taken.isSome else c.taken.isNone
  let l := s.rotation core (if exe then c.rotE else c.rotA) (if exe then .execute else .access)
  match c.taken with
  | none =>
    (l.head?.map fun x => (x.sid, exe, (x.slot + 1) % 16),
      s.modifyCore core fun c => { c with taken := some (l.head?.map (·.slot)) })
  | some t =>
    let s := s.modifyCore core fun c => { c with taken := none, cycle := c.cycle + 1 }
    match l.find? fun x => some x.slot ≠ t with
    | none => (none, s)
    | some x => (some (x.sid, exe, if l.head?.map (·.slot) = t then t.getD 0 else (x.slot + 1) % 16), s)

/-- A pipe that has issued sets its pointer (R162). -/
def State.setPointer (s : State) (core : Nat) (exe : Bool) (p : Nat) : State :=
  s.modifyCore core fun c => if exe then { c with rotE := p } else { c with rotA := p }

/-- Whether the strand with an id has issued in its turn. -/
def State.hasIssued (s : State) (sid : StrandId) : Bool :=
  match s.strand? sid with
  | none => true
  | some m => m.note == .done || m.note == .parked || m.note == .trapped

/-- A pipe of a core has its turn. (DESIGN CHOICE, log 3.) -/
noncomputable def State.pipeTurn (ex : Meaning) (s : State) (core : Nat) : Result :=
  match s.pipeChoice core with
  | (none, s) => .next s
  | (some (sid, exe, p), s) =>
    match s.turnOf ex sid with
    | .next t => .next (if t.hasIssued sid then t.setPointer core exe p else t)
    | r => r

/-- A free choice: whether an instruction that makes several accesses makes all of them in this turn, or only the first few (R143,
R242). (DEDUCED, log 93.) -/
def State.breaking (s : State) (d : Nat) : State :=
  { s with burst := { cut := if d % 2 = 0 then none else some (d / 2 + 1) } }

def endBurst (r : Result) : Result :=
  match r with
  | .next t => .next { t with burst := {} }
  | r => r

/-- Nothing is set to occur: a pipe of some strand's core has its turn, a strand that was held is tried again, or the hardware
does something of itself. Which is a free choice. (DESIGN CHOICE, log 3; DESIGN CHOICE, log 91.) -/
noncomputable def State.rotate (ex : Meaning) (s : State) : Result :=
  let ms := s.strands
  let (n, s) := s.draw
  let (d, s) := s.draw
  let as := s.hardware ex d
  let n := n % (ms.length + as.length)
  match ms[n]? with
  | some m =>
    let s := s.breaking d
    endBurst (if m.readyOn .access || m.readyOn .execute then s.pipeTurn ex m.core else s.turnOf ex m.sid)
  | none =>
    match as[n - ms.length]? with
    | some f => f s
    | none => .next s

/-- R394: what still acts while the rails are off. -/
def actsUnpowered : Instr → Bool
  | .coldStart | .i3cRequest _ | .thermalWarning | .heartbeatTick => true
  | _ => false

/-- R318: the largest timestamp that a step may give. -/
def midnightLimit : Nat := 0xFFFFFF

/-- R378: the hardware takes the requests that stand in the control blocks. An answer may let a parked store fill the word anew:
that request is taken too. (DEDUCED, log 90.) -/
def State.takeRequests : Nat → State → State
  | 0, s => s
  | n + 1, s =>
    if s.requestsStand then
      State.takeRequests n ((List.finRange 16).foldl (fun s p => invalidationRequest p (killRequest p s)) s)
    else s

/-- R378: a request is taken in the step that fills its word. `m` is the memory before the step. (DEDUCED, log 90.) -/
def takeFilled (m : Mem) (r : Result) : Result :=
  match r with
  | .next t => .next (if t.mem.full = m.full then t else State.takeRequests (t.strands.length + 2) t)
  | r => r

/-- What follows every step: the requests that it filled are taken, yields see who is no longer ready, and engines may read
ahead. (DEDUCED, log 92.) -/
def afterStep (m : Mem) (r : Result) : Result :=
  match takeFilled m r with
  | .next t => .next t.pruneYields.readAhead
  | r => r

/-- One step of the machine, but for what follows it: a kill that has been requested (R376), an event, the turn of a strand, or a free choice. (DESIGN CHOICE, log 3; DEDUCED, log 42.) -/
noncomputable def State.advance (ex : Meaning) (s : State) : Result :=
  if s.always.railsOff then
    match s.pending with
    | [] => .fault .railsOff
    | i :: is =>
      let t : State := { s with pending := is }
      if actsUnpowered i then ex i t else .next t
  else
    match s.launches.find? fun l => l.kill == .requested with
    | some l => .next (s.killStep l)
    | none =>
      match s.pending with
      | i :: is =>
        let t : State := { s with pending := is }
        if i.isEvent then ex i t else .next t
      | [] =>
        match s.turns with
        | sid :: r => ({ s with turns := r } : State).turnOf ex sid
        | [] => s.rotate ex

/-- R318: a step that would give a timestamp above 0xFF_FFFF is held until the pause has ended. -/
def holdForMidnight (s : State) (r : Result) : Result :=
  match r with
  | .next t => .next (if midnightLimit < t.latest ∧ s.latest ≠ 0 then pauseAtMidnight s else t)
  | r => r

/-- One step of the machine. -/
noncomputable def State.stepWith (ex : Meaning) (s : State) : Result :=
  holdForMidnight s (afterStep s.mem (s.advance ex))

end Sys2Proof.Machine
end

