-- ==== Sys2Proof/Machine/Step.lean ====
section
/-! DEFINITION. One step of the machine, and a program's place in it. -/

namespace Sys2Proof.Machine

/-- One step of the machine. (DESIGN CHOICE, log 5.) -/
noncomputable def step (s : State) : Host.Outcome State Fault Refusal := s.stepWith exec

/-! ## Where a program stands

Nothing runs from reset (R391): the management plane assigns a partition and the host rings a doorbell. `boot` stands for
the steps by which a graph of one kernel node comes to run one strand. -/

/-- The address at which the strand of `boot` begins, the page tables' root and the place of its page in HBM. -/
def bootPc : Word := 0x100000000#64
def bootRoot : Word := 0x1000#64
def bootPage : Nat := 0x40000000

/-- A configuration block that assigns cluster 0 and channel 0 (R362). (DESIGN CHOICE, log 2.) -/
def bootPartition : Partition := { block := [(0x08, 1#8), (0x60, 1#8), (0x9A, 16#8)], state := .running }

/-- A launch of one kernel node, which has created its one strand. (DESIGN CHOICE, log 2.) -/
def bootLaunch : Launch where
  part := 0
  tag := 0#16
  queue := 0
  vf := 0
  root := bootRoot
  compl := 0#64
  prio := 0
  flags := 0#8
  vec := 0#16
  nodes := [{ kind := .kernel bootPc 0#64 0#64 [] 1 1 0, npred := 0, succ := [], state := .running, created := 1 }]
  start := 0
  lastStart := 0

/-- The strand of that node, in slot 0 of core 0. -/
def bootStrand (s : State) : Strand := { sid := mkSid s.pkg 0 0 (Tab.get 0 s.gens 0), pc := bootPc }

/-- A root table whose first entry names a table whose entry 4 is an executable leaf of 1 GiB (R304, R305). (DESIGN CHOICE, log 2.) -/
def bootTables (m : Mem) : Mem := (m.write (hbmKey 0x1000) 8 0x2001).write (hbmKey 0x2020) 8 (2 ^ 63 + bootPage + 0xB)

/-- The state in which the strand of `boot` runs. (DESIGN CHOICE, log 2.) -/
def State.boot (s : State) : State :=
  { s with me := bootStrand s, launches := [bootLaunch], parts := s.parts.set 0 bootPartition, mem := bootTables s.mem }

/-- The state with an instruction's bits stored where the strand in turn fetches next, and that strand's turn set next.
Where no strand is in turn, one is made as `boot` says. (DESIGN CHOICE, log 2.) -/
def State.withFetchWord (s : State) (nbits w : Nat) : State :=
  let t := if s.me.sid = Strand.absent.sid then s.boot else s
  match t.checkFetch t.me.pc with
  | .ok p =>
    ({ t with mem := t.mem.write p.key 12 (w % 2 ^ nbits), pending := [], turns := [t.me.sid] } : State).modifyCore t.me.core
      fun c => { c with icache := [] }
  | .error _ => t

end Sys2Proof.Machine
end

