-- ==== Sys2Proof/Safety.lean ====
section
/-! DEFINITION. What counts as a safe run, and the terms in which claims speak of states: halves that stand together, what an instruction leaves alone, and the canonical forms. -/

namespace Sys2Proof.Machine

/-- The next `n` steps are safe: none of them faults and none is refused. -/
def Safe : Nat → State → Prop
  | 0, _ => True
  | n + 1, s => ∃ t, step s = .next t ∧ Safe n t

/-- Both halves of the strand in turn stand at the instruction now issuing (R21, R48). -/
def Level (s : State) : Prop := s.me.deferred = [] ∧ s.me.undo = none

/-- No lookahead window of the strand in turn is open (R49). -/
def Settled (s : State) : Prop := s.me.ctx.windowOpen = false

/-- Nothing but the context of the strand in turn has changed, and its instruction is complete: memory, every other strand,
the program counter that `step` has set, and the rest of the machine are as before. -/
def OnlyContext (s t : State) : Prop := t = s.done t.me.ctx

/-- Memory reads as before at every byte, with every full/empty bit and poison mark. -/
def SameMemory (s t : State) : Prop :=
  ∀ a, t.mem.byte a = s.mem.byte a ∧ t.mem.keptFull a = s.mem.keptFull a ∧ t.mem.poisoned a = s.mem.poisoned a

/-- Memory reads as before outside `n` bytes from a key. -/
def SameMemoryBut (s t : State) (key n : Nat) : Prop := ∀ a, (a < key ∨ key + n ≤ a) → t.mem.byte a = s.mem.byte a

/-- The system, accumulator and exception state of a context that no instruction of the plain families writes. -/
def SameSpecial (c e : Context) : Prop :=
  e.sys.tsave = c.sys.tsave ∧ e.sys.trappc = c.sys.trappc ∧ e.sys.trapcause = c.sys.trapcause ∧
    e.sys.trapval = c.sys.trapval ∧ e.sys.scratch = c.sys.scratch ∧ e.sys.tqstat = c.sys.tqstat ∧
    e.sys.tqbits = c.sys.tqbits ∧ e.sys.tqlq = c.sys.tqlq ∧ e.sys.tqsq = c.sys.tqsq

end Sys2Proof.Machine

namespace Sys2Proof.Claims
open Sys2Proof.Machine

/-- The entries of the two value queues stay, but for what an instruction pops and pushes (R16): the context with one more
entry in the queue that a half writes. -/
def pushed (h : Side) (v : Word) (c : Context) : Context :=
  match h with
  | .access => { c with queues := { c.queues with lq := c.queues.lq ++ [v] } }
  | _ => { c with queues := { c.queues with sq := c.queues.sq ++ [v] } }

/-- Whether a destination can take a value: a queue needs a free entry of its 16 (R16). -/
def hasRoom (h : Side) (d : Reg) (c : Context) : Prop :=
  d = .queue → (match h with
    | .access => c.queues.lq.length
    | _ => c.queues.sq.length) < 16

/-- Everything of a context but its scalar registers, the open windows and the predicates is as before. -/
def SameRest (c e : Context) : Prop :=
  e.queues = c.queues ∧ e.sys = c.sys ∧ e.acc.q = c.acc.q ∧ e.acc.left = c.acc.left ∧ e.acc.idx = c.acc.idx ∧
    e.acc.last = c.acc.last ∧ e.acc.poisonCnt = c.acc.poisonCnt ∧ e.acc.refused = c.acc.refused ∧
    e.acc.migrated = c.acc.migrated ∧ e.vec.w = c.vec.w ∧ e.vec.v = c.vec.v ∧ e.vec.tag = c.vec.tag ∧
    e.vec.k = c.vec.k ∧ e.vec.slice = c.vec.slice

/-- What writing `v` to the destination `d` does, and its frame (R29, R50): a register holds it from the next instruction
on, whatever window is open; code 12 discards it; code 14 pushes it; every other register, predicate, flag, special
register and queue entry is as before. -/
def Wrote (h : Side) (d : Reg) (v : Word) (c e : Context) : Prop :=
  match d with
  | .a n => e.acc.a[n] = v ∧ (∀ m, m ≠ n → e.acc.a[m] = c.acc.a[m]) ∧ e.exe.d = c.exe.d ∧ e.preds = c.preds ∧
      SameRest c e ∧ (∀ w ∈ e.acc.windows ++ e.exe.windows ++ e.vec.windows, ∀ x ∈ w.writes, x.same (.a n v) = false)
  | .d n => e.exe.d[n] = v ∧ (∀ m, m ≠ n → e.exe.d[m] = c.exe.d[m]) ∧ e.acc.a = c.acc.a ∧ e.preds = c.preds ∧
      SameRest c e ∧ (∀ w ∈ e.acc.windows ++ e.exe.windows ++ e.vec.windows, ∀ x ∈ w.writes, x.same (.d n v) = false)
  | .queue => e = pushed h v c
  | _ => e = c

/-- What writing a predicate does, and its frame: p0 discards it (R15). -/
def WrotePred (p : BitVec 4) (b : Bool) (c e : Context) : Prop :=
  (∀ q : BitVec 4, e.pred q = if q = 0#4 then true else if q = p then b else c.pred q) ∧
    e.acc.a = c.acc.a ∧ e.exe.d = c.exe.d ∧ SameRest c e

/-- Adds sticky flags to the status half-word (R76). -/
def flagged (f : FpFlags) (c : Context) : Context :=
  { c with sys := { c.sys with status := Machine.raise f c.sys.status } }

/-- A trap has been taken in user mode (R103, R105): the strand stands at the handler with the halves brought together,
the queues are in the save area and empty, TSAVE holds the old status half-word, SUP is 1, and TRAPPC, TRAPCAUSE and
TRAPVAL hold what R91, R98 and R106 say. Nothing else of the machine has changed. -/
def TrapTaken (s t : State) (code : Byte) (val ret : Word) : Prop :=
  let c := s.me.precise
  let y := t.me.ctx.sys
  t = { s with me := { s.me with
    ctx := { c with sys := y, queues := {} }, pc := s.myPart.trapvec, deferred := [], undo := none, frame := .running
    wait := none, fencePast := false, regionMet := false, stay := false, pendingTrap := none, heldLag := none, heldLead := false
    note := .trapped } } ∧
  y.trappc = ret ∧ y.trapval = val ∧
  y.trapcause.extractLsb' 0 8 = code ∧ y.trapcause.extractLsb' 8 2 = halfCode s.me.issue.half ∧
  y.trapcause.extractLsb' 10 1 = BitVec.ofBool s.me.issue.long ∧ y.trapcause.extractLsb' 11 2 = BitVec.ofNat 2 s.me.issue.nlit ∧
  y.trapcause.extractLsb' 13 14 = BitVec.ofNat 14 s.me.issue.ntab ∧ y.trapcause.extractLsb' 27 37 = 0#37 ∧
  y.tsave = c.sys.status ∧ y.status = c.sys.status ||| 0x8000#16 ∧ y.scratch = c.sys.scratch ∧
  y.tqstat = BitVec.ofNat 64 (c.queues.lq.length + 0x100 * c.queues.sq.length + 0x10000 * c.queues.bqa.length +
    0x100000 * c.queues.bqe.length) ∧
  (∀ i : Fin 16, y.tqlq[i] = c.queues.lq.getD i 0#64 ∧ y.tqsq[i] = c.queues.sq.getD i 0#64) ∧
  y.tqbits = c.queues.bits

/-- The queues hold no more than their places (R15). -/
def Fits (q : Queues) : Prop := q.lq.length ≤ 16 ∧ q.sq.length ≤ 16 ∧ q.bqa.length ≤ 8 ∧ q.bqe.length ≤ 8

/-- The guard of an instruction of major 0x14 holds, and its outcome passes between halves that stand together (R84, R90). -/
def Passes (s : State) (g : Guard) : Prop :=
  Level s ∧ (g.p = 0#4 ∨ (s.me.ctx.holds g = true ∧ s.me.ctx.queues.outcomes (predOwner g.p) = []))

/-- The strand in turn has parked at its instruction, which has had no effect, for a wait (R164, R124). -/
def ParkedFor (s t : State) (w : Wait) : Prop :=
  t.me = { s.me with pc := s.me.issue.addr, pos := s.me.issue.pos, frame := .parked, wait := some w, note := .parked }

/-- No strand has parked and no access of another package waits at a word here: nothing completes when a word changes (R122). -/
def NoWaiters (s : State) : Prop :=
  s.me.frame ≠ .parked ∧ (∀ m ∈ s.others, m.frame ≠ .parked) ∧ s.outsideWaits = []

/-- The data register of a memory instruction gives the operands `vs` and can take the result, if there is one, leaving `c` (R48, R116): an
a-register or code 12 at once, a d-register where both halves stand together and the value queues are empty, and code 14
from `sq` and into `lq`. -/
def DataReady (s : State) (x : Reg) (n : Nat) (res : Bool) (vs : List Word) (c : Context) : Prop :=
  match x with
  | .d _ => s.partsOf x = .joined ∧ s.me.ctx.queues.lq = [] ∧ s.me.ctx.queues.sq = [] ∧ vs = s.me.ctx.regRun x n ∧ c = s.me.ctx
  | .queue => n ≤ s.me.ctx.queues.sq.length ∧ (res = true → s.me.ctx.queues.lq.length < 16) ∧ vs = s.me.ctx.queues.sq.take n ∧
      c = { s.me.ctx with queues := { s.me.ctx.queues with sq := s.me.ctx.queues.sq.drop n } }
  | _ => vs = s.me.ctx.regRun x n ∧ c = s.me.ctx

/-- An access of `n` bytes at an address passes the checks of R114 and reaches a byte of HBM or of an on-chip window of this package
with no poison in its words, in a page whose translation is buffered, from a strand that the access does not draw away (R22). `priv` says that the page is private. -/
def Reaches (s : State) (va : Word) (n : Nat) (need : Need) (key : Nat) (priv : Bool) : Prop :=
  ∃ pl, s.check va n need = .ok pl ∧ pl.key = key ∧ pl.walked = false ∧ key + 8 ≤ 2 ^ 51 ∧ s.drawnTo key = none ∧
    s.poisonedWords key n = [] ∧
    priv = (match pl.page with
      | none => false
      | some e => leafCls e.leaf == 1)

/-- The L1 of the strand's core serves no load of these bytes: the page is private, the home is uncached, or no current span holds them (R310 to R312). -/
def Misses (s : State) (key n : Nat) (priv : Bool) : Prop :=
  priv = true ∨ uncached key = true ∨ ∀ x ∈ (s.core s.me.core).spans, (x.holds key n && s.me.ts ≤ x.rts) = false

/-- What a result does to the data register: with lookahead 0 it is there from the next instruction on, and with more the
register keeps its old value in a window of that many instructions (R49, R116). -/
def Received (s : State) (la : BitVec 4) (x : Reg) (v : Word) (c e : Context) : Prop :=
  c.writeReg .access s.me.issue.pos (s.lookahead la.toNat) x v = .ok e ∧ (la = 0#4 → Wrote .access x v c e)

/-- The instruction is complete, and has changed neither the other strands nor where the strand goes on; its timestamp has not fallen. -/
def Completes (s t : State) : Prop := t.me.note = .done ∧ t.me.pc = s.me.pc ∧ t.others = s.others ∧ s.me.ts ≤ t.me.ts

/-- The word or the two words that a full/empty operation tests, all full or all empty. -/
def AllFull (s : State) (key n : Nat) (b : Bool) : Prop := ∀ k ∈ feWords key n, s.mem.isFull k = b

/-- The turn of the strand makes all accesses of an instruction that makes several (R143, R242). -/
def Unbroken (s : State) : Prop := s.burst.cut = none ∧ s.burst.replay = []

/-- Memory with the 32-bit counter at a key one higher, saturating (R198). -/
def counted (m : Mem) (a : Nat) : Mem := m.write a 4 (counterSucc (m.read a 4))

/-- The bytes of `v` stand from `key` on, and every other byte reads as before (R3). -/
def Stored (s t : State) (key n : Nat) (v : Nat) : Prop :=
  (∀ i, i < n → t.mem.byte (key + i) = BitVec.ofNat 8 (v / 256 ^ i)) ∧ SameMemoryBut s t key n

/-- The full/empty bits of the named words become `b`, and every other bit stays. -/
def BitsBecome (s t : State) (ks : List Nat) (b : Bool) : Prop :=
  ∀ a, t.mem.keptFull a = if (ks.map (· / 4)).contains (a / 4) then b else s.mem.keptFull a

/-- Whether a lane of the claim is active under a mask: every lane under k0 (R225). -/
def isActive (c : Context) (k : BitVec 3) (i : Nat) : Bool := k == 0#3 || c.vec.k[k.toNat].getLsbD i

/-- Everything of a context but its vector registers, their tags, the open windows and the sticky flags is as before. -/
def SameScalar (c e : Context) : Prop :=
  e.acc.a = c.acc.a ∧ e.exe.d = c.exe.d ∧ e.preds = c.preds ∧ e.acc.q = c.acc.q ∧ e.queues = c.queues ∧
    SameSpecial c e ∧ e.vec.w = c.vec.w ∧ e.vec.k = c.vec.k ∧ e.vec.slice = c.vec.slice

/-- What a vector instruction leaves (R225): an active lane holds `f i`, an inactive one its old bits or, under zeroing, 0; the
register takes the tag `t`, every other vector register stays, and the flags of the active lanes alone are raised. -/
def WroteLanes (z : Bool) (k : BitVec 3) (vd : BitVec 4) (t : Tag) (f : Nat → LaneResult) (c e : Context) : Prop :=
  e.vtag vd = t ∧ (e.vreg vd).length = c.vec.w ∧
    (∀ i, i < c.vec.w → e.lane vd i = if isActive c k i then (f i).1 else if z then 0#32 else c.lane vd i) ∧
    (∀ r : BitVec 4, r ≠ vd → e.vreg r = c.vreg r ∧ e.vtag r = c.vtag r) ∧ SameScalar c e ∧
    e.sys.status = c.sys.status ||| ((List.range c.vec.w).map fun i => if isActive c k i then (f i).2.bits else 0#16).foldl (· ||| ·) 0#16

/-- A vector instruction traps in user mode with a cause and value of R106. -/
def Refuses (s : State) (i : Instr) (code : Byte) (val : Word) : Prop := ∃ t, exec i s = .next t ∧ TrapTaken s t code val s.me.issue.addr

/-- What a mask instruction leaves (R219, R240): bit `i` of the mask is `v i` for each lane of the claim and 0 beyond, k0 takes no
write, and every other mask and register is as before. -/
def WroteMask (kd : BitVec 4) (v : Nat → Bool) (c e : Context) : Prop :=
  (∀ q : Fin 8, ∀ i, i < 256 → e.vec.k[q].getLsbD i = if q.val = kd.toNat % 8 ∧ q.val ≠ 0 then decide (i < c.vec.w) && v i else c.vec.k[q].getLsbD i) ∧
    e.vec.v = c.vec.v ∧ e.vec.tag = c.vec.tag ∧ e.vec.w = c.vec.w ∧ e.vec.slice = c.vec.slice ∧
    e.acc.a = c.acc.a ∧ e.exe.d = c.exe.d ∧ e.preds = c.preds ∧ e.acc.q = c.acc.q ∧ e.queues = c.queues ∧ SameSpecial c e

/-- A call handle as a wait or a query sees it (R404, R427): its record is complete, or it names none. -/
def isOver (state : Option Nat) : Bool :=
  match state with
  | some n => n == 2
  | none => true

end Sys2Proof.Claims
end

