-- ==== Sys2Proof/Certificates/Slice0/Obligations.lean ====
section
/-! DEFINITION. The statements about the model for the provers, with the words they are stated in. -/

section
open Sys2Proof Sys2Proof.Machine Sys2Proof.Claims

/-- The two-source integer operations of R60 to R66: guard, destination, sources and result. -/
def Sys2Proof.Claims.intOp : Instr → Option (Guard × Reg × Reg × Reg × (Word → Word → Word))
  | .add g d s1 s2 => some (g, d, s1, s2, fun a b => a + b)
  | .sub g d s1 s2 => some (g, d, s1, s2, fun a b => a - b)
  | .and g d s1 s2 => some (g, d, s1, s2, fun a b => a &&& b)
  | .or g d s1 s2 => some (g, d, s1, s2, fun a b => a ||| b)
  | .xor g d s1 s2 => some (g, d, s1, s2, fun a b => a ^^^ b)
  | .andn g d s1 s2 => some (g, d, s1, s2, fun a b => a &&& ~~~b)
  | .orn g d s1 s2 => some (g, d, s1, s2, fun a b => a ||| ~~~b)
  | .shl g d s1 s2 => some (g, d, s1, s2, fun a b => a <<< (b.toNat % 64))
  | .shr g d s1 s2 => some (g, d, s1, s2, fun a b => a >>> (b.toNat % 64))
  | .sar g d s1 s2 => some (g, d, s1, s2, fun a b => a.sshiftRight (b.toNat % 64))
  | .ror g d s1 s2 => some (g, d, s1, s2, fun a b => a.rotateRight (b.toNat % 64))
  | .addsc2 g d s1 s2 => some (g, d, s1, s2, fun a b => a + b * 2#64)
  | .addsc4 g d s1 s2 => some (g, d, s1, s2, fun a b => a + b * 4#64)
  | .addsc8 g d s1 s2 => some (g, d, s1, s2, fun a b => a + b * 8#64)
  | .addsc16 g d s1 s2 => some (g, d, s1, s2, fun a b => a + b * 16#64)
  | .mul g d s1 s2 => some (g, d, s1, s2, fun a b => a * b)
  | .mulh g d s1 s2 => some (g, d, s1, s2, fun a b => BitVec.ofInt 64 (a.toInt * b.toInt / 2 ^ 64))
  | .mulhu g d s1 s2 => some (g, d, s1, s2, fun a b => BitVec.ofNat 64 (a.toNat * b.toNat / 2 ^ 64))
  | .div g d s1 s2 => some (g, d, s1, s2, fun a b => if b = 0#64 then BitVec.allOnes 64 else BitVec.ofInt 64 (a.toInt.tdiv b.toInt))
  | .divu g d s1 s2 => some (g, d, s1, s2, fun a b => if b = 0#64 then BitVec.allOnes 64 else BitVec.ofNat 64 (a.toNat / b.toNat))
  | .rem g d s1 s2 => some (g, d, s1, s2, fun a b => if b = 0#64 then a else BitVec.ofInt 64 (a.toInt.tmod b.toInt))
  | .remu g d s1 s2 => some (g, d, s1, s2, fun a b => if b = 0#64 then a else BitVec.ofNat 64 (a.toNat % b.toNat))
  | .min g d s1 s2 => some (g, d, s1, s2, fun a b => if a.slt b then a else b)
  | .max g d s1 s2 => some (g, d, s1, s2, fun a b => if a.slt b then b else a)
  | .minu g d s1 s2 => some (g, d, s1, s2, fun a b => if a.ult b then a else b)
  | .maxu g d s1 s2 => some (g, d, s1, s2, fun a b => if a.ult b then b else a)
  | .clz g d s1 => some (g, d, s1, .zero, fun a _ => clz a)
  | .ctz g d s1 => some (g, d, s1, .zero, fun a _ => ctz a)
  | .popc g d s1 => some (g, d, s1, .zero, fun a _ => popc a)
  | .brev g d s1 => some (g, d, s1, .zero, fun a _ => brev a)
  | .bswap g d s1 => some (g, d, s1, .zero, fun a _ => bswap a)
  | .sext g d s1 s2 => some (g, d, s1, s2, fun a b => sextN (extWidth b) a)
  | .zext g d s1 s2 => some (g, d, s1, s2, fun a b => zextN (extWidth b) a)
  | .bext g d s1 s2 => some (g, d, s1, s2, bextW)
  | .bset g d s1 s2 => some (g, d, s1, s2, fun a b => a ||| (1#64 <<< (b.toNat % 64)))
  | .bclr g d s1 s2 => some (g, d, s1, s2, fun a b => a &&& ~~~(1#64 <<< (b.toNat % 64)))
  | _ => none

/-- The immediate operations of R70 to R73: destination, source and result. -/
def Sys2Proof.Claims.immOp : Instr → Option (Reg × Reg × (Word → Word))
  | .addi d s1 m => some (d, s1, fun a => a + m.signExtend 64)
  | .andi d s1 m => some (d, s1, fun a => a &&& m.signExtend 64)
  | .ori d s1 m => some (d, s1, fun a => a ||| m.signExtend 64)
  | .xori d s1 m => some (d, s1, fun a => a ^^^ m.signExtend 64)
  | .shli d s1 n => some (d, s1, fun a => a <<< n.toNat)
  | .shri d s1 n => some (d, s1, fun a => a >>> n.toNat)
  | .sari d s1 n => some (d, s1, fun a => a.sshiftRight n.toNat)
  | .rori d s1 n => some (d, s1, fun a => a.rotateRight n.toNat)
  | .lih d m => some (d, .zero, fun _ => (m ++ 0#12).signExtend 64)
  | _ => none

/-- The scalar floating-point operations of R75 to R83: guard, width, whether the old destination is read, destination,
sources and result. -/
def Sys2Proof.Claims.fltOp (rm : Rounding) : Instr → Option (Guard × Bool × Bool × Reg × Reg × Reg × (Fmt → Nat → Nat → Nat → Nat × FpFlags))
  | .fadd g w d s1 s2 => some (g, w, false, d, s1, s2, fun f a b _ => f.addOp rm a b)
  | .fsub g w d s1 s2 => some (g, w, false, d, s1, s2, fun f a b _ => f.subOp rm a b)
  | .fmul g w d s1 s2 => some (g, w, false, d, s1, s2, fun f a b _ => f.mulOp rm a b)
  | .ffma g w d s1 s2 => some (g, w, true, d, s1, s2, fun f a b c => f.fmaOp rm false false a b c)
  | .fdiv g w d s1 s2 => some (g, w, false, d, s1, s2, fun f a b _ => f.divOp rm a b)
  | .fsqrt g w d s1 => some (g, w, false, d, s1, .zero, fun f a _ _ => f.sqrtOp rm a)
  | .fmin g w d s1 s2 => some (g, w, false, d, s1, s2, fun f a b _ => f.minMax false a b)
  | .fmax g w d s1 s2 => some (g, w, false, d, s1, s2, fun f a b _ => f.minMax true a b)
  | .fclass g w d s1 => some (g, w, false, d, s1, .zero, fun f a _ _ => (2 ^ classBit f a, {}))
  | _ => none

/-- The float comparisons of R79: guard, width, predicate, sources, whether only a signalling NaN raises NV, and the result. -/
def Sys2Proof.Claims.fltCmp : Instr → Option (Guard × Bool × BitVec 4 × Reg × Reg × Bool × (Fp → Fp → Bool))
  | .fcmpEq g w p s1 s2 => some (g, w, p, s1, s2, true, fun x y => x.numEq y)
  | .fcmpLt g w p s1 s2 => some (g, w, p, s1, s2, false, fun x y => x.numLt y)
  | .fcmpLe g w p s1 s2 => some (g, w, p, s1, s2, false, fun x y => x.numLt y || x.numEq y)
  | .fcmpUn g w p s1 s2 => some (g, w, p, s1, s2, true, fun x y => x.isNaN || y.isNaN)
  | _ => none

/-- The comparisons of integers that set a predicate: guard, predicate, sources and result (R65, R67, R72). -/
def Sys2Proof.Claims.intCmp : Instr → Option (Guard × BitVec 4 × Reg × Reg × (Word → Word → Bool))
  | .cmp g cc p s1 s2 => some (g, p, s1, s2, condHolds cc)
  | .cmpi cc p s1 m => some (⟨false, 0#4⟩, p, s1, .zero, fun a _ => condHolds cc a (m.signExtend 64))
  | .btst g p s1 s2 => some (g, p, s1, s2, fun a b => (a >>> (b.toNat % 64)).getLsbD 0)
  | _ => none

/-- What reading a source gives: registers, zero, a literal, or the oldest entry of a queue. For every context: code 0 to 11 and 16 to 27 read their registers, code 12 reads 0, code 13 reads the literal word sign-extended to 64 bits, and code 14 pops the oldest entry of sq (access half) or lq (execute half), or is held on that queue where it is empty. Nothing but the popped entry changes. (R29, R28, R16) -/
def Obligations.SourceForms : Prop :=
  (∀ (h : Side) (n : Fin 12) (c : Context), c.read h (.a n) = .ok (c.acc.a[n], c)) ∧
  (∀ (h : Side) (n : Fin 12) (c : Context), c.read h (.d n) = .ok (c.exe.d[n], c)) ∧
  (∀ (h : Side) (c : Context), c.read h .zero = .ok (0#64, c)) ∧
  (∀ (h : Side) (w : Word32) (c : Context), c.read h (.lit w) = .ok (w.signExtend 64, c)) ∧
  (∀ (c : Context) (x : Word) (r : List Word), c.queues.sq = x :: r →
    c.read .access .queue = .ok (x, { c with queues := { c.queues with sq := r } })) ∧
  (∀ (c : Context) (x : Word) (r : List Word), c.queues.lq = x :: r →
    c.read .execute .queue = .ok (x, { c with queues := { c.queues with lq := r } })) ∧
  (∀ c : Context, c.queues.sq = [] → c.read .access .queue = .error .sq) ∧
  (∀ c : Context, c.queues.lq = [] → c.read .execute .queue = .error .lq)

/-- Every two-source integer operation writes the result of its table to its destination, and nothing else. For every ADD to ADDSC, MUL to MAXU, DIV to REMU, CLZ to BSWAP, SEXT, ZEXT, BEXT, BSET and BCLR, every operand form and every state: where the two sources can be read in order (a queue source has an entry), the guard holds and a queue destination has room, exec answers the state in which only the strand's context differs, and that context has the result in the destination, with every other register, predicate, flag, special register, vector register and queue entry as after the reads. Division by zero gives all ones and the dividend; the most negative number over -1 gives itself and 0. (R59, R60, R62, R63, R65, R50) -/
def Obligations.IntegerResults : Prop :=
  ∀ (i : Instr) (g : Guard) (d s1 s2 : Reg) (f : Word → Word → Word) (s : State) (x y : Word) (c1 c2 : Context),
    intOp i = some (g, d, s1, s2, f) → s.me.ctx.read i.half s1 = .ok (x, c1) → c1.read i.half s2 = .ok (y, c2) →
    c2.holds g = true → hasRoom i.half d c2 →
    ∃ t, exec i s = .next t ∧ OnlyContext s t ∧ t.me.note = .done ∧ Wrote i.half d (f x y) c2 t.me.ctx

/-- Every immediate operation writes the result of its table to its destination, and nothing else. For ADDI, ANDI, ORI, XORI, SHLI, SHRI, SARI, RORI and LIH, every operand form and every state: where the source can be read and a queue destination has room, exec answers a state in which only the strand's context differs, with the result in the destination and everything else as after the read. Immediates of 15 bits are sign-extended; LIH places 20 bits at bit 12 and sign-extends. (R70, R71, R73, R50) -/
def Obligations.ImmediateResults : Prop :=
  ∀ (i : Instr) (d s1 : Reg) (f : Word → Word) (s : State) (x : Word) (c1 : Context),
    immOp i = some (d, s1, f) → s.me.ctx.read i.half s1 = .ok (x, c1) → hasRoom i.half d c1 →
    ∃ t, exec i s = .next t ∧ OnlyContext s t ∧ t.me.note = .done ∧ Wrote i.half d (f x) c1 t.me.ctx

/-- SEL writes its first source where the predicate holds and its second otherwise; BINS inserts a field into its old destination. For SEL with every operand form and every state: where both sources can be read and a queue destination has room, exec answers a state in which only the context differs and the destination holds S1 when pn XOR N is 1 and S2 otherwise. For BINS: where S1, S2 and then D can be read, the guard holds and a queue destination has room, the destination holds the old value with c[pos+len-1:pos] replaced by a[len-1:0]. (R61, R59, R65, R66) -/
def Obligations.SelectAndInsert : Prop :=
  (∀ (g : Guard) (d s1 s2 : Reg) (s : State) (x y : Word) (c1 c2 : Context),
    s.me.ctx.read (Instr.sel g d s1 s2).half s1 = .ok (x, c1) → c1.read (Instr.sel g d s1 s2).half s2 = .ok (y, c2) →
    hasRoom (Instr.sel g d s1 s2).half d c2 →
    ∃ t, exec (.sel g d s1 s2) s = .next t ∧ OnlyContext s t ∧ t.me.note = .done ∧
      Wrote (Instr.sel g d s1 s2).half d (if s.me.ctx.pred g.p != g.neg then x else y) c2 t.me.ctx) ∧
  (∀ (g : Guard) (d s1 s2 : Reg) (s : State) (x y z : Word) (c1 c2 c3 : Context),
    s.me.ctx.read (Instr.bins g d s1 s2).half s1 = .ok (x, c1) → c1.read (Instr.bins g d s1 s2).half s2 = .ok (y, c2) →
    c2.read (Instr.bins g d s1 s2).half d = .ok (z, c3) → c3.holds g = true → hasRoom (Instr.bins g d s1 s2).half d c3 →
    ∃ t, exec (.bins g d s1 s2) s = .next t ∧ OnlyContext s t ∧ t.me.note = .done ∧
      Wrote (Instr.bins g d s1 s2).half d (binsW x y z) c3 t.me.ctx)

/-- CMP, CMPI and BTST set one predicate and nothing else, and PLOG, PGET and PPUT combine, read and write the predicates of their half. For CMP, CMPI and BTST, every operand form and every state: where the sources can be read and the guard holds, exec answers a state in which only the context differs: the named predicate holds the condition (p0 still reads 1), and every other predicate, register, flag and queue entry is as after the reads. For every state: PLOG whose guard holds sets pd to its operation of pa and pb; PGET whose guard holds and whose destination has room writes the predicates its half reads, with bit 0 set, to D; PPUT whose guard holds and whose sources can be read sets predicate n of its half to bit n of S1 where bit n of S2 is one, leaves the others, and never changes p0 or the other half's predicates. Only the context differs. (R59, R65, R67, R72, R68, R69) -/
def Obligations.ComparisonsAndPredicates : Prop :=
  (∀ (i : Instr) (g : Guard) (p : BitVec 4) (s1 s2 : Reg) (f : Word → Word → Bool) (s : State) (x y : Word) (c1 c2 : Context),
    intCmp i = some (g, p, s1, s2, f) → s.me.ctx.read i.half s1 = .ok (x, c1) → c1.read i.half s2 = .ok (y, c2) →
    c2.holds g = true →
    ∃ t, exec i s = .next t ∧ OnlyContext s t ∧ t.me.note = .done ∧ WrotePred p (f x y) c2 t.me.ctx) ∧
  (∀ (g : Guard) (op : BitVec 3) (pd pa pb : BitVec 4) (s : State), s.me.ctx.holds g = true →
    ∃ t, exec (.plog g op pd pa pb) s = .next t ∧ OnlyContext s t ∧ t.me.note = .done ∧
      WrotePred pd (plogOp op (s.me.ctx.pred pa) (s.me.ctx.pred pb)) s.me.ctx t.me.ctx) ∧
  (∀ (g : Guard) (d : Reg) (s : State), s.me.ctx.holds g = true → hasRoom (Instr.pget g d).half d s.me.ctx →
    ∃ t, exec (.pget g d) s = .next t ∧ OnlyContext s t ∧ t.me.note = .done ∧
      Wrote (Instr.pget g d).half d (predWord (Instr.pget g d).half s.me.ctx) s.me.ctx t.me.ctx) ∧
  (∀ (h : Side) (c : Context) (n : Nat), n < 64 → (predWord h c).getLsbD n =
    (decide (n < 16) && ((n == 0) || (decide (n < 8) == (h == .access))) && c.pred (BitVec.ofNat 4 n))) ∧
  (∀ (g : Guard) (s1 s2 : Reg) (s : State) (x y : Word) (c1 c2 : Context),
    s.me.ctx.read (Instr.pput g s1 s2).half s1 = .ok (x, c1) → c1.read (Instr.pput g s1 s2).half s2 = .ok (y, c2) →
    c2.holds g = true →
    ∃ t, exec (.pput g s1 s2) s = .next t ∧ OnlyContext s t ∧ t.me.note = .done ∧
      (∀ q : BitVec 4, t.me.ctx.pred q =
        if q ≠ 0#4 ∧ (q.toNat < 8 ↔ (Instr.pput g s1 s2).half = .access) ∧ y.getLsbD q.toNat = true then x.getLsbD q.toNat
        else c2.pred q) ∧
      t.me.ctx.acc.a = c2.acc.a ∧ t.me.ctx.exe.d = c2.exe.d ∧ SameRest c2 t.me.ctx)

/-- Float operations, conversions and comparisons write their rounded result or their predicate and raise their flags, and nothing else. For FADD, FSUB, FMUL, FFMA, FDIV, FSQRT, FMIN, FMAX and FCLASS in both widths, every operand form and every state: where S1, S2 and (for FFMA) the old D can be read, the guard holds and a queue destination has room, exec answers a state in which only the context differs: the result, in the rounding mode of FRM and zero-extended from the width, is in the destination, the flags it raises are added to the sticky flags, and the rest is as after the reads. For FCVT in both widths and every selector the same, with the conversion of R80 and R81 under its own rounding mode. For FCMP.EQ, LT, LE and UN in both widths, every operand form and state: where the sources can be read and the guard holds, exec answers a state in which only the context differs: the predicate holds the comparison, NV is raised on a signalling NaN for EQ and UN and on any NaN for LT and LE, and the rest is as after the reads. (R59, R74, R75, R76, R78, R80, R81, R82, R79) -/
def Obligations.FloatResults : Prop :=
  (∀ (i : Instr) (g : Guard) (w old : Bool) (d s1 s2 : Reg) (f : Fmt → Nat → Nat → Nat → Nat × FpFlags) (s : State) (x y z : Word)
    (c1 c2 c3 : Context),
    fltOp (frm s.me.ctx.sys.status) i = some (g, w, old, d, s1, s2, f) →
    s.me.ctx.read .execute s1 = .ok (x, c1) → c1.read .execute s2 = .ok (y, c2) →
    (if old then c2.read .execute d else .ok (0#64, c2)) = .ok (z, c3) → c3.holds g = true → hasRoom .execute d c3 →
    ∃ t, exec i s = .next t ∧ OnlyContext s t ∧ t.me.note = .done ∧
      Wrote .execute d (BitVec.ofNat 64 (f (fmtOf w) (operandOf w x) (operandOf w y) (operandOf w z)).1)
        (flagged (f (fmtOf w) (operandOf w x) (operandOf w y) (operandOf w z)).2 c3) t.me.ctx) ∧
  (∀ (g : Guard) (w : Bool) (rm : BitVec 2) (kind : BitVec 3) (d s1 : Reg) (s : State) (x : Word) (c1 : Context),
    s.me.ctx.read .execute s1 = .ok (x, c1) → c1.holds g = true → hasRoom .execute d c1 →
    ∃ t, exec (.fcvt g w rm kind d s1) s = .next t ∧ OnlyContext s t ∧ t.me.note = .done ∧
      Wrote .execute d (convert w (Rounding.of rm) kind x).1 (flagged (convert w (Rounding.of rm) kind x).2 c1) t.me.ctx) ∧
  (∀ (i : Instr) (g : Guard) (w : Bool) (p : BitVec 4) (s1 s2 : Reg) (quiet : Bool) (f : Fp → Fp → Bool) (s : State) (x y : Word)
    (c1 c2 : Context),
    fltCmp i = some (g, w, p, s1, s2, quiet, f) → s.me.ctx.read .execute s1 = .ok (x, c1) →
    c1.read .execute s2 = .ok (y, c2) → c2.holds g = true →
    ∃ t, exec i s = .next t ∧ OnlyContext s t ∧ t.me.note = .done ∧
      WrotePred p (f ((fmtOf w).decode (operandOf w x)) ((fmtOf w).decode (operandOf w y)))
        (flagged { nv := if quiet then ((fmtOf w).decode (operandOf w x)).isSNaN || ((fmtOf w).decode (operandOf w y)).isSNaN
          else ((fmtOf w).decode (operandOf w x)).isNaN || ((fmtOf w).decode (operandOf w y)).isNaN } c2) t.me.ctx)

/-- The instructions of R59 with a register destination: guard, whether the old destination is read, destination, sources. -/
def Sys2Proof.Claims.framed (i : Instr) : Option (Guard × Bool × Reg × Reg × Reg) :=
  match intOp i, fltOp .rne i, i with
  | some (g, d, s1, s2, _), _, _ => some (g, false, d, s1, s2)
  | _, some (g, _, old, d, s1, s2, _), _ => some (g, old, d, s1, s2)
  | _, _, .bins g d s1 s2 => some (g, true, d, s1, s2)
  | _, _, .fcvt g _ _ _ d s1 => some (g, false, d, s1, .zero)
  | _, _, .pget g d => some (g, false, d, .zero, .zero)
  | _, _, _ => none

/-- The instructions of R59 with a predicate destination or none: guard and sources. -/
def Sys2Proof.Claims.framedP (i : Instr) : Option (Guard × Reg × Reg) :=
  match intCmp i, fltCmp i, i with
  | some (g, _, s1, s2, _), _, _ => some (g, s1, s2)
  | _, some (g, _, _, s1, s2, _, _), _ => some (g, s1, s2)
  | _, _, .pput g s1 s2 => some (g, s1, s2)
  | _, _, .plog g _ _ _ _ => some (g, .zero, .zero)
  | _, _, _ => none

/-- CLZ, CTZ and POPC count, and BREV, BSWAP, SEXT, ZEXT, BEXT and BINS move the bits that their table names. For every word a: clz a is the n from 0 to 64 for which the n highest bits are 0 and, where n is below 64, the bit after them is 1; ctz a is the same from the lowest bit upwards; popc a is the number of bit positions that hold 1. For every word, bit by bit: BREV moves bit i to bit 63 - i; BSWAP moves byte i to byte 7 - i; ZEXT keeps the lowest n bits and SEXT also copies bit n - 1 upwards, n being b[5:0] and 0 meaning 64; BEXT gives the len bits from pos on, bits above 63 reading as 0; BINS replaces c[pos+len-1:pos] by the lowest bits of a, dropping what would lie above bit 63, with len = b[13:8] + 1 and pos = b[5:0]. (R65, R66) -/
def Obligations.BitOperations : Prop :=
  (∀ a : Word,
    ((clz a).toNat ≤ 64 ∧ (∀ i, i < (clz a).toNat → a.getLsbD (63 - i) = false) ∧
      ((clz a).toNat < 64 → a.getLsbD (63 - (clz a).toNat) = true)) ∧
    ((ctz a).toNat ≤ 64 ∧ (∀ i, i < (ctz a).toNat → a.getLsbD i = false) ∧
      ((ctz a).toNat < 64 → a.getLsbD (ctz a).toNat = true)) ∧
    (popc a).toNat = ((List.range 64).filter fun i => a.getLsbD i).length) ∧
  (∀ (a b c : Word) (i : Nat), i < 64 →
    (brev a).getLsbD i = a.getLsbD (63 - i) ∧
    (bswap a).getLsbD i = a.getLsbD (8 * (7 - i / 8) + i % 8) ∧
    (zextN (extWidth b) a).getLsbD i = (decide (b.toNat % 64 = 0 ∨ i < b.toNat % 64) && a.getLsbD i) ∧
    (sextN (extWidth b) a).getLsbD i = (if b.toNat % 64 = 0 ∨ i < b.toNat % 64 then a.getLsbD i else a.getLsbD (b.toNat % 64 - 1)) ∧
    (bextW a b).getLsbD i = (decide (i < b.toNat / 256 % 64 + 1) && a.getLsbD (b.toNat % 64 + i)) ∧
    (binsW a b c).getLsbD i =
      (if b.toNat % 64 ≤ i ∧ i < b.toNat % 64 + (b.toNat / 256 % 64 + 1) then a.getLsbD (i - b.toNat % 64) else c.getLsbD i))

/-- A false guard leaves the reads and a push of zero; a half is held on an empty queue it pops and on a full queue it pushes. For every two-source integer operation, BINS, scalar float operation, FCVT and PGET: where the sources (and D, if the operation reads it) can be read, the guard is false and a queue destination has room, exec answers a state in which only the context differs, and it is the context after the reads, with zero pushed where D is code 14. For CMP, BTST, the float comparisons, PLOG and PPUT with a false guard it is the context after the reads. For every integer and float operation of R59 and every immediate operation: where reading the first or the second source finds its queue empty, or where D is code 14 and the queue is full, exec answers the state in which the strand stands again before the instruction with the context unchanged and the queue noted, first source before second and pops before the push. (For an instruction that is not one of the lagging half.) (R31, R16) -/
def Obligations.FalseGuardsAndHeldHalves : Prop :=
  (∀ (i : Instr) (g : Guard) (old : Bool) (d s1 s2 : Reg) (s : State) (x y z : Word) (c1 c2 c3 : Context),
    framed i = some (g, old, d, s1, s2) → s.me.ctx.read i.half s1 = .ok (x, c1) → c1.read i.half s2 = .ok (y, c2) →
    (if old then c2.read i.half d else .ok (0#64, c2)) = .ok (z, c3) → c3.holds g = false → hasRoom i.half d c3 →
    exec i s = .next (s.done (if d = .queue then pushed i.half 0#64 c3 else c3))) ∧
  (∀ (i : Instr) (g : Guard) (s1 s2 : Reg) (s : State) (x y : Word) (c1 c2 : Context),
    framedP i = some (g, s1, s2) → s.me.ctx.read i.half s1 = .ok (x, c1) → c1.read i.half s2 = .ok (y, c2) →
    c2.holds g = false → exec i s = .next (s.done c2)) ∧
  ((∀ (i : Instr) (g : Guard) (old : Bool) (d s1 s2 : Reg) (q : QueueName) (s : State),
    framed i = some (g, old, d, s1, s2) ∨ (framed i = none ∧ ∃ f, immOp i = some (d, s1, f) ∧ s2 = .zero ∧ g = ⟨false, 0#4⟩ ∧ old = false) →
    s.me.undo = none →
    (s.me.ctx.read i.half s1 = .error q ∨
      (∃ x c1, s.me.ctx.read i.half s1 = .ok (x, c1) ∧ c1.read i.half s2 = .error q) ∨
      (∃ x y z c1 c2 c3, s.me.ctx.read i.half s1 = .ok (x, c1) ∧ c1.read i.half s2 = .ok (y, c2) ∧
        (if old then c2.read i.half d else .ok (0#64, c2)) = .ok (z, c3) ∧ d = .queue ∧
        q = (match i.half with | .access => .lq | _ => .sq) ∧
        16 ≤ (match i.half with | .access => c3.queues.lq.length | _ => c3.queues.sq.length))) →
    exec i s = .next { s with me := { s.me with pc := s.me.issue.addr, pos := s.me.issue.pos, note := .held q } }))

/-- What each system register of R96 reads, by number. -/
def Sys2Proof.Claims.sysregs (s : State) : List (BitVec 12 × Word) :=
  let y := s.me.ctx.sys
  [ (0x000#12, 0#32 ++ (if y.status.getLsbD 15 then y.tsave else 0#16) ++ y.status),
    (0x001#12, s.me.sid.setWidth 64),
    (0x002#12, s.me.count ++ s.me.rank),
    (0x003#12, s.coreSpeed s.me.core),
    (0x004#12, BitVec.ofNat 64 s.tick),
    (0x005#12, 0#31 ++ BitVec.ofBool (y.status.getLsbD 14) ++ s.me.ctx.acc.refused ++ s.me.ctx.acc.migrated),
    (0x006#12, s.me.ctx.acc.poisonCnt.setWidth 64),
    (0x007#12, s.myCore.recctl),
    (0x010#12, y.trappc), (0x011#12, y.trapcause), (0x012#12, y.trapval), (0x013#12, s.myPart.trapvec),
    (0x014#12, y.scratch[0]), (0x015#12, y.scratch[1]), (0x016#12, y.scratch[2]), (0x017#12, y.scratch[3]),
    (0x018#12, y.tqstat), (0x019#12, y.tqbits) ] ++
  (List.finRange 16).map (fun (i : Fin 16) => (0x020#12 + BitVec.ofNat 12 i.val, y.tqlq[i])) ++
  (List.finRange 16).map (fun (i : Fin 16) => (0x030#12 + BitVec.ofNat 12 i.val, y.tqsq[i]))

/-- DIV, DIVU, REM and REMU give the quotient and remainder of every pair of operands. For every pair of operands, signed or not: where b is 0 the quotient is all ones and the remainder a; where the signed quotient overflows it is a and the remainder 0; otherwise the quotient is truncated toward zero and the remainder is a - quotient * b. DIV, DIVU, REM and REMU whose sources can be read, whose guard holds and whose destination has room write these, and the status half-word, with every flag, is as it was. (R63) -/
def Obligations.DivisionCoversEveryPair : Prop :=
  (∀ a b : Word, divU a b = (if b = 0#64 then 0xFFFFFFFFFFFFFFFF#64 else BitVec.ofNat 64 (a.toNat / b.toNat)) ∧
    remU a b = (if b = 0#64 then a else a - divU a b * b)) ∧
  (∀ a b : Word, divS a b = (if b = 0#64 then 0xFFFFFFFFFFFFFFFF#64
      else if a = 0x8000000000000000#64 ∧ b = 0xFFFFFFFFFFFFFFFF#64 then a else BitVec.ofInt 64 (a.toInt.tdiv b.toInt)) ∧
    remS a b = (if b = 0#64 then a else if a = 0x8000000000000000#64 ∧ b = 0xFFFFFFFFFFFFFFFF#64 then 0#64
      else a - divS a b * b)) ∧
  (∀ (g : Guard) (d s1 s2 : Reg) (s : State) (x y : Word) (c1 c2 : Context),
    s.me.ctx.read (halfOf [s1, s2, d] [g.p]) s1 = .ok (x, c1) → c1.read (halfOf [s1, s2, d] [g.p]) s2 = .ok (y, c2) →
    c2.holds g = true → hasRoom (halfOf [s1, s2, d] [g.p]) d c2 →
    ∃ t1 t2 t3 t4, exec (.div g d s1 s2) s = .next t1 ∧ exec (.divu g d s1 s2) s = .next t2 ∧
      exec (.rem g d s1 s2) s = .next t3 ∧ exec (.remu g d s1 s2) s = .next t4 ∧
      Wrote (halfOf [s1, s2, d] [g.p]) d (divS x y) c2 t1.me.ctx ∧ Wrote (halfOf [s1, s2, d] [g.p]) d (divU x y) c2 t2.me.ctx ∧
      Wrote (halfOf [s1, s2, d] [g.p]) d (remS x y) c2 t3.me.ctx ∧ Wrote (halfOf [s1, s2, d] [g.p]) d (remU x y) c2 t4.me.ctx ∧
      t1.me.ctx.sys.status = s.me.ctx.sys.status ∧ t2.me.ctx.sys.status = s.me.ctx.sys.status ∧
      t3.me.ctx.sys.status = s.me.ctx.sys.status ∧ t4.me.ctx.sys.status = s.me.ctx.sys.status)

/-- SYSRD returns the register it names, and SYSWR changes the writable fields of the one it names and nothing else. For every system register of the table and every state in which the halves stand together: SYSRD in a mode that may read the register, with room in a queue destination, writes its value to the destination; reading ROAM clears its two counts and reading POISONCNT clears it, after the value is taken; nothing else changes. In user mode SYSRD of a register numbered 0x010 or above takes PrivilegeFault with the instruction word in TRAPVAL, and writes nothing. For every state in which the halves stand together: SYSWR whose source can be read, in a mode that may write the register, sets FRM and ROAM and clears by ones the sticky flags and MIG (SSTATUS), sets TSAVE in supervisor mode only, sets ROAM by ROAM bit 32, and writes RECCTL's THRESH, EXT and EN, TRAPPC, TRAPCAUSE, TRAPVAL, SCRATCH, TQSTAT (counts above a maximum stored as it), TQBITS, TQLQ and TQSQ; registers that are read-only keep their value. In user mode SYSWR of a register numbered 0x010 or above takes PrivilegeFault. (R95, R96, R97, R101, R12, R18, R100) -/
def Obligations.SystemRegisters : Prop :=
  (∀ (s : State) (d : Reg) (n : BitVec 12) (v : Word), Level s → (n, v) ∈ sysregs s → (n.toNat < 0x10 ∨ s.me.sup = true) →
    hasRoom (halfOf [d] []) d s.me.ctx →
    ∃ t c, exec (.sysrd d n) s = .next t ∧ OnlyContext s t ∧ t.me.note = .done ∧ Wrote (halfOf [d] []) d v s.me.ctx c ∧
      t.me.ctx = { c with acc := { c.acc with
        refused := if n = 5#12 then 0#16 else c.acc.refused
        migrated := if n = 5#12 then 0#16 else c.acc.migrated
        poisonCnt := if n = 6#12 then 0#32 else c.acc.poisonCnt } }) ∧
  (∀ (s : State) (d : Reg) (n : BitVec 12), Level s → 0x10 ≤ n.toNat → s.me.sup = false →
    ∃ t, exec (.sysrd d n) s = .next t ∧ TrapTaken s t 0x08#8 (s.me.issue.word.setWidth 64) s.me.issue.addr) ∧
  (∀ (s : State) (r : Reg) (n : BitVec 12) (v : Word) (c : Context), Level s → (n.toNat < 0x10 ∨ s.me.sup = true) →
    s.me.ctx.read (halfOf [r] []) r = .ok (v, c) →
    ∃ t, exec (.syswr n r) s = .next t ∧ t.me.note = .done ∧
      t = { (if n = 7#12 then s.modifyCore s.me.core fun k => { k with recctl := v &&& 0xFFFFFF01#64 } else s) with me := t.me } ∧
      t.me = { s.me with ctx := { c with sys := t.me.ctx.sys }, note := .done } ∧
      t.me.ctx.sys.status = (if n = 0#12 then (c.sys.status &&& ~~~0x5800#16 &&& ~~~(v.setWidth 16 &&& 0x07C2#16)) ||| (v.setWidth 16 &&& 0x5800#16)
        else if n = 5#12 then (if v.getLsbD 32 then c.sys.status ||| 0x4000#16 else c.sys.status &&& 0xBFFF#16) else c.sys.status) ∧
      t.me.ctx.sys.tsave = (if n = 0#12 ∧ c.sys.status.getLsbD 15 = true then v.extractLsb' 16 16 else c.sys.tsave) ∧
      t.me.ctx.sys.trappc = (if n = 0x10#12 then v else c.sys.trappc) ∧
      t.me.ctx.sys.trapcause = (if n = 0x11#12 then v &&& 0x7FFFFFF#64 else c.sys.trapcause) ∧
      t.me.ctx.sys.trapval = (if n = 0x12#12 then v else c.sys.trapval) ∧
      (∀ i : Fin 4, t.me.ctx.sys.scratch[i] = (if n.toNat = 0x14 + i then v else c.sys.scratch[i])) ∧
      t.me.ctx.sys.tqbits = (if n = 0x19#12 then v &&& 0xFFFF#64 else c.sys.tqbits) ∧
      (n ≠ 0x18#12 → t.me.ctx.sys.tqstat = c.sys.tqstat) ∧
      (n = 0x18#12 → t.me.ctx.sys.tqstat.toNat = min (v.toNat % 32) 16 + 0x100 * min (v.toNat / 0x100 % 32) 16 +
        0x10000 * min (v.toNat / 0x10000 % 16) 8 + 0x100000 * min (v.toNat / 0x100000 % 16) 8) ∧
      (∀ i : Fin 16, (n.toNat < 0x40 → t.me.ctx.sys.tqlq[i] = (if n.toNat = 0x20 + i then v else c.sys.tqlq[i]) ∧
        t.me.ctx.sys.tqsq[i] = (if n.toNat = 0x30 + i then v else c.sys.tqsq[i])))) ∧
  (∀ (s : State) (r : Reg) (n : BitVec 12), Level s → 0x10 ≤ n.toNat → s.me.sup = false →
    ∃ t, exec (.syswr n r) s = .next t ∧ TrapTaken s t 0x08#8 (s.me.issue.word.setWidth 64) s.me.issue.addr)

/-- BR, JAL, JALR, SWITCH and NOP move the program counter as their rules say, and change nothing but the link register. For every state in which no half lags: BR goes to its address plus twice its offset where p0 is named or the predicate XOR negate is 1, and otherwise to the next instruction; JAL and JALR write the address after them to the link register and go to their targets; JALR whose target is odd takes Misaligned with the target in TRAPVAL and writes nothing; NOP has no effect under any guard. SWITCH, where the unsigned index is below the number of cases and the table word at PC + 4 + 4 * index can be fetched, goes to its address plus twice that signed word; where the index is not below it, to the address after the table; where the word cannot be fetched, the trap of the fetch is taken with the entry's address in TRAPVAL. Memory and every other register are as before. (R84, R85, R86, R87, R88, R91) -/
def Obligations.BranchTargets : Prop :=
  (∀ (s : State) (neg : Bool) (p : BitVec 4) (off : BitVec 20), Level s → (p = 0#4 ∨ s.me.ctx.queues.outcomes (predOwner p) = []) →
    exec (.br neg p off) s = .next { s with me := { s.me with
      pc := if p = 0#4 ∨ (s.me.ctx.pred p != neg) = true then s.me.issue.addr + off.signExtend 64 * 2#64 else s.me.pc
      note := .done } }) ∧
  (∀ (s : State) (d : Reg) (off : BitVec 20), Level s → d ≠ .queue →
    ∃ t, exec (.jal d off) s = .next t ∧ Wrote .execute d (s.me.issue.addr + 4#64) s.me.ctx t.me.ctx ∧
      t = { s with me := { s.me with ctx := t.me.ctx, pc := s.me.issue.addr + off.signExtend 64 * 2#64, note := .done } }) ∧
  (∀ (s : State) (d : Reg) (n : Fin 12) (exe : Bool) (imm : BitVec 15), Level s → d ≠ .queue →
    s.me.ctx.queues.outcomes (if exe then .execute else .access) = [] →
    (((if exe then s.me.ctx.exe.d[n] else s.me.ctx.acc.a[n]) + imm.signExtend 64 * 2#64).getLsbD 0 = false →
      ∃ t, exec (.jalr d (if exe then .d n else .a n) imm) s = .next t ∧ Wrote .execute d (s.me.issue.addr + 4#64) s.me.ctx t.me.ctx ∧
        t = { s with me := { s.me with
          ctx := t.me.ctx, note := .done, pc := (if exe then s.me.ctx.exe.d[n] else s.me.ctx.acc.a[n]) + imm.signExtend 64 * 2#64 } }) ∧
    (((if exe then s.me.ctx.exe.d[n] else s.me.ctx.acc.a[n]) + imm.signExtend 64 * 2#64).getLsbD 0 = true → s.me.sup = false →
      ∃ t, exec (.jalr d (if exe then .d n else .a n) imm) s = .next t ∧
        TrapTaken s t 0x05#8 ((if exe then s.me.ctx.exe.d[n] else s.me.ctx.acc.a[n]) + imm.signExtend 64 * 2#64) s.me.issue.addr)) ∧
  (∀ (s : State) (g : Guard), Level s → (g.p = 0#4 ∨ s.me.ctx.queues.outcomes (predOwner g.p) = []) →
    exec (.nop g) s = .next { s with me := { s.me with note := .done } }) ∧
  (∀ (s : State) (n : Fin 12) (exe : Bool) (k : BitVec 15), Level s → s.me.ctx.queues.outcomes (if exe then .execute else .access) = [] →
    let i := if exe then s.me.ctx.exe.d[n] else s.me.ctx.acc.a[n]
    let r : Reg := if exe then .d n else .a n
    (∀ w u, i.toNat < k.toNat → s.fetchWord (s.me.issue.addr + 4#64 + 4#64 * i) = .ok (w, u) → u.me = s.me →
      exec (.switch r k) s = .next { u with me := { s.me with pc := s.me.issue.addr + w.signExtend 64 * 2#64, note := .done } }) ∧
    (k.toNat ≤ i.toNat →
      exec (.switch r k) s = .next { s with me := { s.me with pc := s.me.issue.addr + 4#64 + 4#64 * k.setWidth 64, note := .done } }) ∧
    (∀ e, i.toNat < k.toNat → s.fetchWord (s.me.issue.addr + 4#64 + 4#64 * i) = .error e → exec (.switch r k) s = .next (s.trap e) ∧
      e.val = s.me.issue.addr + 4#64 + 4#64 * i))

/-- TRAP and BRK take their exceptions: saved program counter, cause, value, status and queues, and the handler address. For every state in user mode in which the halves stand together, and every guard that holds: TRAP takes TrapInstruction with TRAPPC the address after it, and BRK takes Breakpoint with TRAPPC its own address; TRAPVAL is the value of S1, TRAPCAUSE names cause, half, length and literal words, TSAVE holds the old status half-word, SUP is set, the queues move to the save area, and the program counter is TRAPVEC. Memory, registers and every other strand are as before. (R91, R98, R105, R106) -/
def Obligations.TrapAndBreakpointEntry : Prop :=
  ∀ (s : State) (g : Guard) (r : Reg), Level s → s.me.sup = false → (g.p = 0#4 ∨ s.me.ctx.holds g = true) →
    let y := match r with
      | .a n => s.me.ctx.acc.a[n]
      | .d n => s.me.ctx.exe.d[n]
      | .lit w => w.signExtend 64
      | _ => 0#64
    ∃ t u, exec (.trap g r) s = .next t ∧ TrapTaken s t 0x0A#8 y s.me.issue.next ∧
      exec (.brk g r) s = .next u ∧ TrapTaken s u 0x09#8 y s.me.issue.addr

/-- ERET refills the queues and resumes at TRAPPC, and a trap followed at once by ERET brings the queues, the status and the registers back. For every state in which the halves stand together and every guard that holds: in supervisor mode, with every window closed, ERET whose four queues are empty fills each queue from the save area to the saved count, sets ROAM and FRM from TSAVE, clears SUP, keeps the sticky flags, MIG, LIGHT, VEC and NGRP, and resumes at TRAPPC with bit 0 clear, changing nothing else; where a queue holds an entry, the strand becomes Stopped. In user mode ERET takes PrivilegeFault. For every state in user mode in which the halves stand together, no window is open and each queue holds no more than its places: after TRAP, an ERET (from the handler's first instruction) leaves lq, sq, BQA and BQE as they were, the status half-word as it was, every register as it was, and the program counter at the instruction after the TRAP (bit 0 clear). (R107, R102, R105, R100) -/
def Obligations.ReturnFromTrap : Prop :=
  (∀ (s : State) (g : Guard), Level s → (g.p = 0#4 ∨ (s.me.ctx.holds g = true ∧ s.me.ctx.queues.outcomes (predOwner g.p) = [])) →
    (s.me.sup = true → s.me.ctx.closeAll.queues = {} →
      exec (.eret g) s = .next { s with me := { s.me with
        ctx := { s.me.ctx.closeAll with
          queues := refill s.me.ctx.closeAll.sys
          sys := { s.me.ctx.closeAll.sys with status :=
            (s.me.ctx.closeAll.sys.status &&& 0x27FF#16) ||| (s.me.ctx.closeAll.sys.tsave &&& 0x5800#16) } }
        pc := s.me.ctx.closeAll.sys.trappc &&& ~~~1#64
        note := .done } }) ∧
    (s.me.sup = true → s.me.sid ≠ Strand.absent.sid → s.me.ctx.closeAll.queues ≠ {} →
      ∃ t, exec (.eret g) s = .next t ∧ t.me.frame = .stopped ∧ t.me.sid = s.me.sid) ∧
    (s.me.sup = false → ∃ t, exec (.eret g) s = .next t ∧ TrapTaken s t 0x08#8 (s.me.issue.word.setWidth 64) s.me.issue.addr)) ∧
  (∀ (s t : State) (r : Reg) (iss : Issue), Level s → Settled s → s.me.sup = false → Fits s.me.ctx.queues →
    exec (.trap ⟨false, 0#4⟩ r) s = .next t →
    ∃ u, exec (.eret ⟨false, 0#4⟩) { t with me := { t.me with issue := iss } } = .next u ∧
      u.me.ctx.queues = s.me.ctx.queues ∧ u.me.ctx.sys.status = s.me.ctx.sys.status ∧ u.me.ctx.acc = s.me.ctx.acc ∧
      u.me.ctx.exe = s.me.ctx.exe ∧ u.me.ctx.vec = s.me.ctx.vec ∧ u.me.pc = s.me.issue.next &&& ~~~1#64 ∧ u.mem = s.mem ∧
      u.others = s.others)

/-- The index of a dimension of an iteration (R177). -/
def Sys2Proof.Claims.indexAt (n : Nest) (idx : Nat) (j : Nat) : Nat :=
  if j = 0 then idx / (n.bound 1 * n.bound 2) else if j = 1 then idx / n.bound 2 % n.bound 1 else idx % n.bound 2

/-- What entering an iteration leaves (R177): the fetcher fields, the index registers and the predicate; the rest of the
strand and, but for the nest counter in `u`, of the machine as before. -/
def Sys2Proof.Claims.Entered (s u t : State) (x : Reg) (pd : BitVec 4) (n : Nest) (idx left last : Nat) : Prop :=
  t = { u with me := { s.me with ctx := t.me.ctx, note := .done } } ∧
  t.me.ctx.acc.idx = BitVec.ofNat 64 idx ∧ t.me.ctx.acc.left = BitVec.ofNat 32 left ∧ t.me.ctx.acc.last = BitVec.ofNat 64 last ∧
  (∀ r : Fin 12, t.me.ctx.acc.a[r] = (match x with
    | .a k => if k.val ≤ r.val ∧ r.val < k.val + n.ndim then BitVec.ofNat 64 (indexAt n idx (r.val - k.val)) else s.me.ctx.acc.a[r]
    | _ => s.me.ctx.acc.a[r])) ∧
  (∀ q : BitVec 4, t.me.ctx.pred q = if q = 0#4 ∨ q = pd then true else s.me.ctx.pred q) ∧
  t.me.ctx.exe.d = s.me.ctx.exe.d ∧ t.me.ctx.queues = s.me.ctx.queues ∧ t.me.ctx.sys = s.me.ctx.sys ∧ t.me.ctx.acc.q = s.me.ctx.acc.q

/-- ITER and ITER.S enter the next held or claimed iteration, or end the loop; ITERQ reads the fetcher and ITERX cancels the nest. For every strand of a launch with a nest counter and a guard that holds, where the index registers do not pass a11: with iterations left and no cancellation known, ITER enters the next one; otherwise it claims min(rem, 2^32 - 1, max(minchunk, ceil(rem * w / (2 * sum of w)))) indices, enters the first, or, where that is 0, sets LEFT and pd to 0 and writes no index register. The index registers receive i0, i1, i2, pd becomes 1, memory and the rest are as before. ITER.S is the same step followed by the renegotiation point. Without a nest counter both take IllegalCombination (user mode). ITERQ writes LEFT, IDX (all ones before the first iteration), rem or N0 * N1 * N2 as its selector says, and changes nothing else; ITERX writes rem, sets rem and LEFT to 0 and marks the counter cancelled. (R176, R177, R178, R179, R221) -/
def Obligations.IterationSteps : Prop :=
  (∀ (s : State) (g : Guard) (x : Reg) (pd : BitVec 4) (n : Nest), s.me.ctx.holds g = true → s.nest? s.me.launch = some n → n.ndim ≤ 3 →
    (∀ k, x = .a k → k.val + n.ndim ≤ 12) → (∃ k, x = .a k) ∨ x = .zero →
    let k := min n.rem (min (2 ^ 32 - 1) (max n.minchunk
      ((n.rem * s.clockMHz s.me.core + 2 * s.weightSum s.me.launch - 1) / (2 * s.weightSum s.me.launch))))
    (s.me.ctx.acc.left ≠ 0#32 → n.known.contains s.me.core = false →
      ∃ t, exec (.iter g x pd) s = .next t ∧
        Entered s s t x pd n (s.me.ctx.acc.idx.toNat + 1) (s.me.ctx.acc.left.toNat - 1) s.me.ctx.acc.last.toNat) ∧
    ((s.me.ctx.acc.left = 0#32 ∨ n.known.contains s.me.core = true) → 0 < k →
      ∃ t, exec (.iter g x pd) s = .next t ∧
        Entered s (s.setNest s.me.launch { n with next := n.next + k, rem := n.rem - k }) t x pd n n.next (k - 1) (n.next + k)) ∧
    ((s.me.ctx.acc.left = 0#32 ∨ n.known.contains s.me.core = true) → k = 0 →
      ∃ t, exec (.iter g x pd) s = .next t ∧ t.me.ctx.acc.a = s.me.ctx.acc.a ∧ t.me.ctx.acc.left = 0#32 ∧
        t.me.ctx.exe.d = s.me.ctx.exe.d ∧ t.mem = s.mem ∧ t.others = s.others ∧ t.me.note = .done ∧
        (∀ q : BitVec 4, t.me.ctx.pred q = if q = 0#4 then true else if q = pd then false else s.me.ctx.pred q))) ∧
  (∀ (s : State) (g : Guard) (x : Reg) (pd : BitVec 4), s.me.ctx.holds g = true →
    ∃ t, exec (.iter g x pd) s = .next t ∧ exec (.iterS g x pd) s = .next (if t.me.note = .done then t.renegotiate else t)) ∧
  (∀ (s : State) (g : Guard) (x : Reg) (pd : BitVec 4), s.me.ctx.holds g = true → s.nest? s.me.launch = none → s.me.sup = false →
    ∃ t, exec (.iter g x pd) s = .next t ∧ TrapTaken s t 0x02#8 (s.me.issue.word.setWidth 64) s.me.issue.addr) ∧
  (∀ (s : State) (g : Guard) (x : Reg) (n : Nest), s.me.ctx.holds g = true → s.nest? s.me.launch = some n → (∃ k, x = .a k) ∨ x = .zero →
    (∀ sel : BitVec 5, sel.toNat < 4 → ∃ t, exec (.iterq g x sel) s = .next t ∧ OnlyContext s t ∧ t.me.note = .done ∧
      Wrote .access x (if sel = 0#5 then s.me.ctx.acc.left.setWidth 64
        else if sel = 1#5 then (if s.me.ctx.acc.last = 0#64 then 0xFFFFFFFFFFFFFFFF#64 else s.me.ctx.acc.idx)
        else if sel = 2#5 then BitVec.ofNat 64 n.rem else BitVec.ofNat 64 (n.bound 0 * n.bound 1 * n.bound 2)) s.me.ctx t.me.ctx) ∧
    (∃ t, exec (.iterx g x) s = .next t ∧
      t = { s.setNest s.me.launch { n with rem := 0, cancelled := true } with me := { s.me with ctx := t.me.ctx, note := .done } } ∧
      Wrote .access x (BitVec.ofNat 64 n.rem) { s.me.ctx with acc := { s.me.ctx.acc with left := 0#32 } } t.me.ctx))

/-- FENCE closes the windows and advances the timestamp; FENCE.D parks for the next tick and then does so; YIELD leaves the rotation. For every state in which the halves stand together and every guard that holds: FENCE closes every window and raises ts by one, changing nothing else; FENCE.D with no remote access unacknowledged parks for the next tick, is held while one is outstanding, and once the tick has been recorded completes as FENCE does with ts at least the remote watermark; YIELD raises ts by one and leaves the rotation with a yield set that names every other strand of the core on every half for which it is ready, changing no register and no memory. (R92, R93, R315) -/
def Obligations.FencesAndYield : Prop :=
  ∀ (s : State) (g : Guard), Passes s g →
    exec (.fence g) s = .next { s with me := { s.me with ts := s.me.ts + 1, ctx := s.me.ctx.closeAll, note := .done }
                                       latest := max s.latest (s.me.ts + 1) } ∧
    (s.me.fencePast = false → s.remotePending = false →
      ∃ t, exec (.fenceD g) s = .next t ∧ ParkedFor (s.setCtx s.me.ctx.closeAll) t (.fenceD s.tick) ∧ t = { s with me := t.me }) ∧
    (s.me.fencePast = false → s.remotePending = true →
      exec (.fenceD g) s = .next { s with me := { s.me with pc := s.me.issue.addr, pos := s.me.issue.pos, note := .blocked } }) ∧
    (s.me.fencePast = true →
      ∃ t, exec (.fenceD g) s = .next t ∧ t.me.ctx = s.me.ctx.closeAll ∧ t.me.ts = max (s.me.ts + 1) (max s.rw s.fences) ∧ t.me.note = .done ∧
        t.me.fencePast = false ∧ t.mem = s.mem ∧ t.others = s.others) ∧
    (∃ t, exec (.yield g) s = .next t ∧ t.me.frame = .yielded ∧ t.me.ts = s.me.ts + 1 ∧ t.me.ctx = s.me.ctx ∧ t.me.pc = s.me.pc ∧
      t.mem = s.mem ∧ t.others = s.others ∧
      ∀ x : StrandId × Side, x ∈ t.me.yieldSet ↔ (x.2 = .access ∨ x.2 = .execute) ∧
        ∃ m ∈ s.strands, m.sid = x.1 ∧ m.core = s.me.core ∧ m.sid ≠ s.me.sid ∧ m.readyOn x.2 = true)

/-- EXIT removes the strand and frees its slot, parks while its engines work, and raises QueueMisuse on an entry left in a queue. For every state in which the halves stand together and every guard that holds: where the queues are empty once the windows have closed and the strand has no copy or matrix job left after sealing its batch, EXIT ends the strand: no strand of the package has its id any more and the generation of its birth slot has advanced by one modulo 128; where work is left it parks; where a queue holds an entry it takes QueueMisuse with the code of the first such queue (user mode). (R94, R23, R8) -/
def Obligations.ExitEndsTheStrand : Prop :=
  ∀ (s : State) (g : Guard), Passes s g → s.me.sid ≠ Strand.absent.sid →
    (s.me.ctx.closeAll.queues.first = none → s.copies = [] → s.matrix = [] → s.me.memberOf = [] → Tab.wf 0 s.gens = true →
      ∃ t, exec (.exit g) s = .next t ∧ t.strand? s.me.sid = none ∧
        Tab.get 0 t.gens (sidCore s.me.sid * 16 + sidSlot s.me.sid) = (sidGen s.me.sid + 1) % 128) ∧
    (s.me.ctx.closeAll.queues.first = none → (s.setCtx s.me.ctx.closeAll).drainCopies.strandBusy s.me.sid = true →
      (s.setCtx s.me.ctx.closeAll).drainCopies.me.sid = s.me.sid →
      ∃ t, exec (.exit g) s = .next t ∧ t.me.frame = .parked ∧ t.me.wait = some .exit) ∧
    (∀ q, s.me.ctx.closeAll.queues.first = some q → s.me.sup = false →
      ∃ t, exec (.exit g) s = .next t ∧ TrapTaken s t 0x04#8 q.code s.me.issue.addr)

/-- BAR, BARA, BARW, BART and BARS arrive at, wait for and report on a group as the barrier rules say. For every strand of an existing node, every guard that holds and membership position below NGRP, at a group with no held arrival: BARA of a strand not yet arrived writes the generation it arrives in; BAR that completes the phase writes the next generation, and another parks; the arrival count rises by one, or the phase completes with GEN + 1 and no arrivals; BARW writes GEN where its generation has passed and parks otherwise; BART sets pd to whether it has passed, and ts then rises to the phase's stamp; BARS writes the two report words. Memory and the other strands are as before. A position at or above NGRP takes IllegalCombination. (R348, R349, R350, R352, R353) -/
def Obligations.GroupBarriers : Prop :=
  (∀ (s : State) (g : Guard) (x : Reg) (m : BitVec 5) (n : Node), s.me.ctx.holds g = true → m.toNat < s.me.ngrp → x ≠ .queue →
    s.node? s.me.launch = some n → Tab.wf {} n.groups = true →
    let e := s.me.groupAt m.toNat
    let q := s.group s.me.launch e
    q.held = [] →
    (s.me.sid ∉ q.arrived → ∃ t, exec (.bara g x m) s = .next t ∧ Wrote .access x (q.gen.setWidth 64) s.me.ctx t.me.ctx ∧
      t.me.note = .done ∧ t.mem = s.mem ∧ t.others = s.others ∧
      (t.group s.me.launch e).gen = (if q.arr + 1 = q.live then q.gen + 1#16 else q.gen) ∧
      (t.group s.me.launch e).arr = (if q.arr + 1 = q.live then 0 else q.arr + 1)) ∧
    (s.me.sid ∉ q.arrived → q.arr + 1 = q.live → ∃ t, exec (.bar g x m) s = .next t ∧
      Wrote .access x ((q.gen + 1#16).setWidth 64) s.me.ctx t.me.ctx ∧ t.me.ts = max s.me.ts (max q.stamp s.me.ts) ∧
      t.me.note = .done ∧ t.mem = s.mem ∧ t.others = s.others) ∧
    (s.me.sid ∉ q.arrived → q.arr + 1 ≠ q.live → s.me.undo = none → ∃ t, exec (.bar g x m) s = .next t ∧
      ParkedFor s t (.barrier e q.gen x true) ∧ t.mem = s.mem ∧ t.others = s.others) ∧
    (∀ (k : Fin 12) (w : Word), s.me.ctx.acc.a[k] = w →
      (passed q.gen (w.setWidth 16) = true → ∃ t, exec (.barw g x (.a k) m) s = .next t ∧
        Wrote .access x (q.gen.setWidth 64) s.me.ctx t.me.ctx ∧ t.me.ts = max s.me.ts q.stamp ∧ t.mem = s.mem ∧ t.others = s.others) ∧
      (passed q.gen (w.setWidth 16) = false → s.me.undo = none → ∃ t, exec (.barw g x (.a k) m) s = .next t ∧
        ParkedFor s t (.barrier e (w.setWidth 16) x false) ∧ t = { s with me := t.me }) ∧
      (∀ pd, ∃ t, exec (.bart g pd (.a k) m) s = .next t ∧ WrotePred pd (passed q.gen (w.setWidth 16)) s.me.ctx t.me.ctx ∧
        t.me.ts = (if passed q.gen (w.setWidth 16) = true then max s.me.ts q.stamp else s.me.ts) ∧ t.me.note = .done ∧ t.mem = s.mem ∧ t.others = s.others))) ∧
  (∀ (s : State) (g : Guard) (k : Fin 12) (m : BitVec 5), s.me.ctx.holds g = true → m.toNat < s.me.ngrp → k.val < 10 →
    ∃ t c, exec (.bars g (.a k) m) s = .next t ∧ OnlyContext s t ∧
      Wrote .access (.a k) (s.group s.me.launch (s.me.groupAt m.toNat)).dusk0 s.me.ctx c ∧
      Wrote .access (.a (k + 1)) (s.group s.me.launch (s.me.groupAt m.toNat)).dusk1 c t.me.ctx) ∧
  (∀ (s : State) (g : Guard) (x : Reg) (m : BitVec 5), s.me.ctx.holds g = true → s.me.ngrp ≤ m.toNat → s.me.sup = false →
    ∃ t, exec (.bar g x m) s = .next t ∧ TrapTaken s t 0x02#8 (s.me.issue.word.setWidth 64) s.me.issue.addr)

/-- The number of bytes that a double or single form accesses. -/
def Sys2Proof.Claims.width (dbl : Bool) : Nat := if dbl then 8 else 4

/-- The scalar memory instructions of R116 to R123: data register, how many operands it gives and whether it takes a result, base, byte offset, bytes accessed
and permissions needed. -/
def Sys2Proof.Claims.memOp : Instr → Option (Reg × Nat × Bool × Reg × Word × Nat × Need)
  | .ld op _ x b off => some (x, 0, true, b, off.signExtend 64 * BitVec.ofNat 64 (2 ^ (op.toNat % 4)), 2 ^ (op.toNat % 4), needR)
  | .st op _ x b off => some (x, 1, false, b, off.signExtend 64 * BitVec.ofNat 64 (2 ^ op.toNat), 2 ^ op.toNat, needW)
  | .ldf dbl _ x b off => some (x, 0, true, b, off.signExtend 64 * BitVec.ofNat 64 (width dbl), width dbl, needR)
  | .lde dbl _ x b off => some (x, 0, true, b, off.signExtend 64 * BitVec.ofNat 64 (width dbl), width dbl, needRW)
  | .stf dbl _ x b off => some (x, 1, false, b, off.signExtend 64 * BitVec.ofNat 64 (width dbl), width dbl, needRW)
  | .stw dbl _ x b off => some (x, 1, false, b, off.signExtend 64 * BitVec.ofNat 64 (width dbl), width dbl, needW)
  | .amo dbl _ _ x b off => some (x, 1, true, b, off.signExtend 64 * BitVec.ofNat 64 (width dbl), width dbl, needRW)
  | .cas dbl _ x b off => some (x, 2, true, b, off.signExtend 64 * BitVec.ofNat 64 (width dbl), width dbl, needRW)
  | .feset _ b off => some (.zero, 0, false, b, off.signExtend 64 * 4#64, 4, needW)
  | .feclr _ b off => some (.zero, 0, false, b, off.signExtend 64 * 4#64, 4, needW)
  | .fetest _ _ b off => some (.zero, 0, false, b, off.signExtend 64 * 4#64, 4, needR)
  | _ => none

/-- The address of a scalar memory instruction: its base register plus its offset. -/
def Sys2Proof.Claims.addressed (s : State) (base : Reg) (off : Word) : Word := jumpValue base s.me.ctx + off

/-- What the atomic operation numbered by `op` leaves of two numbers of `8 * n` bits (R118). -/
def Sys2Proof.Claims.atomic (op : BitVec 3) (n : Nat) (old a : Nat) : Nat :=
  let signed (v : Nat) : Int := if 2 ^ (8 * n - 1) ≤ v then (v : Int) - 2 ^ (8 * n) else v
  if op = 0#3 then (old + a) % 2 ^ (8 * n)
  else if op = 1#3 then old &&& a
  else if op = 2#3 then old ||| a
  else if op = 3#3 then old ^^^ a
  else if op = 4#3 then a
  else if op = 5#3 then (if signed a < signed old then a else old)
  else if op = 6#3 then (if signed old < signed a then a else old)
  else max old a

/-- Every scalar memory access checks canonical form, alignment, translation and protection in that order, and traps with its address. For every scalar memory instruction whose data register is ready, in user mode: an address that is not canonical takes TranslationFault, a canonical one that is no multiple of the access size takes Misaligned, and one that no window or page holds takes TranslationFault, and one whose place forbids the access takes ProtectionFault, each with the virtual address in TRAPVAL and its own address in TRAPPC; nothing is read and nothing is stored. (R114, R106, R112) -/
def Obligations.MemoryChecks : Prop :=
  ∀ (s : State) (i : Instr) (x base : Reg) (res : Bool) (k n : Nat) (off : Word) (need : Need) (vs : List Word) (c : Context),
    memOp i = some (x, k, res, base, off, n, need) → DataReady s x k res vs c → s.me.sup = false →
    let va := addressed s base off
    (canonical va = false → ∃ t, exec i s = .next t ∧ TrapTaken s t 0x06#8 va s.me.issue.addr) ∧
    (canonical va = true → va.toNat % n ≠ 0 → ∃ t, exec i s = .next t ∧ TrapTaken s t 0x05#8 va s.me.issue.addr) ∧
    (canonical va = true → va.toNat % n = 0 → s.locate s.me.launch.part s.me.core s.root va.toNat need = .error .translation →
      ∃ t, exec i s = .next t ∧ TrapTaken s t 0x06#8 va s.me.issue.addr) ∧
    (canonical va = true → va.toNat % n = 0 → s.locate s.me.launch.part s.me.core s.root va.toNat need = .error .protection →
      ∃ t, exec i s = .next t ∧ TrapTaken s t 0x07#8 va s.me.issue.addr)

/-- Loads deliver what memory holds, and stores write exactly their bytes and full/empty bits. LD that reaches its home, no span in the way, delivers its 1, 2, 4 or 8 little-endian bytes, sign-extended for op 0 to 3 and zero-extended otherwise, and where a current span holds them, the span's; memory is as before, but for the partition's count of renewed spans where it keeps one (R321). LDF delivers a word or pair whose words are full and changes no memory; LDE delivers it and empties those words, every byte as before; FETEST sets pd to the word's bit, and memory is as before. No other strand changes, where none waits on a word for LDE. For every store that reaches its home, in a canonical memory with no strand waiting on a word: ST writes the low 1, 2, 4 or 8 bytes of its operand at its address, the lowest first, and leaves the full/empty bits; STW does so for a word or pair and marks it full, as STF does where its words are empty; FESET marks its word full and FECLR empty, changing no byte. Every byte outside the stored ones, every other full/empty bit, every register and every other strand are as before. (R116, R121, R123, R3, R310, R117, R321) -/
def Obligations.LoadsAndStores : Prop :=
  (∀ (s : State) (op : BitVec 3) (la : BitVec 4) (x base : Reg) (off : BitVec 8) (c : Context) (key : Nat) (priv : Bool), op ≠ 7#3 →
    let n := 2 ^ (op.toNat % 4)
    let ext := fun v : Nat => if op.toNat < 4 then BitVec.ofInt 64 (BitVec.ofNat (8 * n) v).toInt else BitVec.ofNat 64 v
    DataReady s x 0 true [] c → Reaches s (addressed s base (off.signExtend 64 * BitVec.ofNat 64 n)) n needR key priv →
    (Misses s key n priv →
      ∃ t e, exec (.ld op la x base off) s = .next t ∧ Completes s t ∧ t.me.ctx = e ∧ Received s la x (ext (s.mem.read key n)) c e ∧
        (t.mem = s.mem ∨ ∃ d a, s.dieRecord s.me.launch.part d = some a ∧ t.mem = counted s.mem (a + 0x0C))) ∧
    (∀ sp, priv = false → uncached key = false → (s.core s.me.core).spans.find? (fun x => x.holds key n) = some sp → sp.priv = false → s.me.ts ≤ sp.rts →
      ∃ t e, exec (.ld op la x base off) s = .next t ∧ Completes s t ∧ t.mem = s.mem ∧ t.me.ctx = e ∧
        Received s la x (ext (sp.read key n % 2 ^ (8 * n))) c e)) ∧
  (∀ (s : State) (dbl : Bool) (la : BitVec 4) (x base : Reg) (off : BitVec 8) (c : Context) (key : Nat) (priv : Bool),
    DataReady s x 0 true [] c → AllFull s key (width dbl) true →
    let va := addressed s base (off.signExtend 64 * BitVec.ofNat 64 (width dbl))
    let v := BitVec.ofInt 64 (BitVec.ofNat (8 * width dbl) (s.mem.read key (width dbl))).toInt
    (Reaches s va (width dbl) needR key priv →
      ∃ t e, exec (.ldf dbl la x base off) s = .next t ∧ Completes s t ∧ t.mem = s.mem ∧ t.me.ctx = e ∧ Received s la x v c e) ∧
    (Reaches s va (width dbl) needRW key priv → NoWaiters s → s.mem.wf = true →
      ∃ t e, exec (.lde dbl la x base off) s = .next t ∧ Completes s t ∧ t.me.ctx = e ∧ Received s la x v c e ∧
        (∀ a, t.mem.byte a = s.mem.byte a) ∧ BitsBecome s t (feWords key (width dbl)) false)) ∧
  (∀ (s : State) (la pd : BitVec 4) (base : Reg) (off : BitVec 8) (key : Nat) (priv : Bool),
    Reaches s (addressed s base (off.signExtend 64 * 4#64)) 4 needR key priv →
    ∃ t, exec (.fetest la pd base off) s = .next t ∧ Completes s t ∧ t.mem = s.mem ∧
      t.me.ctx = s.me.ctx.writeLate s.me.issue.pos la.toNat (.p pd (s.mem.keptFull key)) ∧
      (la = 0#4 → WrotePred pd (s.mem.keptFull key) s.me.ctx t.me.ctx)) ∧
  (∀ (s : State) (op : BitVec 2) (la : BitVec 4) (x base : Reg) (off : BitVec 8) (v : Word) (c : Context) (key : Nat) (priv : Bool),
    DataReady s x 1 false [v] c → s.mem.wf = true →
    Reaches s (addressed s base (off.signExtend 64 * BitVec.ofNat 64 (2 ^ op.toNat))) (2 ^ op.toNat) needW key priv →
    ∃ t, exec (.st op la x base off) s = .next t ∧ Completes s t ∧ t.me.ctx = c ∧ Stored s t key (2 ^ op.toNat) v.toNat ∧
      BitsBecome s t [] true) ∧
  (∀ (s : State) (dbl : Bool) (la : BitVec 4) (x base : Reg) (off : BitVec 8) (v : Word) (c : Context) (key : Nat) (priv : Bool),
    DataReady s x 1 false [v] c → s.mem.wf = true → NoWaiters s →
    let va := addressed s base (off.signExtend 64 * BitVec.ofNat 64 (width dbl))
    (Reaches s va (width dbl) needW key priv →
      ∃ t, exec (.stw dbl la x base off) s = .next t ∧ Completes s t ∧ t.me.ctx = c ∧ Stored s t key (width dbl) v.toNat ∧
        BitsBecome s t (feWords key (width dbl)) true) ∧
    (Reaches s va (width dbl) needRW key priv → AllFull s key (width dbl) false →
      ∃ t, exec (.stf dbl la x base off) s = .next t ∧ Completes s t ∧ t.me.ctx = c ∧ Stored s t key (width dbl) v.toNat ∧
        BitsBecome s t (feWords key (width dbl)) true)) ∧
  (∀ (s : State) (la : BitVec 4) (base : Reg) (off : BitVec 8) (key : Nat) (priv : Bool), s.mem.wf = true → NoWaiters s →
    Reaches s (addressed s base (off.signExtend 64 * 4#64)) 4 needW key priv →
    (∃ t, exec (.feset la base off) s = .next t ∧ Completes s t ∧ t.me.ctx = s.me.ctx ∧ (∀ a, t.mem.byte a = s.mem.byte a) ∧
      BitsBecome s t [key] true) ∧
    (∃ t, exec (.feclr la base off) s = .next t ∧ Completes s t ∧ t.me.ctx = s.me.ctx ∧ (∀ a, t.mem.byte a = s.mem.byte a) ∧
      BitsBecome s t [key] false))

/-- AMO and CAS read and write their operand in one step, and LDF, LDE and STF wait for the state of their words. For every AMO and CAS that reaches its home in a canonical memory: AMO delivers the old word or pair, sign-extended, and stores there the sum, AND, OR, XOR, the operand, the signed minimum or maximum, or the unsigned maximum, as its op field says; CAS delivers the old value and stores its second operand exactly where the low bits of the first equal it. Every byte outside, every full/empty bit and every other strand are as before. For every LDF, LDE or STF that reaches its home and whose words are not all full, or not all empty: the strand parks at the instruction, whose address and operand it keeps, with no register, byte, bit or other strand changed. (R118, R119, R3, R121, R124, R164) -/
def Obligations.AtomicsAndFullEmptyWaits : Prop :=
  (∀ (s : State) (dbl : Bool) (op : BitVec 3) (la : BitVec 4) (x base : Reg) (off : BitVec 7) (v : Word) (c : Context) (key : Nat) (priv : Bool),
    DataReady s x 1 true [v] c → s.mem.wf = true →
    Reaches s (addressed s base (off.signExtend 64 * BitVec.ofNat 64 (width dbl))) (width dbl) needRW key priv →
    ∃ t e, exec (.amo dbl op la x base off) s = .next t ∧ Completes s t ∧ t.me.ctx = e ∧
      Received s la x (BitVec.ofInt 64 (BitVec.ofNat (8 * width dbl) (s.mem.read key (width dbl))).toInt) c e ∧
      Stored s t key (width dbl) (atomic op (width dbl) (s.mem.read key (width dbl)) (v.toNat % 2 ^ (8 * width dbl))) ∧
      BitsBecome s t [] true) ∧
  (∀ (s : State) (dbl : Bool) (la : BitVec 4) (x base : Reg) (off : BitVec 7) (v w : Word) (c : Context) (key : Nat) (priv : Bool),
    DataReady s x 2 true [v, w] c → s.mem.wf = true →
    Reaches s (addressed s base (off.signExtend 64 * BitVec.ofNat 64 (width dbl))) (width dbl) needRW key priv →
    ∃ t e, exec (.cas dbl la x base off) s = .next t ∧ Completes s t ∧ t.me.ctx = e ∧
      Received s la x (BitVec.ofInt 64 (BitVec.ofNat (8 * width dbl) (s.mem.read key (width dbl))).toInt) c e ∧
      (s.mem.read key (width dbl) = v.toNat % 2 ^ (8 * width dbl) → Stored s t key (width dbl) w.toNat) ∧
      (s.mem.read key (width dbl) ≠ v.toNat % 2 ^ (8 * width dbl) → t.mem = s.mem) ∧ BitsBecome s t [] true) ∧
  (∀ (s : State) (dbl : Bool) (la : BitVec 4) (x base : Reg) (off : BitVec 8) (key : Nat) (priv : Bool), s.me.undo = none →
    let va := addressed s base (off.signExtend 64 * BitVec.ofNat 64 (width dbl))
    (∀ c, DataReady s x 0 true [] c → ¬ AllFull s key (width dbl) true →
      (Reaches s va (width dbl) needR key priv → ∃ t o, exec (.ldf dbl la x base off) s = .next t ∧
        ParkedFor s t (.word key va 0#2 dbl x (s.lookahead la.toNat) 0#64 o) ∧ t.mem = s.mem ∧ t.others = s.others) ∧
      (Reaches s va (width dbl) needRW key priv → ∃ t o, exec (.lde dbl la x base off) s = .next t ∧
        ParkedFor s t (.word key va 1#2 dbl x (s.lookahead la.toNat) 0#64 o) ∧ t.mem = s.mem ∧ t.others = s.others)) ∧
    (∀ v c, DataReady s x 1 false [v] c → ¬ AllFull s key (width dbl) false → Reaches s va (width dbl) needRW key priv →
      ∃ t o, exec (.stf dbl la x base off) s = .next t ∧
        ParkedFor s t (.word key va 2#2 dbl x la.toNat v o) ∧ t.mem = s.mem ∧ t.others = s.others))

/-- Bits i of a layout word: the length of a field, the bit at which it begins, whether it takes a value, and how many fields
before it do (R187, R190). -/
def Sys2Proof.Claims.fieldLen (l : Word) (i : Nat) : Nat := (l.extractLsb' (6 * i) 6).toNat
def Sys2Proof.Claims.fieldAt (l : Word) (i : Nat) : Nat := ((List.range i).map (fieldLen l)).sum
def Sys2Proof.Claims.fieldUsed (l : Word) (i : Nat) : Bool := fieldLen l i != 0 && !l.getLsbD (48 + i)
def Sys2Proof.Claims.fieldRank (l : Word) (i : Nat) : Nat := ((List.range i).filter (fieldUsed l)).length

/-- The header that the fields of a layout make of a list of values. -/
def Sys2Proof.Claims.packed (l : Word) (vs : List Word) : Word :=
  (List.range 8).foldl (fun h i =>
    if fieldUsed l i then h ||| ((vs.getD (fieldRank l i) 0#64 &&& (BitVec.ofNat 64 (2 ^ fieldLen l i - 1))) <<< fieldAt l i) else h) 0#64

/-- The value of a field of a header, sign-extended where the layout says so. -/
def Sys2Proof.Claims.fieldValue (l y : Word) (i : Nat) : Word :=
  let v := (y >>> fieldAt l i).toNat % 2 ^ fieldLen l i
  if l.getLsbD (56 + i) && 2 ^ (fieldLen l i - 1) ≤ v then BitVec.ofInt 64 ((v : Int) - 2 ^ fieldLen l i) else BitVec.ofNat 64 v

/-- HPACK builds a header from the values of its layout, HPARSE splits one, and HLAYOUT replaces a table entry and returns the old one. For every state whose guard holds and whose sources can be read, with entry r < 64 of the core's layout table: HPACK writes the header whose used fields hold the low bits of its values, taken from a run of d-registers within d11, from `sq`, or from one literal; HPARSE writes each used field, sign- or zero-extended, to a run of d-registers; HLAYOUT writes the old entry to its destination and stores S2, if its lengths add to at most 64 and no field breaks the rules. An index of 64 or more, a run past d11 and a bad layout word take IllegalCombination (user mode). Nothing else changes. (R187, R188, R190) -/
def Obligations.HeaderPacking : Prop :=
  (∀ (s : State) (g : Guard) (d s1 s2 : Reg) (r : Word) (c1 c2 : Context) (vs : List Word),
    s.me.ctx.read .execute s2 = .ok (r, c1) → c1.holds g = true →
    let l := s.myCore.layouts.toList.getD r.toNat 0#64
    let n := fieldRank l 8
    (r.toNat < 64 → hasRoom .execute d c2 →
      ((∃ k, s1 = .d k ∧ k.val + n ≤ 12 ∧ c2 = c1 ∧ vs = (List.range n).map fun j => c1.exe.d.toList.getD (k.val + j) 0#64) ∨
       (s1 = .zero ∧ c2 = c1 ∧ vs = List.replicate n 0#64) ∨
       (∃ w, s1 = .lit w ∧ c2 = c1 ∧ vs = List.replicate n (w.signExtend 64)) ∨
       (s1 = .queue ∧ n ≤ c1.queues.lq.length ∧ vs = c1.queues.lq.take n ∧ c2 = { c1 with queues := { c1.queues with lq := c1.queues.lq.drop n } })) →
      ∃ t, exec (.hpack g d s1 s2) s = .next t ∧ OnlyContext s t ∧ t.me.note = .done ∧ Wrote .execute d (packed l vs) c2 t.me.ctx) ∧
    ((64 ≤ r.toNat ∨ ∃ k, s1 = .d k ∧ 12 < k.val + n) → s.me.sup = false →
      ∃ t, exec (.hpack g d s1 s2) s = .next t ∧ TrapTaken s t 0x02#8 (s.me.issue.word.setWidth 64) s.me.issue.addr)) ∧
  (∀ (s : State) (g : Guard) (d s1 s2 : Reg) (y r : Word) (c1 c2 : Context),
    s.me.ctx.read .execute s1 = .ok (y, c1) → c1.read .execute s2 = .ok (r, c2) → c2.holds g = true →
    let l := s.myCore.layouts.toList.getD r.toNat 0#64
    let n := fieldRank l 8
    (∀ k : Fin 12, d = .d k → r.toNat < 64 → k.val + n ≤ 12 →
      ∃ t, exec (.hparse g d s1 s2) s = .next t ∧ OnlyContext s t ∧ t.me.note = .done ∧
        (∀ i, i < 8 → fieldUsed l i = true → t.me.ctx.exe.d.toList.getD (k.val + fieldRank l i) 0#64 = fieldValue l y i) ∧
        (∀ m : Fin 12, m.val < k.val ∨ k.val + n ≤ m.val → t.me.ctx.exe.d[m] = c2.exe.d[m]) ∧
        t.me.ctx.acc.a = c2.acc.a ∧ t.me.ctx.preds = c2.preds ∧ SameRest c2 t.me.ctx) ∧
    (d = .queue → r.toNat < 64 → c2.queues.sq.length + n ≤ 16 →
      exec (.hparse g d s1 s2) s = .next (s.done { c2 with queues := { c2.queues with
        sq := c2.queues.sq ++ ((List.range 8).filter (fieldUsed l)).map (fieldValue l y) } })) ∧
    ((64 ≤ r.toNat ∨ ∃ k, d = .d k ∧ 12 < k.val + n) → s.me.sup = false →
      ∃ t, exec (.hparse g d s1 s2) s = .next t ∧ TrapTaken s t 0x02#8 (s.me.issue.word.setWidth 64) s.me.issue.addr)) ∧
  (∀ (s : State) (g : Guard) (d s1 s2 : Reg) (r w : Word) (c1 c2 : Context),
    s.me.ctx.read .execute s1 = .ok (r, c1) → c1.read .execute s2 = .ok (w, c2) → c2.holds g = true →
    let ok := r.toNat < 64 ∧ fieldAt w 8 ≤ 64 ∧
      ∀ i, i < 8 → (fieldLen w i = 0 → w.getLsbD (48 + i) = false ∧ w.getLsbD (56 + i) = false) ∧ ¬ (w.getLsbD (48 + i) = true ∧ w.getLsbD (56 + i) = true)
    (ok → hasRoom .execute d c2 →
      ∃ t, exec (.hlayout g d s1 s2) s = .next t ∧ Wrote .execute d (s.myCore.layouts.toList.getD r.toNat 0#64) c2 t.me.ctx ∧ t.me.note = .done ∧
        t = { s.modifyCore s.me.core (fun k => { k with layouts := k.layouts.setIfInBounds r.toNat w }) with me := t.me } ∧
        t.me = { s.me with ctx := t.me.ctx, note := .done }) ∧
    (¬ ok → s.me.sup = false →
      ∃ t, exec (.hlayout g d s1 s2) s = .next t ∧ TrapTaken s t 0x02#8 (s.me.issue.word.setWidth 64) s.me.issue.addr))

/-- Whether a five-bit code names an a- or a d-register (R127). -/
def Sys2Proof.Claims.isReg (r : BitVec 5) : Prop := r.toNat < 12 ∨ (16 ≤ r.toNat ∧ r.toNat < 28)

/-- CONT builds a continuation, SEND delivers a message to it or drops it, and WAITR takes the oldest message that its selector admits. For every strand whose operands can be read: CONT of a tag and a register code writes tag * 2^37 + code * 2^32 + the birth id; other words take IllegalInstruction (user mode). SEND to a live strand of the same partition with fewer than 8 messages, neither parked nor the sender, appends value, tag, register, sender and timestamp to its queue; to one with 8 it parks; to a malformed continuation it completes and of memory changes but the MSG_DROP of the sender's core. WAITR, with no half behind, of an admitted message removes the oldest such, raises ts to its stamp, writes its value to the register it names and the sender to x; with none it parks. PREF changes no register, timestamp or other strand, brings a span of a shared HBM word into the L1, and does nothing on chip or where the address leads nowhere. (R123, R126, R127, R129, R309) -/
def Obligations.ContinuationsAndMessages : Prop :=
  (∀ (s : State) (x s1 : Reg) (v : Word) (c : Context), s.me.ctx.read .access s1 = .ok (v, c) →
    (v.toNat < 2 ^ 13 → isReg (v.extractLsb' 8 5) → hasRoom .access x c →
      ∃ t, exec (.cont x s1) s = .next t ∧ OnlyContext s t ∧ t.me.note = .done ∧
        Wrote .access x (BitVec.ofNat 64 (v.toNat % 256 * 2 ^ 37 + v.toNat / 256 * 2 ^ 32 + s.me.sid.toNat)) c t.me.ctx) ∧
    (¬ (v.toNat < 2 ^ 13 ∧ isReg (v.extractLsb' 8 5)) → s.me.sup = false →
      ∃ t, exec (.cont x s1) s = .next t ∧ TrapTaken s t 0x01#8 (s.me.issue.word.setWidth 64) s.me.issue.addr)) ∧
  (∀ (s : State) (la : BitVec 4) (y rc : Reg) (k v : Word) (c1 c2 : Context),
    s.me.ctx.read .access rc = .ok (k, c1) → c1.read .access y = .ok (v, c2) →
    let i : StrandId := k.extractLsb' 0 32
    let wellFormed := k.toNat < 2 ^ 45 ∧ isReg (k.extractLsb' 32 5) ∧ sidLocal i < 384
    (∀ m, wellFormed → sidPkg i = s.pkg → s.ownerOfCluster (clusterOfCore (sidCore i)) = some s.me.launch.part → s.strand? i = some m →
      m ∈ s.others → i ≠ s.me.sid → (∀ u ∈ s.others, u.sid ≠ s.me.sid) → m.launch.part = s.me.launch.part →
      (m.inbox.length < 8 → m.frame ≠ .parked → (∀ u ∈ s.others, u.sid = i → u = m) →
        ∃ t, exec (.send la y rc) s = .next t ∧ t.me = (s.done c2).me ∧ t.mem = s.mem ∧
          t.others = s.others.map fun u => if u.sid = i then
            { u with inbox := u.inbox ++ [{ value := v, tag := k.extractLsb' 37 8, reg := k.extractLsb' 32 5, sender := s.me.sid, stamp := s.me.ts, remote := false }] } else u) ∧
      (8 ≤ m.inbox.length → s.me.undo = none →
        ∃ t o, exec (.send la y rc) s = .next t ∧ ParkedFor s t (.send k v (popsOf [y, rc]) o) ∧ t.mem = s.mem ∧ t.others = s.others)) ∧
    (¬ wellFormed → ∃ t, exec (.send la y rc) s = .next t ∧ t.me = (s.done c2).me ∧ t.others = s.others ∧
      t.mem = (match s.faultRecord s.me.core with
        | none => s.mem
        | some a => counted s.mem (a + 0x2C)))) ∧
  (∀ (s : State) (x s1 : Reg) (v : Word) (c : Context), s.me.deferred = [] → s.me.ctx.read .access s1 = .ok (v, c) → hasRoom .access x c →
    (∀ m, v.toNat < 2 ^ 9 → isReg m.reg → m.remote = false → s.offersTo s.me.sid = [] →
      s.me.inbox.find? (fun q => v.getLsbD 8 || q.tag == v.extractLsb' 0 8) = some m →
      ∃ t, exec (.waitr x s1) s = .next t ∧ t.me.note = .done ∧ t.me.inbox = s.me.inbox.erase m ∧ t.me.ts = max s.me.ts m.stamp ∧
        t.mem = s.mem ∧ t.others = s.others ∧ Wrote .access x (m.sender.setWidth 64) (c.writeCode m.reg m.value) t.me.ctx) ∧
    (v.toNat < 2 ^ 9 → s.me.inbox.find? (fun q => v.getLsbD 8 || q.tag == v.extractLsb' 0 8) = none → s.me.undo = none →
      ∃ t, exec (.waitr x s1) s = .next t ∧ ParkedFor s t (.message v x (popsOf [s1])) ∧ t = { s with me := t.me }) ∧
    (2 ^ 9 ≤ v.toNat → s.me.sup = false →
      ∃ t, exec (.waitr x s1) s = .next t ∧ TrapTaken s t 0x01#8 (s.me.issue.word.setWidth 64) s.me.issue.addr)) ∧
  (∀ (s : State) (base : Reg) (off : BitVec 8),
    let at_ := s.check (addressed s base (off.signExtend 64 * 4#64) &&& ~~~3#64) 4 {}
    ∃ t, exec (.pref base off) s = .next t ∧ t.me.ctx = s.me.ctx ∧ t.me.note = .done ∧ t.others = s.others ∧ t.me.ts = s.me.ts ∧
      (∀ e, at_ = .error e → t = s.proceed) ∧
      (∀ pl, at_ = .ok pl → uncached pl.key = true → t = s.proceed) ∧
      (∀ pl e, at_ = .ok pl → pl.walked = false → pl.page = some e → leafCls e.leaf ≠ 1 → 2 ^ 50 ≤ pl.key → pl.key < 2 ^ 51 →
        s.mem.poisoned pl.key = false → ∃ sp ∈ (t.core s.me.core).spans, sp.holds pl.key 4 = true))

/-- The recorder of the core of the strand in turn, as `RPSTAT` names its quantities (R334). -/
def Sys2Proof.Claims.recorded (r : Recorder) (same : Bool) : List (Nat × Word) :=
  let own (n : Nat) : Word := if same then BitVec.ofNat 64 n else 0#64
  [ (0, BitVec.ofNat 64 (r.entries.length % 512 * 128 + r.auto.toNat * 8 + same.toNat * 4 + (match r.state with
      | .idle => 0
      | .dawn => 1
      | .daylight => 2
      | .stopped => 3))),
    (1, own r.notes), (2, own r.noteOvf), (3, own r.pushes), (4, own r.pushUsed), (5, own r.pushDrop), (6, own r.depMiss),
    (7, own r.depStore), (8, own r.depEvict), (9, own r.loop.toNat) ]

/-- RECORD starts a Dawn pass where it may, and RPSTAT reads the quantities of the recorder. For every strand whose operand can be read: RECORD of a loop word whose length is not 0 and whose start is even writes 0 and does nothing where EN is 0 or the recorder serves another launch and is not idle; writes 1 and does nothing where it already records or replays that loop; and otherwise clears entries, counters and AUTO, takes the strand's launch and the loop word, enters DAWN and writes 1 (the model numbers the pass). Other loop words take IllegalCombination (user mode). RPSTAT writes the quantity its selector names, and 0 for entries beyond the last. (R332, R334) -/
def Obligations.RecordAndStatus : Prop :=
  (∀ (s : State) (pd : BitVec 4) (r : Reg) (v : Word) (c : Context), s.me.ctx.read .access r = .ok (v, c) →
    let k := s.myCore
    let ours := k.recorder.serves = some s.me.launch
    (v.extractLsb' 48 16 ≠ 0#16 → v.getLsbD 0 = false →
      (k.recctl.getLsbD 0 = false ∨ (k.recorder.state ≠ .idle ∧ ¬ ours) →
        ∃ t, exec (.record pd r) s = .next t ∧ OnlyContext s t ∧ t.me.note = .done ∧ WrotePred pd false c t.me.ctx) ∧
      (k.recctl.getLsbD 0 = true → ours → (k.recorder.state = .dawn ∨ k.recorder.state = .daylight) → k.recorder.loop = v →
        ∃ t, exec (.record pd r) s = .next t ∧ OnlyContext s t ∧ t.me.note = .done ∧ WrotePred pd true c t.me.ctx) ∧
      (k.recctl.getLsbD 0 = true → (k.recorder.state = .idle ∨ ours) →
        (k.recorder.state = .idle ∨ k.recorder.state = .stopped ∨ k.recorder.loop ≠ v) →
        ∃ t, exec (.record pd r) s = .next t ∧ WrotePred pd true c t.me.ctx ∧
          t = { s.modifyRecorder s.me.core (fun _ => { state := .dawn, serves := some s.me.launch, loop := v, epoch := s.clock + 1 }) with
            clock := s.clock + 1, me := { s.me with ctx := t.me.ctx, note := .done } })) ∧
    ((v.extractLsb' 48 16 = 0#16 ∨ v.getLsbD 0 = true) → s.me.sup = false →
      ∃ t, exec (.record pd r) s = .next t ∧ TrapTaken s t 0x02#8 (s.me.issue.word.setWidth 64) s.me.issue.addr)) ∧
  (∀ (s : State) (x r : Reg) (v : Word) (c : Context), s.me.ctx.read .access r = .ok (v, c) → hasRoom .access x c →
    (∀ w, (v.toNat, w) ∈ recorded s.myCore.recorder (s.myCore.recorder.serves == some s.me.launch) →
      ∃ t, exec (.rpstat x r) s = .next t ∧ OnlyContext s t ∧ t.me.note = .done ∧ Wrote .access x w c t.me.ctx) ∧
    (0x100 ≤ v.toNat → v.toNat < 0x300 → s.myCore.recorder.entries.length ≤ (v.toNat - 0x100) / 2 →
      ∃ t, exec (.rpstat x r) s = .next t ∧ OnlyContext s t ∧ t.me.note = .done ∧ Wrote .access x 0#64 c t.me.ctx) ∧
    (10 ≤ v.toNat → (v.toNat < 0x100 ∨ 0x300 ≤ v.toNat) → s.me.sup = false →
      ∃ t, exec (.rpstat x r) s = .next t ∧ TrapTaken s t 0x02#8 (s.me.issue.word.setWidth 64) s.me.issue.addr))

/-- REPLAY and RPSTOP move the recorder of the core between its states, and do nothing on one that is idle or serves another launch. For every strand: on a recorder that serves its launch, REPLAY in DAWN or STOPPED enters DAYLIGHT, clears the three departure counters and AUTO and writes 1 (the model numbers the pass), in DAYLIGHT it writes 1 and does nothing else, and RPSTOP in DAWN or DAYLIGHT enters STOPPED and keeps table, counters and spans; on one that is IDLE or serves another launch REPLAY writes 0 and RPSTOP does nothing. A write of pd to p0 is discarded. Nothing else changes. (R333) -/
def Obligations.ReplayAndStop : Prop :=
  ∀ (s : State) (pd : BitVec 4),
    let r := s.myCore.recorder
    (r.serves = some s.me.launch → (r.state = .dawn ∨ r.state = .stopped) →
      ∃ t, exec (.replay pd) s = .next t ∧ WrotePred pd true s.me.ctx t.me.ctx ∧
        t = { s.modifyCore s.me.core (fun k => { k with recorder :=
          { k.recorder with state := .daylight, depMiss := 0, depStore := 0, depEvict := 0, auto := false, epoch := s.clock + 1 } }) with
          clock := s.clock + 1, me := { s.me with ctx := t.me.ctx, note := .done } }) ∧
    (r.serves = some s.me.launch → r.state = .daylight →
      ∃ t, exec (.replay pd) s = .next t ∧ OnlyContext s t ∧ t.me.note = .done ∧ WrotePred pd true s.me.ctx t.me.ctx) ∧
    ((r.state = .idle ∨ r.serves ≠ some s.me.launch) →
      (∃ t, exec (.replay pd) s = .next t ∧ OnlyContext s t ∧ t.me.note = .done ∧ WrotePred pd false s.me.ctx t.me.ctx) ∧
      exec .rpstop s = .next { s with me := { s.me with note := .done } }) ∧
    (r.serves = some s.me.launch → (r.state = .dawn ∨ r.state = .daylight) →
      exec .rpstop s = .next { s.modifyCore s.me.core (fun k => { k with recorder := { k.recorder with state := .stopped } }) with
        me := { s.me with note := .done } }) ∧
    (r.state = .stopped → exec .rpstop s = .next { s with me := { s.me with note := .done } })

/-- Whether a box holds a point (R136). -/
def Sys2Proof.Claims.boxHas : Box → List Int → Bool
  | [], [] => true
  | d :: ds, x :: xs => d.covers x && boxHas ds xs
  | _, _ => false

/-- Whether a union of boxes holds a point. -/
def Sys2Proof.Claims.inBoxes (bs : List Box) (p : List Int) : Bool := bs.any fun b => boxHas b p

/-- Every box of a list has the given number of dimensions, each with a point (R136). -/
def Sys2Proof.Claims.Ranked (rank : Nat) (bs : List Box) : Prop := ∀ b ∈ bs, b.length = rank ∧ ∀ d ∈ b, 1 ≤ d.ext ∧ 1 ≤ d.step

/-- What a region register receives for a box list that is in canonical form: nothing at all, the list, or beyond eight boxes
its hull with OVF, with the binding of another register (R135, R137 to R139). -/
def Sys2Proof.Claims.Becomes (like : Region) (bs : List Box) (ovf : Bool) (r : Region) : Prop :=
  if bs = [] then r = {}
  else if bs.length ≤ 8 then r = { like with ovf := ovf, boxes := bs, rows := none }
  else r = { like with ovf := true, boxes := [hullOf bs], rows := none }

/-- Whether a box list needs a hull that R139 refuses. -/
def Sys2Proof.Claims.TooWide (bs : List Box) : Prop := 8 < bs.length ∧ ¬ (boxInRange (hullOf bs) = true ∧ ∀ d ∈ hullOf bs, d.ext ≤ 2 ^ 24)

/-- The region instructions without a scalar operand that write a set: destination, operands, box list and carried OVF (R144, R146). -/
def Sys2Proof.Claims.setOf (c : Context) : Instr → Option (BitVec 4 × Region × Region × (Nat → List Box) × Bool)
  | .quni qd qa qb => let a := c.q qa; let b := c.q qb; some (qd, a, b, fun r => canonUnion r (a.set ++ b.set), a.ovf || b.ovf)
  | .qint qd qa qb => let a := c.q qa; let b := c.q qb; some (qd, a, b, fun r => canonInter r a.set b.set, a.ovf || b.ovf)
  | .qsub qd qa qb => let a := c.q qa; let b := c.q qb; some (qd, a, b, fun r => canonDiff r a.set b.set, a.ovf)
  | .qclip qd qa => let a := c.q qa
      some (qd, a, a, fun r => canonInter r a.set [(a.bounds.take a.rank).map fun n => ⟨0, n, 1⟩], a.ovf)
  | _ => none

/-- The region instructions that change each box of their source by a scalar: destination, source, scalar, its limits and the boxes (R145, R147). -/
def Sys2Proof.Claims.changeOf (c : Context) (v : Word) : Instr → Option (BitVec 4 × Region × Reg × Bool × Nat × (Region → List Box))
  | .qdil w qd qa r => some (qd, c.q qa, r, v.toNat ≤ 2 ^ 20, if w.toNat = 4 then 0 else w.toNat, fun a => a.set.map fun b => b.zipIdx.map fun x =>
      if w.toNat = 4 ∨ x.2 = w.toNat then { x.1 with start := x.1.start - v.toNat * x.1.step, ext := x.1.ext + 2 * v.toNat } else x.1)
  | .qshf w qd qa r => some (qd, c.q qa, r, -2 ^ 31 ≤ v.toInt && v.toInt < 2 ^ 31, w.toNat, fun a => a.set.map fun b => b.zipIdx.map fun x =>
      if x.2 = w.toNat then { x.1 with start := x.1.start + v.toInt } else x.1)
  | .qprj w qd qa r => some (qd, c.q qa, r, -2 ^ 31 ≤ v.toInt && v.toInt < 2 ^ 31, w.toNat, fun a => a.set.map fun b => b.zipIdx.map fun x =>
      if x.2 = w.toNat then ⟨v.toInt, 1, 1⟩ else x.1)
  | _ => none

/-- The canonical box list holds exactly the points of the set, and its boxes are disjoint. For every two lists of boxes of one rank with at least one coordinate in each dimension, and every point of that rank: the canonical form of the union holds the point exactly where one of the lists does, of the intersection where both do, and of the difference where the first does and the second does not; and no point lies in two boxes of any of them. (R136, R137, R144) -/
def Obligations.CanonicalFormKeepsPoints : Prop :=
  ∀ (rank : Nat) (a b : List Box) (p : List Int), Ranked rank a → Ranked rank b → p.length = rank →
    inBoxes (canonUnion rank (a ++ b)) p = (inBoxes a p || inBoxes b p) ∧
    inBoxes (canonInter rank a b) p = (inBoxes a p && inBoxes b p) ∧
    inBoxes (canonDiff rank a b) p = (inBoxes a p && !inBoxes b p) ∧
    ((canonInter rank a b).filter fun x => boxHas x p).length ≤ 1 ∧ ((canonDiff rank a b).filter fun x => boxHas x p).length ≤ 1

/-- The region instructions write the canonical list of their set, its hull with OVF, or nothing, and refuse as their rules say. For every strand: QUNI, QINT, QSUB and QCLIP of operands that agree in their descriptor write the canonical list of their set, or its hull with OVF beyond eight boxes, or the unbound image, with the binding of the first bound operand; QDIL, QSHF, QPRJ and QSPL, whose scalar can be read and lies within its limits, do so for the changed or cut source, and QHULL writes the one box of R148. Operands of two descriptors, a scalar beyond its limits, a dimension at or above the rank, a coordinate out of range and a hull too wide take IllegalCombination, and an overflowed subtrahend RegionOverflowUse with its number (user mode). No other register changes. (R135, R138, R139, R140, R143, R144, R145, R146, R147, R148) -/
def Obligations.RegionAlgebra : Prop :=
  (∀ (s : State) (i : Instr) (qd : BitVec 4) (a b : Region) (f : Nat → List Box) (ovf : Bool),
    setOf s.me.ctx i = some (qd, a, b, f, ovf) →
    let like := if a.tda ≠ 0#64 then a else b
    let apart := a.tda ≠ 0#64 ∧ b.tda ≠ 0#64 ∧ a.tda ≠ b.tda
    let lost := ∃ qx qb, i = .qsub qd qx qb ∧ b.ovf = true
    (¬ apart → ¬ lost → ¬ TooWide (f like.rank) → ∃ r, Becomes like (f like.rank) ovf r ∧ exec i s = .next (s.done (s.me.ctx.setQ qd r))) ∧
    (s.me.sup = false → apart ∨ (¬ lost ∧ TooWide (f like.rank)) →
      ∃ t, exec i s = .next t ∧ TrapTaken s t 0x02#8 (s.me.issue.word.setWidth 64) s.me.issue.addr) ∧
    (∀ qx qb, s.me.sup = false → i = .qsub qd qx qb → b.ovf = true → ¬ apart →
      ∃ t, exec i s = .next t ∧ TrapTaken s t 0x0B#8 (qb.setWidth 64) s.me.issue.addr)) ∧
  (∀ (s : State) (i : Instr) (v : Word) (c : Context) (qd : BitVec 4) (a : Region) (r : Reg) (ok : Bool) (d : Nat) (f : Region → List Box),
    changeOf c v i = some (qd, a, r, ok, d, f) → s.me.ctx.read .access r = .ok (v, c) →
    let fine := ok = true ∧ ((∃ qx, i = .qdil 4#3 qd qx r) ∨ a.tda = 0#64 ∨ d < a.rank) ∧ (∀ x ∈ f a, boxInRange x = true) ∧ ¬ TooWide (canonUnion a.rank (f a))
    (fine → ∃ q, Becomes a (canonUnion a.rank (f a)) a.ovf q ∧ exec i s = .next (s.done (c.setQ qd q))) ∧
    (¬ fine → s.me.sup = false → ∃ t, exec i s = .next t ∧ TrapTaken s t 0x02#8 (s.me.issue.word.setWidth 64) s.me.issue.addr)) ∧
  (∀ (s : State) (w : BitVec 3) (qd qa : BitVec 4) (r : Reg) (v : Word) (c : Context), s.me.ctx.read .access r = .ok (v, c) →
    let a := c.q qa
    let n := v.toNat % 2 ^ 16
    let k := v.toNat / 2 ^ 16
    let h := hullOf a.set
    let lo := (h.getD w.toNat Dim.pad).start
    let span := (h.getD w.toNat Dim.pad).ext
    let part := if k * span / n < (k + 1) * span / n then
      [h.set w.toNat ⟨lo + (k * span / n : Nat), (k + 1) * span / n - k * span / n, 1⟩] else []
    (¬ (1 ≤ n ∧ n ≤ 4096 ∧ k < n ∧ (a.tda = 0#64 ∨ w.toNat < a.rank)) → s.me.sup = false →
      ∃ t, exec (.qspl w qd qa r) s = .next t ∧ TrapTaken s t 0x02#8 (s.me.issue.word.setWidth 64) s.me.issue.addr) ∧
    (1 ≤ n → n ≤ 4096 → k < n → a.tda = 0#64 → exec (.qspl w qd qa r) s = .next (s.done (c.setQ qd {}))) ∧
    (1 ≤ n → n ≤ 4096 → k < n → a.tda ≠ 0#64 → w.toNat < a.rank → ¬ TooWide (canonInter a.rank a.set part) →
      ∃ q, Becomes a (canonInter a.rank a.set part) a.ovf q ∧ exec (.qspl w qd qa r) s = .next (s.done (c.setQ qd q)))) ∧
  (∀ (s : State) (qd qa : BitVec 4), let a := s.me.ctx.q qa
    (a.tda = 0#64 → exec (.qhull qd qa) s = .next (s.done (s.me.ctx.setQ qd {}))) ∧
    (a.tda ≠ 0#64 → hullOk (hullOf a.set) = true →
      exec (.qhull qd qa) s = .next (s.done (s.me.ctx.setQ qd { a with ovf := false, boxes := [hullOf a.set], rows := none }))) ∧
    (a.tda ≠ 0#64 → hullOk (hullOf a.set) = false → s.me.sup = false →
      ∃ t, exec (.qhull qd qa) s = .next t ∧ TrapTaken s t 0x02#8 (s.me.issue.word.setWidth 64) s.me.issue.addr))

/-- QSTR, QRAG, QLD and QST move descriptors and images between memory and a region, and the queries report and compare regions. For every strand whose address operand can be read: QSTR of a 64-byte-aligned address whose eight words are a valid descriptor writes the whole tensor; QLD of one whose forty words are an image that an instruction could have written writes that region; QST stores the forty words of the image there, at plain addresses that the strand may write, those that its turn has no room for before the strand goes on; QRAG of a plain one-box region with 64 rows at most takes their lengths from a table on a core or in shared memory. Misaligned addresses take Misaligned (user mode) with the address. QCLR, QMOV and QBOX change but qd. For every strand with room for the result: QSIZE writes points * 2^ESZ, at most 2^64 - 1; QCNT the points, NBOX, RANK or element size; QGET an entry of a box, TDA or the header, and 0 beyond the last box. QEQ writes whether binding, flags and boxes agree; QLE, of regions of one descriptor and rank with an exact second, whether every point of the first lies in the second; QEMP whether the region is unbound, QOVF its OVF. Nothing else changes. (R132, R141, R149, R150, R151, R152, R153, R154, R155, R156) -/
def Obligations.RegionsMemoryAndQueries : Prop :=
  (∀ (s : State) (qd : BitVec 4) (r : Reg) (v : Word) (c : Context), s.me.ctx.read .access r = .ok (v, c) → canonical v = true →
    (∀ ws u, v.toNat % 64 = 0 → v ≠ 0#64 → (s.setCtx c).plainLoads v 8 8 = .ok (ws, u) →
      let m := Tensor.ofWords (ws.map (BitVec.ofNat 64))
      m.valid (((ws.map (BitVec.ofNat 64)).getD 1 0#64).extractLsb' 16 48) = true →
      exec (.qstr qd r) s = .next (u.done (u.me.ctx.setQ qd
        { tda := v, rank := m.rank, esz := m.esz, bounds := m.bounds, boxes := [(m.bounds.take m.rank).map fun n => ⟨0, n, 1⟩] }))) ∧
    (∀ ws u q, v.toNat % 64 = 0 → (s.setCtx c).plainLoads v 8 40 = .ok (ws, u) → Region.load (ws.map (BitVec.ofNat 64)) = some q →
      q.valid = true ∧ q.image = padTo 40 (ws.map (BitVec.ofNat 64)) ∧ exec (.qld qd r) s = .next (u.done (u.me.ctx.setQ qd q))) ∧
    (∀ u, v.toNat % 64 = 0 → (s.setCtx c).plainStores v 8 ((c.q qd).image.map BitVec.toNat) = .ok u →
      exec (.qst qd r) s = .next { u with me := { u.me with note := .done } }) ∧
    (v.toNat % 64 ≠ 0 → s.me.sup = false → ∀ i, i = .qstr qd r ∨ i = .qld qd r ∨ i = .qst qd r →
      ∃ t, exec i s = .next t ∧ TrapTaken s t 0x05#8 v s.me.issue.addr)) ∧
  (∀ (s u : State) (qd qa : BitVec 4) (r : Reg) (v : Word) (c : Context) (box : Box) (rows : List Nat),
    s.me.ctx.read .access r = .ok (v, c) → canonical v = true → v.toNat % 4 = 0 →
    let a := c.q qa
    let m := (box.getD (a.rank - 2) Dim.pad).ext
    let q : Region := { a with boxes := [box.modify (a.rank - 1) fun d => { d with ext := 1 }], rows := some rows }
    a.tda ≠ 0#64 → a.rows = none → a.ovf = false → a.boxes = [box] → 2 ≤ a.rank → m ≤ 64 →
    s.tableOk v m = .ok true → (s.setCtx c).plainLoads v 4 m = .ok (rows, u) → (∀ x ∈ rows, x ≤ 2 ^ 24) → (∀ x ∈ q.set, boxInRange x = true) →
    exec (.qrag qd qa r) s = .next (u.done (u.me.ctx.setQ qd (if ∀ x ∈ rows, x = 0 then {} else q)))) ∧
  (∀ (s : State) (qd qa : BitVec 4),
    exec (.qclr qd) s = .next (s.done (s.me.ctx.setQ qd {})) ∧ exec (.qmov qd qa) s = .next (s.done (s.me.ctx.setQ qd (s.me.ctx.q qa)))) ∧
  (∀ (s : State) (w : BitVec 3) (qd qa : BitVec 4) (r : Reg) (v : Word) (c : Context) (box : Box), s.me.ctx.read .access r = .ok (v, c) →
    let a := c.q qa
    let d : Dim := ⟨(v.extractLsb' 0 32).toInt, v.toNat / 2 ^ 32 % 2 ^ 24 + 1, v.toNat / 2 ^ 56⟩
    a.tda ≠ 0#64 → a.rows = none → a.ovf = false → a.boxes = [box] → w.toNat < a.rank → 1 ≤ d.step → d.last < 2 ^ 31 →
    exec (.qbox w qd qa r) s = .next (s.done (c.setQ qd
      { a with boxes := [box.set w.toNat (if d.ext = 1 then { d with step := 1 } else d)] }))) ∧
  (∀ (s : State) (x : Reg) (qa : BitVec 4), hasRoom .access x s.me.ctx →
    let a := s.me.ctx.q qa
    let points := (a.set.map fun b => (b.map Dim.ext).prod).sum
    (∃ t, exec (.qsize x qa) s = .next t ∧ OnlyContext s t ∧ t.me.note = .done ∧
      Wrote .access x (BitVec.ofNat 64 (min (points * 2 ^ a.esz) (2 ^ 64 - 1))) s.me.ctx t.me.ctx) ∧
    (∀ w : BitVec 3, w.toNat < 4 → ∃ t, exec (.qcnt w x qa) s = .next t ∧ OnlyContext s t ∧ t.me.note = .done ∧
      Wrote .access x (if w = 0#3 then BitVec.ofNat 64 (min points (2 ^ 64 - 1)) else if w = 1#3 then BitVec.ofNat 64 a.boxes.length
        else if w = 2#3 then BitVec.ofNat 64 a.rank else if a.tda = 0#64 then 0#64 else BitVec.ofNat 64 (2 ^ a.esz)) s.me.ctx t.me.ctx) ∧
    (∀ (w : BitVec 3) (b : BitVec 4), w.toNat < 6 → ∃ t, exec (.qget w x qa b) s = .next t ∧ OnlyContext s t ∧ t.me.note = .done ∧
      Wrote .access x (if w = 4#3 then a.tda
        else if w = 5#3 then BitVec.ofNat 64 (a.rank + 256 * a.esz + 65536 * a.boxes.length + 2 ^ 24 * a.ovf.toNat + 2 ^ 25 * a.rows.isSome.toNat)
        else match a.boxes[b.toNat]? with
          | none => 0#64
          | some box => let d := box.getD w.toNat ⟨0, 1, 1⟩
              BitVec.ofNat 8 d.step ++ BitVec.ofNat 24 (d.ext - 1) ++ BitVec.ofInt 32 d.start) s.me.ctx t.me.ctx)) ∧
  (∀ (s : State) (pd qa qb : BitVec 4), let a := s.me.ctx.q qa; let b := s.me.ctx.q qb
    (∃ t, exec (.qeq pd qa qb) s = .next t ∧ OnlyContext s t ∧ t.me.note = .done ∧
      WrotePred pd (a.tda == b.tda && a.ovf == b.ovf && a.rows.isSome == b.rows.isSome && a.image.drop 4 == b.image.drop 4) s.me.ctx t.me.ctx) ∧
    (a.tda = 0#64 ∨ b.tda = 0#64 ∨ a.tda = b.tda → b.ovf = false → Ranked a.rank a.set → (a.set = [] ∨ Ranked a.rank b.set) →
      ∃ t v, exec (.qle pd qa qb) s = .next t ∧ OnlyContext s t ∧ t.me.note = .done ∧ WrotePred pd v s.me.ctx t.me.ctx ∧
        (v = true ↔ ∀ p : List Int, p.length = a.rank → inBoxes a.set p = true → inBoxes b.set p = true)) ∧
    (∃ t, exec (.qemp pd qa) s = .next t ∧ OnlyContext s t ∧ t.me.note = .done ∧ WrotePred pd (a.tda == 0#64) s.me.ctx t.me.ctx) ∧
    (∃ t, exec (.qovf pd qa) s = .next t ∧ OnlyContext s t ∧ t.me.note = .done ∧ WrotePred pd a.ovf s.me.ctx t.me.ctx))

/-- The number that an integer element of a tag stands for: signed or not, of 32, 16 or 8 bits (R207, R208). -/
def Sys2Proof.Claims.elemInt (t : Tag) (n : Nat) : Int :=
  if (t = tI32 ∨ t = tI16 ∨ t = tI8) ∧ 2 ^ (tagBits t - 1) ≤ n then (n : Int) - 2 ^ tagBits t else n

/-- An element of R228: an integer operation that wraps, or a float operation of the tag's format. -/
def Sys2Proof.Claims.elem (fi : Int → Int → Int) (ff : Fmt → Nat → Nat → Nat × FpFlags) (t : Tag) (xs : List Nat) : Nat × FpFlags :=
  if isInt t then ((fi (elemInt t (xs.getD 0 0)) (elemInt t (xs.getD 1 0)) % 2 ^ tagBits t).toNat, {})
  else ff (tagFmt t) (xs.getD 0 0) (xs.getD 1 0)
def Sys2Proof.Claims.arithTag (t : Tag) : Bool := isInt t || isFlt t

/-- The elementwise instructions of R228, R231 and R233: zeroing, mask, destination, sources, accepted tags and the operation on one element of a tag. -/
def Sys2Proof.Claims.elemOp : Instr → Option (Bool × BitVec 3 × BitVec 4 × List (BitVec 4) × (Tag → Bool) × (Tag → List Nat → Nat × FpFlags))
  | .vadd z k vd va vb => some (z, k, vd, [va, vb], arithTag, elem (fun a b => a + b) fun f a b => f.addOp .rne a b)
  | .vsub z k vd va vb => some (z, k, vd, [va, vb], arithTag, elem (fun a b => a - b) fun f a b => f.subOp .rne a b)
  | .vmul z k vd va vb => some (z, k, vd, [va, vb], arithTag, elem (fun a b => a * b) fun f a b => f.mulOp .rne a b)
  | .vmin z k vd va vb => some (z, k, vd, [va, vb], arithTag, elem (fun a b => min a b) fun f a b => f.minMax false a b)
  | .vmax z k vd va vb => some (z, k, vd, [va, vb], arithTag, elem (fun a b => max a b) fun f a b => f.minMax true a b)
  | .vabs z k vd va => some (z, k, vd, [va], fun t => t == tI32 || t == tI16 || t == tI8 || isFlt t,
      elem (fun a _ => max a (-a)) fun f a _ => (a % f.signWeight, {}))
  | .vneg z k vd va => some (z, k, vd, [va], fun t => t == tI32 || t == tI16 || t == tI8 || isFlt t,
      elem (fun a _ => -a) fun f a _ => ((a + f.signWeight) % (2 * f.signWeight), {}))
  | .vshl z k vd va vb => some (z, k, vd, [va, vb], isInt, fun t xs => (xs.getD 0 0 * 2 ^ (xs.getD 1 0 % tagBits t) % 2 ^ tagBits t, {}))
  | .vshr z k vd va vb => some (z, k, vd, [va, vb], isInt, fun t xs => (xs.getD 0 0 / 2 ^ (xs.getD 1 0 % tagBits t), {}))
  | .vsar z k vd va vb => some (z, k, vd, [va, vb], isInt, fun t xs =>
      let a := xs.getD 0 0
      let n := xs.getD 1 0 % tagBits t
      (if 2 ^ (tagBits t - 1) ≤ a then a / 2 ^ n + (2 ^ tagBits t - 2 ^ (tagBits t - n)) else a / 2 ^ n, {}))
  | .vfma z k vd va vb vc => some (z, k, vd, [va, vb, vc], isFlt, fun t xs => (tagFmt t).fmaOp .rne false false (xs.getD 0 0) (xs.getD 1 0) (xs.getD 2 0))
  | .vfms z k vd va vb vc => some (z, k, vd, [va, vb, vc], isFlt, fun t xs => (tagFmt t).fmaOp .rne false true (xs.getD 0 0) (xs.getD 1 0) (xs.getD 2 0))
  | .vfnma z k vd va vb vc => some (z, k, vd, [va, vb, vc], isFlt, fun t xs => (tagFmt t).fmaOp .rne true false (xs.getD 0 0) (xs.getD 1 0) (xs.getD 2 0))
  | .vrcp z k vd va => some (z, k, vd, [va], isFlt, unaryElem rcpFp)
  | .vrsq z k vd va => some (z, k, vd, [va], isFlt, unaryElem rsqFp)
  | .vsqrt z k vd va => some (z, k, vd, [va], isFlt, unaryElem sqrtFp)
  | .vdiv z k vd va vb => some (z, k, vd, [va, vb], isFlt, fun t xs => (tagFmt t).divOp .rne (xs.getD 0 0) (xs.getD 1 0))
  | .vexp2 z k vd va => some (z, k, vd, [va], isFlt, unaryElem exp2Fp)
  | .vlog2 z k vd va => some (z, k, vd, [va], isFlt, unaryElem log2Fp)
  | .vtanh z k vd va => some (z, k, vd, [va], isFlt, unaryElem tanhFp)
  | .vaddShort k vd vs => some (false, k, vd, [vd, vs], arithTag, elem (fun a b => a + b) fun f a b => f.addOp .rne a b)
  | .vsubShort k vd vs => some (false, k, vd, [vd, vs], arithTag, elem (fun a b => a - b) fun f a b => f.subOp .rne a b)
  | .vmulShort k vd vs => some (false, k, vd, [vd, vs], arithTag, elem (fun a b => a * b) fun f a b => f.mulOp .rne a b)
  | .vminShort k vd vs => some (false, k, vd, [vd, vs], arithTag, elem (fun a b => min a b) fun f a b => f.minMax false a b)
  | .vmaxShort k vd vs => some (false, k, vd, [vd, vs], arithTag, elem (fun a b => max a b) fun f a b => f.minMax true a b)
  | .vabsShort k vd vs => some (false, k, vd, [vs], fun t => t == tI32 || t == tI16 || t == tI8 || isFlt t,
      elem (fun a _ => max a (-a)) fun f a _ => (a % f.signWeight, {}))
  | .vnegShort k vd vs => some (false, k, vd, [vs], fun t => t == tI32 || t == tI16 || t == tI8 || isFlt t,
      elem (fun a _ => -a) fun f a _ => ((a + f.signWeight) % (2 * f.signWeight), {}))
  | .vrcpShort k vd vs => some (false, k, vd, [vs], isFlt, unaryElem rcpFp)
  | .vexp2Short k vd vs => some (false, k, vd, [vs], isFlt, unaryElem exp2Fp)
  | .vrsqShort k vd vs => some (false, k, vd, [vs], isFlt, unaryElem rsqFp)
  | _ => none

/-- The instructions of R228 on whole lanes: zeroing, mask, destination, sources, accepted tags and the operation on a lane. -/
def Sys2Proof.Claims.bitOp : Instr → Option (Bool × BitVec 3 × BitVec 4 × List (BitVec 4) × (Tag → Bool) × (Word32 → Word32 → Word32))
  | .vand z k vd va vb => some (z, k, vd, [va, vb], fun t => t != tNone, fun a b => a &&& b)
  | .vor z k vd va vb => some (z, k, vd, [va, vb], fun t => t != tNone, fun a b => a ||| b)
  | .vxor z k vd va vb => some (z, k, vd, [va, vb], fun t => t != tNone, fun a b => a ^^^ b)
  | .vnot z k vd va => some (z, k, vd, [va], fun t => t != tNone, fun a _ => ~~~a)
  | .vmov z k vd va => some (z, k, vd, [va], fun _ => true, fun a _ => a)
  | .vandShort k vd vs => some (false, k, vd, [vd, vs], fun t => t != tNone, fun a b => a &&& b)
  | .vorShort k vd vs => some (false, k, vd, [vd, vs], fun t => t != tNone, fun a b => a ||| b)
  | .vxorShort k vd vs => some (false, k, vd, [vd, vs], fun t => t != tNone, fun a b => a ^^^ b)
  | .vnotShort k vd vs => some (false, k, vd, [vs], fun t => t != tNone, fun a _ => ~~~a)
  | .vmovShort k vd vs => some (false, k, vd, [vs], fun _ => true, fun a _ => a)
  | _ => none

/-- An element of a register: `j`-th of its lane, of the width of a tag (R209). -/
def Sys2Proof.Claims.element (c : Context) (t : Tag) (r : BitVec 4) (i j : Nat) : Nat := (c.lane r i).toNat / 2 ^ (tagBits t * j) % 2 ^ tagBits t

/-- A lane of a result whose element `j` is `f j`, with the flags of its elements. -/
def Sys2Proof.Claims.IsLane (t : Tag) (f : Nat → Nat × FpFlags) (r : LaneResult) : Prop :=
  (∀ j, j < 32 / tagBits t → r.1.toNat / 2 ^ (tagBits t * j) % 2 ^ tagBits t = (f j).1 % 2 ^ tagBits t) ∧
    r.2 = ((List.range (32 / tagBits t)).map fun j => (f j).2).foldl FpFlags.or {}

/-- The tags of sources in TRAPVAL (R106). -/
def Sys2Proof.Claims.tagsVal (ts : List Tag) (old : Nat) : Word :=
  BitVec.ofNat 64 ((ts.getD 0 0#6).toNat + 2 ^ 8 * (ts.getD 1 0#6).toNat + 2 ^ 16 * (ts.getD 2 0#6).toNat + 2 ^ 24 * old)

/-- The elementwise vector instructions, long and short, compute each element of each active lane, and refuse as R224 orders. For every state with a claim, and every instruction of R228, R231 and R233 or its 16-bit form, whose sources carry one accepted tag that a merging destination carries too: every element of every active lane is the operation on the same elements of its sources, integers wrapping and floats rounded once; inactive lanes merge or zero; the register takes the tag; the flags of active lanes are raised; nothing else changes. In user mode, no claim takes NoVectorWidth, and other tags TagMismatch with the source tags, and the old destination tag where that is at fault. (R224, R225, R226, R228, R231, R233, R209, R45) -/
def Obligations.VectorElementwise : Prop :=
  (∀ (s : State) (i : Instr) (z : Bool) (k : BitVec 3) (vd : BitVec 4) (srcs : List (BitVec 4)) (p : Tag → Bool) (f : Tag → List Nat → Nat × FpFlags) (t : Tag),
    elemOp i = some (z, k, vd, srcs, p, f) →
    (s.me.ctx.vec.w ≠ 0 → s.me.ctx.vec.w ≤ 256 → (∀ r ∈ srcs, s.me.ctx.vtag r = t) → p t = true → (k = 0#3 ∨ z = true ∨ s.me.ctx.vtag vd = t) →
      ∃ u g, exec i s = .next u ∧ OnlyContext s u ∧ u.me.note = .done ∧ WroteLanes z k vd t g s.me.ctx u.me.ctx ∧
        ∀ n, n < s.me.ctx.vec.w → IsLane t (fun j => f t (srcs.map fun r => element s.me.ctx t r n j)) (g n)) ∧
    (s.me.sup = false → s.me.ctx.vec.w = 0 → Refuses s i 0x0C#8 0#64) ∧
    (s.me.sup = false → s.me.ctx.vec.w ≠ 0 → ¬ (∃ t', (∀ r ∈ srcs, s.me.ctx.vtag r = t') ∧ p t' = true) →
      Refuses s i 0x03#8 (tagsVal (srcs.map s.me.ctx.vtag) 0)) ∧
    (s.me.sup = false → s.me.ctx.vec.w ≠ 0 → (∀ r ∈ srcs, s.me.ctx.vtag r = t) → p t = true → k ≠ 0#3 → z = false → s.me.ctx.vtag vd ≠ t →
      Refuses s i 0x03#8 (tagsVal (srcs.map s.me.ctx.vtag) (s.me.ctx.vtag vd).toNat))) ∧
  (∀ (s : State) (i : Instr) (z : Bool) (k : BitVec 3) (vd : BitVec 4) (srcs : List (BitVec 4)) (p : Tag → Bool) (f : Word32 → Word32 → Word32) (t : Tag),
    bitOp i = some (z, k, vd, srcs, p, f) → s.me.ctx.vec.w ≠ 0 → s.me.ctx.vec.w ≤ 256 → (∀ r ∈ srcs, s.me.ctx.vtag r = t) → p t = true →
    (k = 0#3 ∨ z = true ∨ s.me.ctx.vtag vd = t) →
    ∃ u, exec i s = .next u ∧ OnlyContext s u ∧ u.me.note = .done ∧
      WroteLanes z k vd t (fun n => (f (s.me.ctx.lane (srcs.getD 0 0#4) n) (s.me.ctx.lane (srcs.getD 1 0#4) n), {})) s.me.ctx u.me.ctx)

/-- The outcome and the NV flag of a lane compared under a condition code (R229). -/
def Sys2Proof.Claims.compared (cc : BitVec 4) (t : Tag) (a b : Word32) : Bool × Bool :=
  if t = tF32 then
    let x := fp32.decode a.toNat
    let y := fp32.decode b.toNat
    let nan := x.isNaN || y.isNaN
    let r := if cc = 0x0#4 then !nan && x.numEq y else if cc = 0x1#4 then nan || !x.numEq y else if cc = 0x2#4 then !nan && x.numLt y
      else if cc = 0x3#4 then !nan && !x.numLt y else if cc = 0x6#4 then !nan && y.numLt x else if cc = 0x7#4 then !nan && !y.numLt x else nan
    (r, if cc = 0x0#4 ∨ cc = 0x1#4 ∨ cc = 0xC#4 then x.isSNaN || y.isSNaN else nan)
  else if t = tI32 then (condHolds cc (a.signExtend 64) (b.signExtend 64), false)
  else (condHolds cc (a.setWidth 64) (b.setWidth 64), false)

/-- Whether R229 gives a condition code a meaning for a tag. -/
def Sys2Proof.Claims.compares (cc : BitVec 4) (t : Tag) : Prop :=
  (t = tI32 ∨ t = tU32) ∧ cc.toNat < 12 ∨ t = tF32 ∧ cc ∈ [0x0#4, 0x1#4, 0x2#4, 0x3#4, 0x6#4, 0x7#4, 0xC#4]

/-- The d-register that a four-bit field names. -/
def Sys2Proof.Claims.dOf (n : BitVec 4) : Fin 12 := Fin.ofNat 12 n.toNat

/-- VSEL, VCMP, VBCST, VEXTR, VDOT4 and VTAG give the lanes, mask bits, elements and tags of their rules. For every state with a claim: VSEL, long or short, of two registers of one tag takes each lane by the mask; VCMP of I32, U32 or F32 registers sets the mask bit of each active lane to the condition and raises NV; VBCST gives every element of the active lanes the low bits of dN; VEXTR writes element dN, extended as its tag says, or 0 beyond the last; VDOT4 adds to each lane the exact products of its packed elements, wrapping, or rounded once for BF16; VTAG copies the bits and sets the tag, and a reserved tag takes IllegalCombination (user mode). Nothing else changes. (R228, R229, R230, R232, R234, R45, R219) -/
def Obligations.VectorSelectCompareAndTag : Prop :=
  ∀ (s : State), let c := s.me.ctx
    c.vec.w ≠ 0 → c.vec.w ≤ 256 → (∀ r : BitVec 4, (c.vreg r).length = c.vec.w) →
    (∀ (k : BitVec 3) (vd va vb : BitVec 4), c.vtag va = c.vtag vb → c.vtag va ≠ tNone →
      ∃ u, exec (.vsel k vd va vb) s = .next u ∧ OnlyContext s u ∧ u.me.note = .done ∧
        WroteLanes false 0#3 vd (c.vtag va) (fun i => (if isActive c k i then c.lane va i else c.lane vb i, {})) c u.me.ctx) ∧
    (∀ (k : BitVec 3) (vd vs : BitVec 4), c.vtag vd = c.vtag vs → c.vtag vd ≠ tNone →
      ∃ u, exec (.vselShort k vd vs) s = .next u ∧ OnlyContext s u ∧ u.me.note = .done ∧
        WroteLanes false 0#3 vd (c.vtag vd) (fun i => (if isActive c k i then c.lane vd i else c.lane vs i, {})) c u.me.ctx) ∧
    (∀ (z : Bool) (k : BitVec 3) (cc kd va vb : BitVec 4), c.vtag va = c.vtag vb → compares cc (c.vtag va) →
      ∃ u, exec (.vcmp z k cc kd va vb) s = .next u ∧ OnlyContext s u ∧ u.me.note = .done ∧
        WroteMask kd (fun i => if isActive c k i then (compared cc (c.vtag va) (c.lane va i) (c.lane vb i)).1
          else !z && (if kd.toNat % 8 = 0 then true else c.vec.k[kd.toNat % 8].getLsbD i)) c u.me.ctx ∧
        u.me.ctx.sys.status = (if ∃ i, i < c.vec.w ∧ isActive c k i = true ∧ (compared cc (c.vtag va) (c.lane va i) (c.lane vb i)).2 = true
          then c.sys.status ||| 0x0400#16 else c.sys.status)) ∧
    (∀ (z : Bool) (k : BitVec 3) (ts vd dn : BitVec 4), let t := if ts = 0#4 then c.vtag vd else ts.setWidth 6
      t ≠ tNone → (k = 0#3 ∨ z = true ∨ c.vtag vd = t) →
      ∃ u g, exec (.vbcst z k ts vd dn) s = .next u ∧ OnlyContext s u ∧ u.me.note = .done ∧ WroteLanes z k vd t g c u.me.ctx ∧
        ∀ n, n < c.vec.w → IsLane t (fun _ => (c.exe.d[dOf dn].toNat, {})) (g n)) ∧
    (∀ (dx va dn : BitVec 4), let t := c.vtag va; let i := c.exe.d[dOf dn].toNat; let m := 32 / tagBits t
      t ≠ tNone → ∃ u, exec (.vextr dx va dn) s = .next u ∧ OnlyContext s u ∧ u.me.note = .done ∧
        Wrote .execute (.d (dOf dx)) (if i < c.vec.w * m then BitVec.ofInt 64 (elemInt t (element c t va (i / m) (i % m))) else 0#64) c u.me.ctx) ∧
    (∀ (z : Bool) (k : BitVec 3) (vd va vb vc : BitVec 4), let r := c.vtag vc
      [c.vtag va, c.vtag vb, r] ∈ [[tI8, tI8, tI32], [tU8, tU8, tU32], [tI8, tU8, tI32], [tBF16, tBF16, tF32]] →
      (k = 0#3 ∨ z = true ∨ c.vtag vd = r) →
      ∃ u g, exec (.vdot4 z k vd va vb vc) s = .next u ∧ OnlyContext s u ∧ u.me.note = .done ∧ WroteLanes z k vd r g c u.me.ctx ∧
        (r ≠ tF32 → ∀ n, n < c.vec.w → g n = (BitVec.ofInt 32 ((c.lane vc n).toNat +
          ((List.range 4).map fun j => elemInt (c.vtag va) (element c (c.vtag va) va n j) * elemInt (c.vtag vb) (element c (c.vtag vb) vb n j)).sum), {})) ∧
        (r = tF32 → ∀ n, n < c.vec.w → g n = dotBf (c.lane va n) (c.lane vb n) (c.lane vc n))) ∧
    (∀ (t : Tag) (vd va : BitVec 4), tagOk t = true →
      ∃ u, exec (.vtag t vd va) s = .next u ∧ OnlyContext s u ∧ u.me.note = .done ∧ WroteLanes false 0#3 vd t (fun i => (c.lane va i, {})) c u.me.ctx) ∧
    (∀ (t : Tag) (vd va : BitVec 4), tagOk t = false → s.me.sup = false → Refuses s (.vtag t vd va) 0x02#8 (s.me.issue.word.setWidth 64))

/-- Where destination element `e` of `VCVT` comes from (R235), for `cs` source and `cd` destination elements in each of `w` lanes. -/
def Sys2Proof.Claims.converted (cs cd w part e : Nat) : Option Nat :=
  if cd = cs then some e
  else if cs < cd then (if part * cs * w ≤ e ∧ e < part * cs * w + cs * w then some (e - part * cs * w) else none)
  else some (part * cd * w + e)

/-- One element converted (R235). -/
def Sys2Proof.Claims.convertedTo (rm : Rounding) (sat : Bool) (ts td : Tag) (a : Nat) : Nat × FpFlags :=
  let lo : Int := if tagSigned td then -2 ^ (tagBits td - 1) else 0
  let hi : Int := if tagSigned td then 2 ^ (tagBits td - 1) - 1 else 2 ^ tagBits td - 1
  if isInt ts then
    if isInt td then (((if sat then max lo (min hi (elemInt ts a)) else elemInt ts a) % 2 ^ tagBits td).toNat, {})
    else (tagFmt td).round rm sat (Fp.fromInt (elemInt ts a))
  else if isInt td then
    let r := toIntRange rm lo hi ((tagFmt ts).decode a);
    ((r.1 % 2 ^ tagBits td).toNat, r.2)
  else (tagFmt td).round rm sat ((tagFmt ts).decode a)

/-- Element `e` of a register of a tag, counted over all its lanes (R209). -/
def Sys2Proof.Claims.elementAt (c : Context) (t : Tag) (r : BitVec 4) (e : Nat) : Nat := element c t r (e / (32 / tagBits t)) (e % (32 / tagBits t))

/-- VCVT, VQNT and VDQNT convert, quantise and dequantise the elements that their part selects. For every state with a claim: VCVT between integer, float and binary8 tags with a part in range gives each element of the active lanes the converted source element that R235 names, and keeps an element it names none for; VQNT of an F32 register over a multiple of 32 lanes, with three registers apart as R236 asks, writes the codes of each block of 32 to its part of vd, the scales to vs under SCALE, and keeps the other elements; VDQNT writes each element of its part times the scale of its block, in vd's tag. A part out of range takes IllegalCombination (user mode). Nothing else changes but the sticky flags. (R235, R236, R237, R209) -/
def Obligations.VectorConversions : Prop :=
  ∀ (s : State), let c := s.me.ctx
    c.vec.w ≠ 0 → c.vec.w ≤ 256 → (∀ r : BitVec 4, (c.vreg r).length = c.vec.w) →
    (∀ (z : Bool) (k : BitVec 3) (rm : BitVec 2) (sat : Bool) (part : BitVec 2) (vd va : BitVec 4), let ts := c.vtag va; let td := c.vtag vd
      let cs := 32 / tagBits ts; let cd := 32 / tagBits td;
      (isInt ts || isFlt ts || isB8 ts) = true → (isInt td || isFlt td || isB8 td) = true →
      (part.toNat < max 1 (max (cd / cs) (cs / cd)) →
        ∃ u g, exec (.vcvt z k rm sat part vd va) s = .next u ∧ OnlyContext s u ∧ u.me.note = .done ∧ WroteLanes z k vd td g c u.me.ctx ∧
          ∀ n, n < c.vec.w → IsLane td (fun j => match converted cs cd c.vec.w part.toNat (n * cd + j) with
            | some e => convertedTo (Rounding.of rm) sat ts td (elementAt c ts va e)
            | none => (element c td vd n j, {})) (g n)) ∧
      (max 1 (max (cd / cs) (cs / cd)) ≤ part.toNat → s.me.sup = false →
        Refuses s (.vcvt z k rm sat part vd va) 0x02#8 (s.me.issue.word.setWidth 64))) ∧
    (∀ (rm part : BitVec 2) (vd va vs : BitVec 4), c.vtag va = tF32 → isB8 (c.vtag vd) = true → c.vec.w % 32 = 0 → vs ≠ vd → vs ≠ va →
      let blk := fun b => blockQuant (tagFmt (c.vtag vd)) (Rounding.of rm) ((List.range 32).map fun j => fp32.decode (elementAt c tF32 va (32 * b + j)))
      ∃ u, exec (.vqnt rm part vd va vs) s = .next u ∧ OnlyContext s u ∧ u.me.note = .done ∧
        u.me.ctx.vtag vd = c.vtag vd ∧ u.me.ctx.vtag vs = tScale ∧
        (∀ e, e < 4 * c.vec.w → elementAt u.me.ctx (c.vtag vd) vd e =
          if part.toNat * c.vec.w ≤ e ∧ e < (part.toNat + 1) * c.vec.w then
            (blk ((e - part.toNat * c.vec.w) / 32)).2.1.getD ((e - part.toNat * c.vec.w) % 32) 0 % 256
          else elementAt c (c.vtag vd) vd e) ∧
        (∀ e, e < 4 * c.vec.w → elementAt u.me.ctx tScale vs e =
          if part.toNat * (c.vec.w / 32) ≤ e ∧ e < (part.toNat + 1) * (c.vec.w / 32) then (blk (e - part.toNat * (c.vec.w / 32))).1 % 256
          else elementAt c tScale vs e) ∧
        (∀ r : BitVec 4, r ≠ vd → r ≠ vs → u.me.ctx.vreg r = c.vreg r ∧ u.me.ctx.vtag r = c.vtag r) ∧ SameScalar c u.me.ctx) ∧
    (∀ (part : BitVec 2) (vd va vs : BitVec 4), let ts := c.vtag va; let td := c.vtag vd; let cd := 32 / tagBits td
      isB8 ts = true → c.vtag vs = tScale → isFlt td = true →
      (part.toNat < 4 / cd →
        ∃ u g, exec (.vdqnt part vd va vs) s = .next u ∧ OnlyContext s u ∧ u.me.note = .done ∧ WroteLanes false 0#3 vd td g c u.me.ctx ∧
          ∀ n, n < c.vec.w → IsLane td (fun j => let e := part.toNat * cd * c.vec.w + (n * cd + j)
            deQuant (tagFmt ts) (tagFmt td) (elementAt c ts va e) (elementAt c tScale vs (e / 32))) (g n)) ∧
      (4 / cd ≤ part.toNat → s.me.sup = false → Refuses s (.vdqnt part vd va vs) 0x02#8 (s.me.issue.word.setWidth 64)))

/-- The operation of a reduction on two lanes (R238). -/
def Sys2Proof.Claims.reduced (t : Tag) (op : BitVec 4) (a b : Word32) : LaneResult :=
  let n (x : Word32) : Int := elemInt t x.toNat
  if t = tF32 then
    let r := if op = 0#4 then fp32.addOp .rne a.toNat b.toNat else fp32.minMax (op == 2#4) a.toNat b.toNat;
    (BitVec.ofNat 32 r.1, r.2)
  else if op = 0#4 then (a + b, {})
  else if op = 1#4 then (if n b < n a then b else a, {})
  else if op = 2#4 then (if n a < n b then b else a, {})
  else if op = 3#4 then (a &&& b, {})
  else if op = 4#4 then (a ||| b, {})
  else (a ^^^ b, {})

/-- The value that R238 gives an absent lane. -/
def Sys2Proof.Claims.neutral (t : Tag) (op : BitVec 4) : Word32 :=
  if op = 0#4 then (if t = tF32 then 0x80000000#32 else 0#32)
  else if op = 1#4 then (if t = tF32 then 0x7F800000#32 else if t = tI32 then 0x7FFFFFFF#32 else 0xFFFFFFFF#32)
  else if op = 2#4 then (if t = tF32 then 0xFF800000#32 else if t = tI32 then 0x80000000#32 else 0#32)
  else if op = 3#4 then 0xFFFFFFFF#32 else 0#32

/-- The tree of R238 over 2^n lanes: neighbours are combined level by level. -/
def Sys2Proof.Claims.treeOf (f : Word32 → Word32 → LaneResult) (y : Nat → Word32) : Nat → Nat → Word32
  | 0, i => y i
  | n + 1, i => (f (treeOf f y n (2 * i)) (treeOf f y n (2 * i + 1))).1

/-- The lanes of a scan after its steps at distances 1, 2, …, 2^(n−1) (R238). -/
def Sys2Proof.Claims.scanOf (f : Word32 → Word32 → LaneResult) (x : Nat → Word32) : Nat → Nat → Word32
  | 0, i => x i
  | n + 1, i => if 2 ^ n ≤ i then (f (scanOf f x n (i - 2 ^ n)) (scanOf f x n i)).1 else scanOf f x n i

/-- VRED and VSCAN combine lanes in the order of R238, and the permutations move whole lanes. For every state with a claim: VRED of I32, U32 or F32, with an operation that its tag has, leaves the tree over the active lanes, absent ones neutral, in lane 0 and 0 elsewhere; VSCAN gives each active lane the scan, shifted by one under EX; VPERM takes the lane that vb names, VSLIDE the lane at a signed distance, VZIP and VUNZ interleave and separate two registers of one tag, VIOTA counts the active lanes below, and VCOMP packs the active lanes at the bottom; a lane from beyond the claim is 0. The tag is that of R239. Bitwise operations on F32 take IllegalCombination (user mode). (R238, R239, R225) -/
def Obligations.VectorReduceAndPermute : Prop :=
  ∀ (s : State), let c := s.me.ctx; let w := s.me.ctx.vec.w
    w ≠ 0 → w ≤ 256 → (∀ r : BitVec 4, (c.vreg r).length = w) →
    (∀ (k : BitVec 3) (op vd va : BitVec 4) (n : Nat), let t := c.vtag va;
      (t = tI32 ∨ t = tU32 ∨ t = tF32) → op.toNat < 6 → w ≤ 2 ^ n → (∀ m, w ≤ 2 ^ m → n ≤ m) →
      ((t = tF32 → op.toNat < 3) →
        ∃ u, exec (.vred k op vd va) s = .next u ∧ OnlyContext s u ∧ u.me.note = .done ∧ u.me.ctx.vtag vd = t ∧
          u.me.ctx.vreg vd = treeOf (reduced t op) (fun i => if i < w ∧ isActive c k i = true then c.lane va i else neutral t op) n 0 :: List.replicate (w - 1) 0#32 ∧
          (∀ r : BitVec 4, r ≠ vd → u.me.ctx.vreg r = c.vreg r ∧ u.me.ctx.vtag r = c.vtag r) ∧ SameScalar c u.me.ctx) ∧
      (t = tF32 → 3 ≤ op.toNat → s.me.sup = false → Refuses s (.vred k op vd va) 0x02#8 (s.me.issue.word.setWidth 64))) ∧
    (∀ (z : Bool) (k : BitVec 3) (ex : Bool) (op : BitVec 3) (vd va : BitVec 4) (n : Nat), let t := c.vtag va; let o : BitVec 4 := op.setWidth 4;
      (t = tI32 ∨ t = tU32 ∨ t = tF32) → op.toNat < 6 → (t = tF32 → op.toNat < 3) → w ≤ 2 ^ n → (∀ m, w ≤ 2 ^ m → n ≤ m) → (k = 0#3 ∨ z = true ∨ c.vtag vd = t) →
      ∃ u, exec (.vscan z k ex op vd va) s = .next u ∧ OnlyContext s u ∧ u.me.note = .done ∧ u.me.ctx.vtag vd = t ∧ SameScalar c u.me.ctx ∧
        (∀ r : BitVec 4, r ≠ vd → u.me.ctx.vreg r = c.vreg r ∧ u.me.ctx.vtag r = c.vtag r) ∧
        ∀ i, i < w → u.me.ctx.lane vd i = if isActive c k i then
          (if ex = false then scanOf (reduced t o) (c.lane va) n i
            else if i = 0 then (if t = tF32 ∧ op = 0#3 then 0#32 else neutral t o) else scanOf (reduced t o) (c.lane va) n (i - 1))
          else if z then 0#32 else c.lane vd i) ∧
    (∀ (z : Bool) (k : BitVec 3) (part : Bool) (vd va vb dn : BitVec 4),
      let t := c.vtag va
      let moved := fun (i : Instr) (f : Nat → Word32) =>
        ∃ u, exec i s = .next u ∧ OnlyContext s u ∧ u.me.note = .done ∧ WroteLanes z k vd t (fun i => (f i, {})) c u.me.ctx
      t ≠ tNone → (k = 0#3 ∨ z = true ∨ c.vtag vd = t) →
      (c.vtag vb = tI32 ∨ c.vtag vb = tU32 → moved (.vperm z k vd va vb) fun i => if (c.lane vb i).toNat < w then c.lane va (c.lane vb i).toNat else 0#32) ∧
      moved (.vslide z k vd va dn) (fun i => let j := (i : Int) + c.exe.d[dOf dn].toInt
        if 0 ≤ j ∧ j < w then c.lane va j.toNat else 0#32) ∧
      (c.vtag vb = t → moved (.vzip z k part vd va vb) (fun i => c.lane (if i % 2 = 0 then va else vb) ((if part then w / 2 else 0) + i / 2)) ∧
        moved (.vunz z k part vd va vb) (fun i => if i < w / 2 then c.lane va (2 * i + part.toNat) else c.lane vb (2 * (i - w / 2) + part.toNat)))) ∧
    (∀ (k : BitVec 3) (vd va : BitVec 4), let on := (List.range w).filter (isActive c k);
      (∃ u, exec (.viota k vd) s = .next u ∧ OnlyContext s u ∧ u.me.note = .done ∧
        WroteLanes false 0#3 vd tI32 (fun i => (BitVec.ofNat 32 (on.filter (· < i)).length, {})) c u.me.ctx) ∧
      (c.vtag va ≠ tNone → ∃ u, exec (.vcomp k vd va) s = .next u ∧ OnlyContext s u ∧ u.me.note = .done ∧
        WroteLanes false 0#3 vd (c.vtag va) (fun i => (match on[i]? with
          | some j => c.lane va j
          | none => 0#32, {})) c u.me.ctx))

/-- The addresses of the lanes of a vector access (R241), and the accesses themselves: loading or storing, register, mask, lookahead and tag of the result. -/
def Sys2Proof.Claims.lanesOf (c : Context) : Instr → Option (Bool × BitVec 4 × BitVec 3 × BitVec 4 × Tag × (Nat → Word))
  | .vld ts k la vd b => some (true, vd, k, la, if ts = 0#4 then c.vtag vd else ts.setWidth 6, fun i => jumpValue b c + BitVec.ofNat 64 (4 * i))
  | .vlds ix k la vd b => some (true, vd, k, la, c.vtag vd, fun i => jumpValue b c + BitVec.ofNat 64 i * c.acc.a[dOf ix])
  | .vldx ix k la vd b =>
      if c.vtag ix = tI32 then some (true, vd, k, la, c.vtag vd, fun i => jumpValue b c + 4#64 * (c.lane ix i).signExtend 64)
      else if c.vtag ix = tU32 then some (true, vd, k, la, c.vtag vd, fun i => jumpValue b c + 4#64 * (c.lane ix i).setWidth 64) else none
  | .vst k la vd b => some (false, vd, k, la, c.vtag vd, fun i => jumpValue b c + BitVec.ofNat 64 (4 * i))
  | .vsts ix k la vd b => some (false, vd, k, la, c.vtag vd, fun i => jumpValue b c + BitVec.ofNat 64 i * c.acc.a[dOf ix])
  | .vstx ix k la vd b =>
      if c.vtag ix = tI32 then some (false, vd, k, la, c.vtag vd, fun i => jumpValue b c + 4#64 * (c.lane ix i).signExtend 64)
      else if c.vtag ix = tU32 then some (false, vd, k, la, c.vtag vd, fun i => jumpValue b c + 4#64 * (c.lane ix i).setWidth 64) else none
  | _ => none

/-- An address of the strand's on-chip windows that it may access (R5, R6): its key is what `key` says. -/
def Sys2Proof.Claims.OnChip (s : State) (va : Word) (need : Need) (key : Nat) : Prop :=
  onChipLo ≤ va.toNat ∧ va.toNat < onChipHi ∧ va.toNat % 4 = 0 ∧ canonical va = true ∧ key < 2 ^ 50 ∧ s.mem.poisoned key = false ∧
    windowPlace (s.part s.me.launch.part) s.me.core va.toNat need = .ok { key := key }

/-- The vector loads and stores move one word for each active lane, at the addresses of R241, and those of the slices stay in the strand. For every state with a claim whose active lanes address unpoisoned words of the on-chip windows, in a turn that makes all its accesses: VLD, VLDS and VLDX put into each active lane the word at its address, at once with lookahead 0 and else through a window, keep the other lanes, set the tag and change no memory; VST, VSTS and VSTX store the lanes in increasing order, so that an address named twice keeps the highest lane, and change no other byte, full/empty bit or register. VLDL and VSTL at a multiple of 4 up to 4,092 move the word at that offset of each active lane's own slice, and take Misaligned or ProtectionFault otherwise (user mode). (R241, R242, R243, R225, R5) -/
def Obligations.VectorMemory : Prop :=
  (∀ (s : State) (i : Instr) (ld : Bool) (vd : BitVec 4) (k : BitVec 3) (la : BitVec 4) (t : Tag) (at_ : Nat → Word) (key : Nat → Nat),
    lanesOf s.me.ctx i = some (ld, vd, k, la, t, at_) → Unbroken s → s.me.ctx.vec.w ≠ 0 → s.me.ctx.vec.w ≤ 256 →
    (∀ n, n < s.me.ctx.vec.w → isActive s.me.ctx k n = true → OnChip s (at_ n) (if ld then needR else needW) (key n)) →
    (ld = true → (k = 0#3 ∨ s.me.ctx.vtag vd = t) →
      ∃ u ls, exec i s = .next u ∧ Completes s u ∧ u.mem = s.mem ∧
        u.me.ctx = s.me.ctx.writeLate s.me.issue.pos (s.lookahead la.toNat) (.v vd ls t) ∧
        (la = 0#4 → WroteLanes false k vd t (fun n => (BitVec.ofNat 32 (s.mem.read (key n) 4), {})) s.me.ctx u.me.ctx)) ∧
    (ld = false → s.mem.wf = true →
      ∃ u, exec i s = .next u ∧ Completes s u ∧ u.me.ctx = s.me.ctx ∧ (∀ a, u.mem.keptFull a = s.mem.keptFull a) ∧
        (∀ n j, n < s.me.ctx.vec.w → j < 4 → isActive s.me.ctx k n = true →
          (∀ m, n < m → m < s.me.ctx.vec.w → isActive s.me.ctx k m = true → key m ≠ key n) →
          u.mem.byte (key n + j) = (s.me.ctx.lane vd n).extractLsb' (8 * j) 8) ∧
        (∀ a, (∀ n, n < s.me.ctx.vec.w → isActive s.me.ctx k n = true → a < key n ∨ key n + 4 ≤ a) → u.mem.byte a = s.mem.byte a))) ∧
  (∀ (s : State) (k : BitVec 3) (la vd : BitVec 4) (b : Reg), let c := s.me.ctx
    let off := (jumpValue b c).toNat
    c.vec.w ≠ 0 → c.vec.w ≤ 256 →
    (off % 4 = 0 → off ≤ 4092 → (∀ n, n < c.vec.w → isActive c k n = true → c.vec.slice.poisoned (4096 * n + off) = false) →
      (∃ u ls, exec (.vldl k la vd b) s = .next u ∧ OnlyContext s u ∧ u.me.note = .done ∧
        u.me.ctx = c.writeLate s.me.issue.pos (s.lookahead la.toNat) (.v vd ls (c.vtag vd)) ∧
        (la = 0#4 → WroteLanes false k vd (c.vtag vd) (fun n => (BitVec.ofNat 32 (c.vec.slice.read (4096 * n + off) 4), {})) c u.me.ctx)) ∧
      (c.vec.slice.wf = true → ∃ u, exec (.vstl k la vd b) s = .next u ∧ OnlyContext s u ∧ u.me.note = .done ∧
        (∀ n j, n < c.vec.w → j < 4 → u.me.ctx.vec.slice.byte (4096 * n + off + j) =
          if isActive c k n then (c.lane vd n).extractLsb' (8 * j) 8 else c.vec.slice.byte (4096 * n + off + j)) ∧
        (∀ a, (∀ n, n < c.vec.w → a < 4096 * n + off ∨ 4096 * n + off + 4 ≤ a) → u.me.ctx.vec.slice.byte a = c.vec.slice.byte a) ∧
        u.me.ctx = { c with vec := { c.vec with slice := u.me.ctx.vec.slice } })) ∧
    (off % 4 ≠ 0 → s.me.sup = false → Refuses s (.vldl k la vd b) 0x05#8 (jumpValue b c) ∧ Refuses s (.vstl k la vd b) 0x05#8 (jumpValue b c)) ∧
    (off % 4 = 0 → 4092 < off → s.me.sup = false → Refuses s (.vldl k la vd b) 0x07#8 (jumpValue b c) ∧ Refuses s (.vstl k la vd b) 0x07#8 (jumpValue b c)))

/-- The lanes of a cluster that no strand on its cores claims, less those owed to waiting resumptions, in whole sixteens (R220). -/
def Sys2Proof.Claims.available (s : State) : Nat := 16 * ((s.freeLanes s.myCluster - s.owedLanes s.myCluster) / 16)

/-- A claim of `g` lanes in the place of the old one (R219): lanes both have keep their registers, masks and slices, new ones are zero, and lanes beyond are gone. -/
def Sys2Proof.Claims.Reclaimed (g : Nat) (c e : Context) : Prop :=
  e.vec.w = g ∧ e.vec.tag = c.vec.tag ∧
    (∀ r : BitVec 4, (e.vreg r).length = g ∧ ∀ i, i < g → e.lane r i = c.lane r i) ∧
    (∀ q : Fin 8, ∀ i, i < 256 → e.vec.k[q].getLsbD i = (decide (i < min g c.vec.w) && c.vec.k[q].getLsbD i)) ∧
    (∀ a, e.vec.slice.byte a = if 4096 * g ≤ a then 0#8 else c.vec.slice.byte a) ∧
    e.sys.status = (if g = 0 then c.sys.status &&& ~~~0x0004#16 else c.sys.status ||| 0x0004#16)

/-- VCLAIM, VREL and VWID change and report the claim, and the mask instructions act on its lanes alone. For every state whose claim has at most 256 lanes: VCLAIM of n lanes grants them all where the claim has as many, and otherwise as many more as the cluster has free in whole sixteens, writes the grant to dx, records the shortfall, and keeps what the common lanes hold; VREL gives up every lane; VWID writes the width. KAND, KOR, KXOR, KNOT and KMOV set the bits of the claim, no bit beyond, and never k0; KPOP counts the set bits and KFIRST names the lowest, or all ones; without a claim these seven take NoVectorWidth (user mode). Memory and other strands are as before. (R219, R220, R222, R240, R224, R18) -/
def Obligations.LaneClaimsAndMasks : Prop :=
  (∀ (s : State) (n dx : BitVec 4), let w := s.me.ctx.vec.w; let r := 16 * (n.toNat + 1)
    let g := if r ≤ w then r else w + min (r - w) (available s)
    w ≤ 256 → (∀ q : BitVec 4, (s.me.ctx.vreg q).length = w) → s.me.ctx.vec.slice.wf = true → Tab.wf [] s.shorts = true →
    (∃ t c, exec (.vclaim n dx) s = .next t ∧ t.me.note = .done ∧ t.mem = s.mem ∧ t.others = s.others ∧ Reclaimed g s.me.ctx c ∧
      Wrote .execute (.d (dOf dx)) (BitVec.ofNat 64 g) c t.me.ctx ∧
      Tab.get [] t.shorts s.myCluster = (Tab.get [] s.shorts s.myCluster).filter (fun x => x.1 != s.me.sid) ++ (if g < r then [(s.me.sid, r - g)] else [])) ∧
    (w ≠ 0 → ∃ t, exec .vrel s = .next t ∧ t.me.note = .done ∧ t.mem = s.mem ∧ t.others = s.others ∧ Reclaimed 0 s.me.ctx t.me.ctx ∧
      t.me.ctx.acc = s.me.ctx.acc ∧ t.me.ctx.exe = s.me.ctx.exe ∧
      Tab.get [] t.shorts s.myCluster = (Tab.get [] s.shorts s.myCluster).filter (fun x => x.1 != s.me.sid)) ∧
    (w = 0 → exec .vrel s = .next { s with me := { s.me with note := .done } }) ∧
    (∃ t, exec (.vwid dx) s = .next t ∧ OnlyContext s t ∧ t.me.note = .done ∧ Wrote .execute (.d (dOf dx)) (BitVec.ofNat 64 w) s.me.ctx t.me.ctx)) ∧
  (∀ (s : State) (kd ka kb dx : BitVec 4), let c := s.me.ctx
    let bit := fun (k : BitVec 4) i => if k.toNat % 8 = 0 then true else c.vec.k[k.toNat % 8].getLsbD i
    let masks := fun (i : Instr) (f : Nat → Bool) => ∃ t, exec i s = .next t ∧ OnlyContext s t ∧ t.me.note = .done ∧ t.me.ctx.sys = c.sys ∧ WroteMask kd f c t.me.ctx
    let counts := fun (i : Instr) (v : Word) => ∃ t, exec i s = .next t ∧ OnlyContext s t ∧ t.me.note = .done ∧ Wrote .execute (.d (dOf dx)) v c t.me.ctx
    c.vec.w ≠ 0 → c.vec.w ≤ 256 →
    masks (.kand kd ka kb) (fun i => bit ka i && bit kb i) ∧ masks (.kor kd ka kb) (fun i => bit ka i || bit kb i) ∧
    masks (.kxor kd ka kb) (fun i => bit ka i != bit kb i) ∧ masks (.knot kd ka) (fun i => !bit ka i) ∧ masks (.kmov kd ka) (bit ka) ∧
    counts (.kpop dx ka) (BitVec.ofNat 64 ((List.range c.vec.w).filter (bit ka)).length) ∧
    (∀ n, n < c.vec.w → bit ka n = true → (∀ m, m < n → bit ka m = false) → counts (.kfirst dx ka) (BitVec.ofNat 64 n)) ∧
    ((∀ m, m < c.vec.w → bit ka m = false) → counts (.kfirst dx ka) (BitVec.allOnes 64))) ∧
  (∀ (s : State) (kd ka kb : BitVec 4) (i : Instr), s.me.ctx.vec.w = 0 → s.me.sup = false →
    i ∈ [.kand kd ka kb, .kor kd ka kb, .kxor kd ka kb, .knot kd ka, .kmov kd ka, .kpop kd ka, .kfirst kd ka] → Refuses s i 0x0C#8 0#64)

/-- What a matrix instruction submits: kind, handle register, lookahead, region register, tile and whether the tile starts from zero (R251, R257). -/
def Sys2Proof.Claims.jobOf : Instr → Option (JobKind × Option (BitVec 4) × BitVec 4 × BitVec 4 × Nat × Bool)
  | .mma h zi la qa z => some (.mma, some h, la, qa, z.toNat, zi)
  | .mmas h zi la qa z => some (.mmas, some h, la, qa, z.toNat, zi)
  | .mmar h zi la qa z => some (.mmar, some h, la, qa, z.toNat, zi)
  | .bld _ la qa => some (.bld, none, la, qa, 0, false)
  | .bmeta la qa => some (.bmeta, none, la, qa, 0, false)
  | _ => none

/-- The shape that a job carries: of the latch it multiplies by, or that it loads (R255, R258). -/
def Sys2Proof.Claims.shapeOf (g : Segment) (r : Region) : Instr → LatchShape
  | .bld c _ _ => { mode := if c then .compressed else .dense, k := r.extent 0, n := r.extent 1 }
  | .bmeta _ _ => { mb := r.extent 0 / 9 }
  | _ => g.shape

/-- The checks of R255 and R258 before the bytes of the region are judged: the tile, its tag, the region and the latch shape, and that the latch is the strand's. -/
def Sys2Proof.Claims.Fit (sid : StrandId) (g : Segment) (r : Region) (i : Instr) : Prop :=
  let plain (rank esz : Nat) := r.tda ≠ 0#64 ∧ r.rank = rank ∧ r.esz = esz ∧ r.rows = none ∧ r.boxes.length = 1
  let held (z : BitVec 3) (zi : Bool) := (g.tile z.toNat).holder = some sid ∧ ((g.tile z.toNat).tag = .f32 ∨ zi = true) ∧
    plain 2 1 ∧ r.extent 0 ≤ 32 ∧ r.ovf = false
  match i with
  | .mma _ zi _ _ z => held z zi ∧ g.shape.mode = .dense ∧ r.extent 1 = g.shape.k ∧ g.owner = sid ∧ g.valid = true
  | .mmas _ zi _ _ z => held z zi ∧ g.shape.mode = .compressed ∧ r.extent 1 = 2 * g.shape.k ∧ r.extent 1 = 8 * g.shape.mb ∧
      g.owner = sid ∧ g.valid = true
  | .mmar _ zi _ _ z => held z zi ∧ g.shape.mode = .dense ∧ g.shape.k % 16 = 0 ∧ r.extent 1 = 8 * g.shape.k
  | .bld c _ _ => plain 2 1 ∧ r.extent 1 ≤ 64 ∧ r.extent 0 ≤ 128 ∧ (c = true → r.extent 0 % 4 = 0)
  | .bmeta _ _ => plain 1 3 ∧ r.extent 0 % 9 = 0 ∧ r.extent 0 ≤ 288 ∧ ((r.boxes.headD []).getD 0 Dim.pad).step = 1
  | _ => False

/-- The region that a matrix instruction reads: an overflowed one stands for its hull in `BLD` (R140, R255). -/
def Sys2Proof.Claims.regionOf (c : Context) (qa : BitVec 4) : Instr → Region
  | .bld _ _ _ => if (c.q qa).ovf = true ∧ (c.q qa).rows = none then { c.q qa with boxes := [hullOf (c.q qa).boxes] } else c.q qa
  | _ => c.q qa

/-- The round that the next ring job of the strand in turn joins has not timed out (R260): no member of it was accepted 2^22 mesh cycles ago. -/
def Sys2Proof.Claims.RoundOpen (s : State) : Prop :=
  (s.matrixOf (clusterOfCore s.me.core)).dead = [] ∧ ∀ j ∈ (s.matrixOf (clusterOfCore s.me.core)).jobs,
    j.kind.ring = true → j.round = (s.segment s.me.core).rings → s.meshNow.1 < j.since + 2 ^ 22

/-- A job has joined the cluster's queue under the next number, with nothing found yet, and the strand holds its handle or waits for it (R247 to R250, R259);
a job that writes a tile and has lookahead opens a window on it (R49). -/
def Sys2Proof.Claims.Joined (u t : State) (kind : JobKind) (h : Option (BitVec 4)) (la : BitVec 4) (tile : Nat) (zi : Bool)
    (src : Operand) (shape : LatchShape) : Prop :=
  let k := clusterOfCore u.me.core
  let n := (u.matrixOf k).accepted
  let handle := BitVec.ofNat 64 (k % 256 * 65536 + n % 65536)
  let ctx := if la = 0#4 ∨ kind ∉ [.mma, .mmas, .mmar] then u.me.ctx
    else { u.me.ctx with acc := { u.me.ctx.acc with
      tileWindows := u.me.ctx.acc.tileWindows ++ [⟨u.me.issue.pos, u.me.issue.pos + la.toNat, tile, n, none⟩] } }
  (∃ j, (t.matrixOf k).jobs = (u.matrixOf k).jobs ++ [j] ∧ j.idx = n ∧ j.kind = kind ∧ j.origin.sid = u.me.sid ∧ j.origin.launch = u.me.launch ∧
    j.origin.core = u.me.core ∧ j.tile = tile ∧ j.zi = zi ∧
    j.source = src ∧ j.shape = shape ∧ j.running = false ∧ j.found.err = 0) ∧
  (t.matrixOf k).accepted = n + 1 ∧ Tab.get none (t.matrixOf k).records (n % 1024) = some ⟨n, u.me.sid, 0, {}, false⟩ ∧
  t.mem = u.mem ∧ t.others = u.others ∧ t.me.note = .done ∧
  (match h with
    | none => t.me = { u.me with note := .done }
    | some c => if hc : c.toNat < 12 then
        t.me = { u.me with note := .done, ctx := ctx.writeLate u.me.issue.pos la.toNat (.a ⟨c.toNat, hc⟩ handle) }
      else t.me = { u.me with note := .done, ctx := ctx, frame := .parked, wait := some (.jobForm handle) })

/-- MMA, MMAS, MMAR, BLD, BMETA and BROT submit their job with a handle, commit its effect on the segment, and refuse as R258 orders. For every strand whose cluster has a free job entry: a matrix instruction whose tile, region, latch and bytes pass their checks appends its job to the queue under the next number, writes its handle or waits, and commits at once the tile's tag, or the latch shape, OWNER and VALID; BLD takes an overflowed region by its hull, and a lookahead opens a window on the tile; BROT appends a ring job. A ring job joins a round that has not timed out. A tile the strand does not hold takes AccumulatorNotClaimed with its number, a tile of another tag without .ZI takes TagMismatch with the tag, and a full queue holds the instruction (user mode). Memory, other strands and other registers are as before. (R49, R247, R248, R249, R251, R255, R256, R257, R258, R259, R260) -/
def Obligations.MatrixJobsJoinTheQueue : Prop :=
  (∀ (s u : State) (i : Instr) (kind : JobKind) (h : Option (BitVec 4)) (la qa : BitVec 4) (z : Nat) (zi : Bool) (op : Operand),
    jobOf i = some (kind, h, la, qa, z, zi) →
    let core := s.me.core
    let g := s.segment core
    let r := regionOf s.me.ctx qa i
    Fit s.me.sid g r i →
    s.checkRegion s.origin r needR (if kind = .bld ∨ kind = .bmeta then inReach core else inCore core) = .ok (op, u) →
    core < 1536 → u.me = s.me → u.segment core = g → (u.matrixOf (clusterOfCore core)).jobs.length < 64 → (kind = .mmar → RoundOpen u) →
    Tab.wf {} u.segments = true → Tab.wf {} u.matrix = true → Tab.wf {} g.tiles = true → Tab.wf none (u.matrixOf (clusterOfCore core)).records = true →
    ∃ t, exec i s = .next t ∧ Joined u t kind h la z zi op (shapeOf g r i) ∧
      ((kind = .mma ∨ kind = .mmas ∨ kind = .mmar) → ((t.segment core).tile z).tag = .f32 ∧ ((t.segment core).tile z).holder = some s.me.sid ∧
        ((t.segment core).tile z).elems = (g.tile z).elems ∧ (t.segment core).shape = g.shape) ∧
      ((kind = .bld ∨ kind = .bmeta) → (t.segment core).owner = s.me.sid ∧ (t.segment core).valid = true ∧
        (t.segment core).shape = (if kind = .bmeta then { g.shape with mb := r.extent 0 / 9 }
          else { shapeOf g r i with mb := if (shapeOf g r i).mode = .dense then 0 else g.shape.mb }))) ∧
  (∀ (s : State) (h la : BitVec 4), let k := clusterOfCore s.me.core
    s.me.core < 1536 → (s.matrixOf k).jobs.length < 64 → RoundOpen s → Tab.wf {} s.segments = true → Tab.wf {} s.matrix = true →
    Tab.wf none (s.matrixOf k).records = true →
    ∃ t, exec (.brot h la) s = .next t ∧ Joined s t .brot (some h) la 0 false Operand.unbound {}) ∧
  (∀ (s : State) (h la qa : BitVec 4) (zi : Bool) (z : BitVec 3) (i : Instr), i ∈ [.mma h zi la qa z, .mmas h zi la qa z, .mmar h zi la qa z] →
    s.me.sup = false → let t := (s.segment s.me.core).tile z.toNat
    (t.holder ≠ some s.me.sid → Refuses s i 0x0D#8 (z.setWidth 64)) ∧
    (t.holder = some s.me.sid → zi = false → t.tag = .none → Refuses s i 0x03#8 0#64) ∧
    (t.holder = some s.me.sid → zi = false → t.tag = .i32 → Refuses s i 0x03#8 1#64)) ∧
  (∀ (s : State) (h la : BitVec 4), 64 ≤ (s.matrixOf (clusterOfCore s.me.core)).jobs.length → s.me.undo = none →
    exec (.brot h la) s = .next { s with me := { s.me with pc := s.me.issue.addr, pos := s.me.issue.pos, note := .blocked } })

/-- ZCLAIM, ZREL, ZZERO, ZLD and ZST act on a tile of the segment, and JWAIT, JPOLL and JSTAT on the job a handle names. For every strand: ZCLAIM claims a free tile, empty and without tag, and pd says whether the strand holds it; on a held tile that no accepted job writes, ZREL frees it, ZZERO zeroes it as F32, ZLD loads its elements row by row from a checked region and sets the tag, and ZST stores them, as they were before the job in whose window it stands; ZREL, ZZERO and ZLD end the windows on the tile; a tile not held takes AccumulatorNotClaimed (user mode). For a handle of the partition: JSTAT writes the status word of its record, or expired; JPOLL whether the job is complete or expired; JWAIT parks while it is neither, and then completes, or once takes EngineError. Others are as before. (R49, R250, R252, R253, R254, R266, R267) -/
def Obligations.TilesAndJobWaits : Prop :=
  (∀ (s : State) (pd : BitVec 4) (z : BitVec 3), let core := s.me.core
    let g := s.segment core
    let t := g.tile z.toNat
    Tab.wf {} s.segments = true → Tab.wf {} g.tiles = true →
    let shut (c : Context) := { c with acc := { c.acc with tileWindows := c.acc.tileWindows.filter fun w => w.tile != z.toNat } }
    let seen := match s.me.ctx.acc.tileWindows.find? fun w => w.tile == z.toNat with
      | some w => (w.old.getD t).elems
      | none => t.elems
    let idle := ∀ j ∈ (s.matrixOf (clusterOfCore core)).jobs, ¬ (j.origin.core = core ∧ j.kind ∈ [.mma, .mmas, .mmar] ∧ j.tile = z.toNat)
    (∃ u, exec (.zclaim pd z) s = .next u ∧ WrotePred pd (t.holder == none || t.holder == some s.me.sid) s.me.ctx u.me.ctx ∧ u.me.note = .done ∧
      u = { s with me := { s.me with ctx := u.me.ctx, note := .done }, segments := u.segments } ∧
      (u.segment core).tile z.toNat = (if t.holder = none then { holder := some s.me.sid } else t)) ∧
    (t.holder ≠ some s.me.sid → s.me.sup = false → ∀ qa int,
      Refuses s (.zrel z) 0x0D#8 (z.setWidth 64) ∧ Refuses s (.zzero z) 0x0D#8 (z.setWidth 64) ∧
      Refuses s (.zld int qa z) 0x0D#8 (z.setWidth 64) ∧ Refuses s (.zst qa z) 0x0D#8 (z.setWidth 64)) ∧
    (t.holder = some s.me.sid → idle →
      (∃ u, exec (.zrel z) s = .next u ∧ u = { s with me := { s.me with ctx := shut s.me.ctx, note := .done }, segments := u.segments } ∧ (u.segment core).tile z.toNat = {}) ∧
      (∃ u, exec (.zzero z) s = .next u ∧ u = { s with me := { s.me with ctx := shut s.me.ctx, note := .done }, segments := u.segments } ∧
        (u.segment core).tile z.toNat = { t with elems := [], tag := .f32 }) ∧
      (∀ int qa op v es w, s.tileRegion qa needR = .ok (op, v) → loadTile v t.elems (tileMap op (op.region.extent 1)) = .ok (es, w) →
        Tab.wf {} w.segments = true → w.segment core = g →
        ∃ u, exec (.zld int qa z) s = .next u ∧ u = { w with me := { w.me with ctx := shut w.me.ctx, note := .done }, segments := u.segments } ∧
          (u.segment core).tile z.toNat = { t with elems := es, tag := if int then .i32 else .f32 }) ∧
      (∀ qa op v w, t.tag ≠ .none → s.tileRegion qa needW = .ok (op, v) → storeTile v seen (tileMap op (op.region.extent 1)) = .ok w →
        exec (.zst qa z) s = .next { w with me := { w.me with note := .done } }) ∧
      (∀ qa, t.tag = .none → s.me.sup = false → Refuses s (.zst qa z) 0x03#8 0#64))) ∧
  (∀ (s : State) (r x : Reg) (pd : BitVec 4) (v : Word) (c : Context), s.me.ctx.read .access r = .ok (v, c) →
    v.toNat < 2 ^ 24 → v.toNat / 65536 < 192 → s.ownerOfCluster (v.toNat / 65536) = some s.me.launch.part →
    let q := s.matrixOf (v.toNat / 65536)
    let rec_ := match Tab.get none q.records (v.toNat % 65536 % 1024) with
      | some e => if e.idx % 65536 = v.toNat % 65536 ∧ q.accepted - e.idx ≤ 1024 then some e else none
      | none => none
    let past := match rec_ with
      | some e => e.state == 2
      | none => true
    let word := match rec_ with
      | some e => BitVec.ofNat 64 (e.state % 4 * 2 ^ 62 + e.found.err % 16 * 2 ^ 58 + e.found.nv.toNat * 2 ^ 57 + e.found.ovf.toNat * 2 ^ 56 +
          e.delivered.toNat * 2 ^ 55 + e.found.malf % 65536 * 2 ^ 32 + e.found.pois % 65536 * 2 ^ 16 + v.toNat % 65536)
      | none => BitVec.ofNat 64 (3 * 2 ^ 62 + v.toNat % 65536)
    (hasRoom .access x c → ∃ t, exec (.jstat x r) s = .next t ∧ OnlyContext s t ∧ t.me.note = .done ∧ Wrote .access x word c t.me.ctx) ∧
    (∃ t, exec (.jpoll pd r) s = .next t ∧ OnlyContext s t ∧ t.me.note = .done ∧ WrotePred pd past c t.me.ctx) ∧
    (past = false → s.me.undo = none → ∃ t, exec (.jwait r) s = .next t ∧ ParkedFor s t (.job v) ∧ t = { s with me := t.me }) ∧
    (past = true → (∀ e, rec_ = some e → e.found.err = 0 ∨ e.delivered = true ∨ e.sid ≠ s.me.sid) → exec (.jwait r) s = .next (s.done c)) ∧
    (∀ e, rec_ = some e → e.state = 2 → e.found.err ≠ 0 → e.delivered = false → e.sid = s.me.sid → s.me.sup = false →
      ∃ t, exec (.jwait r) s = .next t ∧ TrapTaken { s with matrix := t.matrix } t 0x12#8 v s.me.issue.addr)) ∧
  (∀ (s : State) (r x : Reg) (pd : BitVec 4) (v : Word) (c : Context), s.me.ctx.read .access r = .ok (v, c) → s.me.sup = false →
    (2 ^ 24 ≤ v.toNat ∨ 192 ≤ v.toNat / 65536 % 256 ∨ s.ownerOfCluster (v.toNat / 65536 % 256) ≠ some s.me.launch.part) →
    Refuses s (.jwait r) 0x02#8 (s.me.issue.word.setWidth 64) ∧ Refuses s (.jpoll pd r) 0x02#8 (s.me.issue.word.setWidth 64) ∧
    Refuses s (.jstat x r) 0x02#8 (s.me.issue.word.setWidth 64))

/-- A command of the copy unit has been offered (R274): with the queue of the cluster full, or for a trigger the table of the core, pd is 0 and nothing is queued;
otherwise pd is 1 and the queue holds the copy, of the strand's open batch, with its sides, its signal and the pieces still to write. -/
def Sys2Proof.Claims.Offered (u t : State) (c : Context) (pd : BitVec 4) (st : CopyState) (p : Prepared) : Prop :=
  let full := 64 ≤ (u.copies.filter fun k => k.cluster == u.myCluster).length
  t.me = { u.me with ctx := t.me.ctx, note := .done, batchUsed := t.me.batchUsed } ∧ t.mem = u.mem ∧ t.others = u.others ∧ t.counters = u.counters ∧
  (full → WrotePred pd false c t.me.ctx ∧ t.copies = u.copies) ∧
  (¬ full → st = .queued → WrotePred pd true c t.me.ctx ∧
    ∃ k, t.copies = u.copies ++ [k] ∧ k.cluster = u.myCluster ∧ k.origin.sid = u.me.sid ∧ k.origin.launch = u.me.launch ∧ k.origin.core = u.me.core ∧
      k.batch = u.me.batchNext ∧ k.state = .queued ∧ k.lss = p.lss ∧ k.lsd = p.lsd ∧ k.src = p.src ∧ k.dst = p.dst ∧ k.signal = p.signal ∧ k.todo = p.todo ∧ k.unused = p.unused)

/-- A trigger has been offered (R292): with the queue of the cluster or the table of the core full, pd is 0; otherwise pd is 1, and the copy stands armed until its
counter reaches the threshold. -/
def Sys2Proof.Claims.Armed (u t : State) (c : Context) (pd : BitVec 4) (va : Word) (n : Nat) (thr : Word) (p : Prepared) : Prop :=
  let full := 64 ≤ (u.copies.filter fun k => k.cluster == u.myCluster).length ∨
    32 ≤ (u.copies.filter fun k => match k.state with
      | .armed .. => k.origin.core == u.me.core
      | _ => false).length
  t.me = { u.me with ctx := t.me.ctx, note := .done, batchUsed := t.me.batchUsed } ∧ t.mem = u.mem ∧ t.others = u.others ∧ t.counters = u.counters ∧
  (full → WrotePred pd false c t.me.ctx ∧ t.copies = u.copies) ∧
  (¬ full → WrotePred pd true c t.me.ctx ∧ t.copies.length = u.copies.length + 1 ∧
    ∃ k, t.copies[u.copies.length]? = some k ∧ k.cluster = u.myCluster ∧ k.origin.sid = u.me.sid ∧ k.origin.launch = u.me.launch ∧ k.origin.core = u.me.core ∧
      k.batch = u.me.batchNext ∧ k.lss = p.lss ∧ k.lsd = p.lsd ∧ k.src = p.src ∧ k.dst = p.dst ∧ k.signal = p.signal ∧
      ((Tab.get 0#64 u.counters n).toNat < thr.toNat → k.state = .armed va n thr ∧ k.todo = p.todo) ∧
      (thr.toNat ≤ (Tab.get 0#64 u.counters n).toNat → (k.state = .queued ∧ k.todo = p.todo) ∨ (k.state = .running ∧ k.err = 1 ∧ k.todo = [])))

/-- An address names an arrival word of this package (R285): its 16 bytes pass the checks of R114, hold no poison and stand in memory or on chip, in a page
whose translation is buffered. -/
def Sys2Proof.Claims.Names (s : State) (va : Word) (need : Need) (key : Nat) : Prop :=
  ∃ pl, s.check va 16 need = .ok pl ∧ pl.key = key ∧ pl.walked = false ∧ key + 16 ≤ 2 ^ 51 ∧ isHost key = false ∧ s.poisonedWords key 16 = []

/-- The conditions of R279 on the packed side and the template of a row copy. -/
def Sys2Proof.Claims.RowCopyFits (packed tmpl : Region) : Prop :=
  packed.tda ≠ 0#64 ∧ tmpl.tda ≠ 0#64 ∧ packed.rows = none ∧ tmpl.rows = none ∧ packed.ovf = false ∧ tmpl.ovf = false ∧
    packed.boxes.length = 1 ∧ tmpl.boxes.length = 1 ∧ packed.rank = tmpl.rank ∧ 2 ≤ packed.rank ∧ packed.esz = tmpl.esz ∧
    packed.extent 0 ≤ 32 ∧ tmpl.extent 0 = 1 ∧ packed.points = packed.extent 0 * tmpl.points

/-- CPY, CPYG, CPYS, HALO, CFILL and ARM offer their copy to the cluster queue, DISARM withdraws a trigger, and an overflowed target is refused. For every strand whose operand can be read: CPY of two bound regions with as many points of one size, with no signal, offers the bytes of the source for those of the destination in canonical order; with other control words it offers what R274 prepares; CFILL offers the low bytes of its value for each point; HALO offers a copy into the shared memory of the neighbour, counting at its mailbox; CPYG and CPYS offer the rows that the index vector names; ARM offers a trigger, armed until its counter reaches the threshold; DISARM of an armed block withdraws it and pd is 1, and else 0. An overflowed target takes RegionOverflowUse (user mode). Memory and the other strands are as before. (R272, R274, R275, R276, R279, R280, R281, R292, R293) -/
def Obligations.CopiesAreOffered : Prop :=
  (∀ (s : State) (pd qd qs : BitVec 4) (r : Reg) (raw : Word) (c : Context), s.me.ctx.read .access r = .ok (raw, c) →
    let d := s.me.ctx.q qd
    let q := s.me.ctx.q qs
    (∀ src dst v u, raw = 0#64 → d.tda ≠ 0#64 → d.ovf = false → d.points = q.points → d.esz = q.esz →
      s.checkRegion s.origin q needR (fun _ => true) = .ok (src, v) → v.checkRegion v.origin d needW (fun _ => true) = .ok (dst, u) →
      ∃ t, exec (.cpy pd qd qs r) s = .next t ∧
        Offered u t c pd .queued { src := some src, dst := some dst, todo := groupPieces (matchBytes d.esz dst.addrs src.addrs) }) ∧
    (∀ k p u, Control.ofWord raw = some k → s.prepareCopy qd qs raw k = .ok (p, u) →
      ∃ t, exec (.cpy pd qd qs r) s = .next t ∧ Offered u t c pd .queued p) ∧
    (∀ dst u, d.ovf = false → s.checkRegion s.origin d needW (fun _ => true) = .ok (dst, u) →
      ∃ t, exec (.cfill pd qd r) s = .next t ∧ Offered u t c pd .queued { dst := some dst, todo := groupPieces (dst.addrs.flatMap fun a =>
        (List.range (2 ^ d.esz)).map fun i => (a.toNat + i, ByteSource.const (raw.extractLsb' (8 * i) 8))) }) ∧
    (∀ n p u v op, raw.toNat < 4 → neighbour s.myCluster raw.toNat = some n → s.prepareCopy qd qs 0#64 ⟨false, false, false, .none⟩ = .ok (p, u) →
      u.checkRegion s.origin d needW (fun k => storageOf k == .shared n) = .ok (op, v) →
      ∃ t, exec (.halo pd qd qs r) s = .next t ∧ Offered v t c pd .queued { p with signal := .counter s.pkg (24576 + 8 * n + (raw.toNat + 2) % 4) }) ∧
    (d.ovf = true → s.me.sup = false → (Control.ofWord raw ≠ none → Refuses s (.cpy pd qd qs r) 0x0B#8 (qd.setWidth 64)) ∧
      Refuses s (.cfill pd qd r) 0x0B#8 (qd.setWidth 64) ∧
      (raw.toNat < 16 → Refuses s (.cpyg pd qd qs r) 0x0B#8 (qd.setWidth 64) ∧ Refuses s (.cpys pd qd qs r) 0x0B#8 (qd.setWidth 64))) ∧
    (∀ (gather : Bool) src dst v u, let packed := if gather then d else q
      let tmpl := if gather then q else d
      let vx : BitVec 4 := raw.setWidth 4
      let n := packed.extent 0
      let ix := (List.range n).map fun i => elemInt (s.me.ctx.vtag vx) (s.me.ctx.lane vx i).toNat
      raw.toNat < 16 → RowCopyFits packed tmpl → s.me.ctx.vec.w ≠ 0 → n ≤ s.me.ctx.vec.w → (s.me.ctx.vtag vx = tI32 ∨ s.me.ctx.vtag vx = tU32) →
      s.checkRows needR (if gather then ix.map tmpl.rowAt else packed.packedRows n) = .ok (src, v) →
      v.checkRows needW (if gather then packed.packedRows n else ix.map tmpl.rowAt) = .ok (dst, u) →
      ∃ t, exec (if gather then .cpyg pd qd qs r else .cpys pd qd qs r) s = .next t ∧ Offered u t c pd .queued
        { todo := groupPieces ((if gather then dst.zip src else dropEarlier (ix.zip (dst.zip src))).flatMap fun x => matchBytes packed.esz x.1.addrs x.2.addrs)
          unused := src.flatMap fun x => x.addrs.flatMap fun a => (List.range (2 ^ packed.esz)).map (a.toNat + ·) })) ∧
  (∀ (s : State) (pd qd qs : BitVec 4) (b : Reg) (va : Word) (c : Context), s.me.ctx.read .access b = .ok (va, c) → canonical va = true → va.toNat % 8 = 0 →
    (∀ sel thr raw v k p u, s.plainLoads va 8 4 = .ok ([sel, thr, raw, 0], v) → sel < 20 → Control.ofWord (BitVec.ofNat 64 raw) = some k →
      v.prepareCopy qd qs (BitVec.ofNat 64 raw) k = .ok (p, u) →
      ∃ t, exec (.arm pd qd qs b) s = .next t ∧
        Armed u t (u.me.ctx.dropSq (popsOf [b])) pd va (if sel < 16 then s.me.core * 16 + sel else 24576 + 8 * clusterOfCore s.me.core + (sel - 16))
          (BitVec.ofNat 64 thr) p)) ∧
  (∀ (s : State) (pd : BitVec 4) (b : Reg) (va : Word) (c : Context), s.me.ctx.read .access b = .ok (va, c) →
    let mine := s.copies.filter fun k => k.origin.sid == s.me.sid && (match k.state with
      | .armed a _ _ => a == va
      | _ => false)
    (mine = [] → ∃ t, exec (.disarm pd b) s = .next t ∧ OnlyContext s t ∧ t.me.note = .done ∧ WrotePred pd false c t.me.ctx) ∧
    (∀ k rest, mine = k :: rest → ∃ t, exec (.disarm pd b) s = .next t ∧ WrotePred pd true c t.me.ctx ∧ t.me.note = .done ∧ t.mem = s.mem ∧
      t.others = s.others ∧ t.copies = s.copies.filter fun x => x.id != k.id))

/-- CNTRD, CNTSET, CSEAL, CWAIT, AWINIT, AWWAIT and QWAIT act on counters, batches, arrival words and the bits of a region. For every strand whose operands can be read: CNTRD writes and CNTSET sets the counter of the core or cluster that a selector below 23 names, firing each trigger that it reaches; CSEAL with fewer than 15 batches unfinished writes the open batch's number and opens the next; CWAIT parks while more than n are unfinished and otherwise completes, or takes the oldest error; AWINIT writes an arrival word of this package anew, AWWAIT completes once the generation has passed, parks before, and takes ArrivalStall on a stalled word; QWAIT of words of this package completes when every word of its region is full, and parks before or, with a stalled arrival word, takes ArrivalStall. An overflowed region takes RegionOverflowUse; selectors, counts and values out of range take IllegalCombination (user mode). (R283, R284, R285, R287, R288, R290, R291) -/
def Obligations.CountersBatchesAndArrivals : Prop :=
  (∀ (s : State) (x r : Reg) (v : Word) (c : Context), s.me.ctx.read .access r = .ok (v, c) →
    let n := if v.toNat < 16 then s.me.core * 16 + v.toNat else 24576 + 8 * clusterOfCore s.me.core + (v.toNat - 16)
    (v.toNat < 23 → hasRoom .access x c → ∃ t, exec (.cntrd x r) s = .next t ∧ OnlyContext s t ∧ t.me.note = .done ∧
      Wrote .access x (Tab.get 0#64 s.counters n) c t.me.ctx) ∧
    (23 ≤ v.toNat → s.me.sup = false → Refuses s (.cntrd x r) 0x02#8 (s.me.issue.word.setWidth 64)) ∧
    (∀ (y : Reg) (w : Word) (c' : Context), c.read .access y = .ok (w, c') →
      (v.toNat < 23 → Tab.wf 0#64 s.counters = true →
        ∃ t, exec (.cntset r y) s = .next t ∧ t = { s with me := { s.me with ctx := c', note := .done }, counters := t.counters, copies := t.copies } ∧
          (∀ m, Tab.get 0#64 t.counters m = if m = n then w else Tab.get 0#64 s.counters m) ∧ t.copies.length = s.copies.length ∧
          (∀ (i : Nat) (k : Copy), s.copies[i]? = some k → (∀ va th, k.state = .armed va n th → w.toNat < th.toNat) → t.copies[i]? = some k) ∧
          (∀ (i : Nat) (k : Copy) va th, s.copies[i]? = some k → k.state = .armed va n th → th.toNat ≤ w.toNat →
            ∃ k' : Copy, t.copies[i]? = some k' ∧ (k'.state = .queued ∨ (k'.state = .running ∧ k'.err = 1 ∧ k'.todo = [])))) ∧
      (23 ≤ v.toNat → s.me.sup = false → Refuses s (.cntset r y) 0x02#8 (s.me.issue.word.setWidth 64)))) ∧
  (∀ (s : State) (x : Reg), let open_ := (s.me.batchNext - s.me.batchOldest).toNat
    (open_ < 15 → hasRoom .access x s.me.ctx →
      ∃ t, exec (.cseal x) s = .next t ∧ Wrote .access x (s.me.batchNext.setWidth 64) s.me.ctx t.me.ctx ∧ t.me.note = .done ∧
        t.me.batchNext = s.me.batchNext + 1 ∧ t.mem = s.mem ∧ t.others = s.others ∧ t.copies = s.copies ∧
        ((∃ k ∈ s.copies, k.origin.sid = s.me.sid ∧ k.batch = s.me.batchOldest) → t.me.batchOldest = s.me.batchOldest) ∧
        ((∀ k ∈ s.copies, k.origin.sid ≠ s.me.sid) → t.me.batchOldest = t.me.batchNext)) ∧
    (15 ≤ open_ → s.me.undo = none →
      exec (.cseal x) s = .next { s with me := { s.me with pc := s.me.issue.addr, pos := s.me.issue.pos, note := .blocked } })) ∧
  (∀ (s : State) (r : Reg) (v : Word) (c : Context), s.me.ctx.read .access r = .ok (v, c) → let open_ := (s.me.batchNext - s.me.batchOldest).toNat
    (v.toNat ≤ 15 → v.toNat < open_ → s.me.undo = none → ∃ t, exec (.cwait r) s = .next t ∧ ParkedFor s t (.batch v.toNat) ∧ t = { s with me := t.me }) ∧
    (v.toNat ≤ 15 → open_ ≤ v.toNat → (∀ x ∈ s.me.batchErr, s.me.finishedAge x.1 = 0) → ∃ t, exec (.cwait r) s = .next t ∧ t.me.ctx = c ∧ Completes s t ∧ t.mem = s.mem) ∧
    (∀ b e, v.toNat ≤ 15 → open_ ≤ v.toNat → (b, e) ∈ s.me.batchErr → s.me.finishedAge b ≠ 0 →
      (∀ x ∈ s.me.batchErr, x.1 = b ∨ s.me.finishedAge x.1 < s.me.finishedAge b) → s.me.sup = false →
      ∃ t, exec (.cwait r) s = .next t ∧ TrapTaken { s with me := { s.me with batchErr := s.me.batchErr.filter fun x => x.1 != b } } t 0x12#8 (b.setWidth 64) s.me.issue.addr) ∧
    (15 < v.toNat → s.me.sup = false → Refuses s (.cwait r) 0x02#8 (s.me.issue.word.setWidth 64))) ∧
  (∀ (s : State) (aw y : Reg) (va w : Word) (c c' : Context) (key : Nat), s.me.ctx.read .access aw = .ok (va, c) → c.read .access y = .ok (w, c') →
    (Names s va needW key → w.toNat < 2 ^ 56 → s.mem.wf = true →
      ∃ t, exec (.awinit aw y) s = .next t ∧ t.me.ctx = c' ∧ Completes s t ∧
        Stored s t key 16 (w.toNat % 2 ^ 32 * 2 ^ 32 + w.toNat / 2 ^ 32 * 2 ^ 96) ∧ BitsBecome s t [] true) ∧
    (Names s va needW key → 2 ^ 56 ≤ w.toNat → s.me.sup = false → Refuses s (.awinit aw y) 0x02#8 (s.me.issue.word.setWidth 64)) ∧
    (Names s va needR key →
      let d := (BitVec.ofNat 32 (s.mem.read (key + 8) 4) - w.setWidth 32).toNat
      (1 ≤ d → d < 2 ^ 31 → ∃ t, exec (.awwait aw y) s = .next t ∧ t.me.ctx = s.me.ctx.dropSq (popsOf [aw, y]) ∧ Completes s t ∧ t.mem = s.mem) ∧
      ((d = 0 ∨ 2 ^ 31 ≤ d) → (s.mem.byte (key + 15)).getLsbD 7 = false → s.me.undo = none →
        ∃ t, exec (.awwait aw y) s = .next t ∧ ParkedFor s t (.arrival key va w) ∧ t.mem = s.mem ∧ t.others = s.others) ∧
      ((d = 0 ∨ 2 ^ 31 ≤ d) → (s.mem.byte (key + 15)).getLsbD 7 = true → s.me.sup = false → Refuses s (.awwait aw y) 0x11#8 va))) ∧
  (∀ (s u : State) (qa : BitVec 4) (aw : Reg) (va : Word) (c : Context) (key : Nat) (op : Operand), let r := s.me.ctx.q qa
    s.me.ctx.read .access aw = .ok (va, c) →
    (r.tda = 0#64 → r.ovf = false → exec (.qwait qa aw) s = .next (s.done c)) ∧
    (r.ovf = true → s.me.sup = false → Refuses s (.qwait qa aw) 0x0B#8 (qa.setWidth 64)) ∧
    (r.tda ≠ 0#64 → r.ovf = false → s.checkRegion s.origin r needW (fun k => !isHost k) = .ok (op, u) → u.me = s.me → u.others = s.others →
      (aw ≠ .zero → Names u va needW key) → s.me.regionMet = false →
      let ws := u.operandWords s.origin op
      let stall := aw ≠ .zero ∧ (u.mem.byte (key + 15)).getLsbD 7 = true
      (∀ k ∈ ws, k < 2 ^ 52) →
      ((∀ k ∈ ws, u.mem.keptFull k = true) → ∃ t, exec (.qwait qa aw) s = .next t ∧ t.me.ctx = c ∧ Completes s t ∧ t.mem = u.mem) ∧
      (¬ (∀ k ∈ ws, u.mem.keptFull k = true) → ¬ stall → s.me.undo = none →
        ∃ t, exec (.qwait qa aw) s = .next t ∧ ParkedFor s t (.region ws (if aw = .zero then none else some (key, va))) ∧ t.mem = u.mem) ∧
      (¬ (∀ k ∈ ws, u.mem.keptFull k = true) → stall → s.me.sup = false → Refuses s (.qwait qa aw) 0x11#8 va)))

/-- ROUTE and RTINV accept a call with a handle or refuse its descriptor, and RTWAIT and RTSTAT wait for it and report it. For every strand whose operand can be read. ROUTE and RTINV: an address that is no multiple of 128 takes Misaligned and a descriptor that breaks R424 IllegalCombination (user mode); one that passes every check, with fewer than 32 calls queued, appends a call and its record to the engine of the strand's die, a ROUTE also takes the next sequence number of its HANDLE, and the handle is written; with 32 it is held. RTWAIT parks while the call is queued or running, completes with ts raised to its stamp, completes at once on an expired handle, and takes EngineError once at the issuer for an ERR other than 0 and 6; RTSTAT writes the status word. A malformed handle takes IllegalCombination. (R426, R427, R432, R424) -/
def Obligations.RoutingCalls : Prop :=
  (∀ (s : State) (inv : Bool) (x d : Reg) (v : Word) (c : Context), s.me.ctx.read .access d = .ok (v, c) →
    let i : Instr := if inv then .rtinv x d else .route x d
    let die := dieOfCore s.me.core
    (canonical v = true → v.toNat % 128 ≠ 0 → s.me.sup = false → Refuses s i 0x05#8 v) ∧
    (∀ ws (u : State), canonical v = true → v.toNat % 128 = 0 → loadMany strandLoader s v 8 16 = .ok (ws, u) → RouteDesc.ofWords ws = none →
      s.me.sup = false → Refuses s i 0x02#8 (s.me.issue.word.setWidth 64)) ∧
    (∀ r (u : State), s.routeDesc strandLoader s.bad v = .ok (r, u) → u.routeExtents s.origin inv r = none → u.me.ctx = s.me.ctx → u.me.undo = s.me.undo →
      (32 ≤ (u.router die).calls.length → exec i s = .next s.block) ∧
      ((u.router die).calls.length < 32 → hasRoom .access x c → hasRoom .access x (s.me.ctx.dropSq (popsOf [d])) →
        ∃ t k, exec i s = .next t ∧ t.me.note = .done ∧ t.mem = u.mem ∧ t.others = u.others ∧ t.copies = u.copies ∧
          Wrote .access x (BitVec.ofNat 64 (die % 4 * 2 ^ 24 + (u.router die).accepted % 2 ^ 16)) (s.me.ctx.dropSq (popsOf [d])) t.me.ctx ∧
          (∀ e, e ≠ die → t.router e = u.router e) ∧
          (t.router die).calls = (u.router die).calls ++ [k] ∧ k.desc = r ∧ k.combine = inv ∧ k.origin = s.origin ∧ k.running = false ∧
          (t.router die).accepted = (u.router die).accepted + 1 ∧
          Tab.get none (t.router die).records ((u.router die).accepted % 256) =
            some { idx := (u.router die).accepted, sid := s.me.sid, combine := inv } ∧
          (inv = true → t.routeSeqs = u.routeSeqs) ∧
          (inv = false → k.seq = BitVec.ofNat 32 (Tab.get 0 u.routeSeqs r.handle.toNat) ∧
            ∀ h, Tab.get 0 t.routeSeqs h = Tab.get 0 u.routeSeqs h + (if h = r.handle.toNat then 1 else 0))))) ∧
  (∀ (s : State) (x h : Reg) (v : Word) (c : Context), s.me.ctx.read .access h = .ok (v, c) →
    let ok := v.toNat < 2 ^ 26 ∧ v.toNat / 2 ^ 16 % 256 = 0 ∧ ∃ n, n < 48 ∧ s.ownerOfCluster (v.toNat / 2 ^ 24 % 4 * 48 + n) = some s.me.launch.part
    let rec_ := s.routeRecord v
    let trapping := fun (r : RouteRecord) => r.state = 2 ∧ r.err ≠ 0 ∧ r.err ≠ 6 ∧ r.delivered = false ∧ r.sid = s.me.sid
    (¬ ok → s.me.sup = false → Refuses s (.rtwait h) 0x02#8 (s.me.issue.word.setWidth 64) ∧ Refuses s (.rtstat x h) 0x02#8 (s.me.issue.word.setWidth 64)) ∧
    (ok → isOver (rec_.map (·.state)) = false → s.me.undo = none →
      ∃ t, exec (.rtwait h) s = .next t ∧ ParkedFor s t (.route v) ∧ t = { s with me := t.me }) ∧
    (ok → rec_ = none → exec (.rtwait h) s = .next (s.done c)) ∧
    (∀ r, ok → rec_ = some r → r.state = 2 → ¬ trapping r →
      ∃ t, exec (.rtwait h) s = .next t ∧ t.me.ctx = c ∧ Completes s t ∧ t.me.ts = max s.me.ts r.stamp ∧ t.mem = s.mem ∧ t.routers = s.routers) ∧
    (∀ r, ok → rec_ = some r → trapping r → s.me.sup = false →
      ∃ t u, exec (.rtwait h) s = .next t ∧ u = { s with routers := u.routers } ∧ u.routeRecord v = some { r with delivered := true } ∧
        TrapTaken u t 0x12#8 v s.me.issue.addr) ∧
    (ok → hasRoom .access x c → ∃ t w, exec (.rtstat x h) s = .next t ∧ OnlyContext s t ∧ t.me.note = .done ∧ Wrote .access x w c t.me.ctx ∧
      w.extractLsb' 0 16 = v.extractLsb' 0 16 ∧
      (rec_ = none → w.extractLsb' 62 2 = 3#2 ∧ w.extractLsb' 16 46 = 0#46) ∧
      (∀ r, rec_ = some r → w.extractLsb' 62 2 = BitVec.ofNat 2 r.state ∧ w.extractLsb' 58 4 = BitVec.ofNat 4 r.err ∧
        w.getLsbD 57 = r.delivered ∧ w.getLsbD 48 = r.combine ∧ w.extractLsb' 24 24 = BitVec.ofNat 24 r.ndrop ∧
        w.extractLsb' 49 8 = 0#8 ∧ w.extractLsb' 16 8 = 0#8)))

/-- COLL offers a call to the master of its cluster, COLLW and COLLST wait for it and report it, and MBPUT and MBGET reach the mailboxes. For every strand whose operand can be read. COLL: an address that is no multiple of 128 takes Misaligned and a block that breaks R407 IllegalCombination (user mode); one that passes every check, with fewer than 8 entries in the mailbox (and, at the coordinator, no contribution held yet), appends a call and its record and writes the handle; with 8 it is held. COLLW parks while the call is queued or running, completes with ts raised to its stamp, at once on an expired handle, and takes EngineError once at the issuer for an ERR other than 0 and 5; COLLST writes the status word. MBPUT of FLUSH, CANCEL, OPEN and CLOSE puts its request into the mailbox and 1 into pd, or 0 where the mailbox is full; MBGET writes a saturating counter. Malformed handles, requests and items take IllegalCombination. (R405, R406, R404, R407, R414, R415) -/
def Obligations.CollectiveCalls : Prop :=
  (∀ (s : State) (x d : Reg) (v : Word) (c : Context), s.me.ctx.read .access d = .ok (v, c) → let k := clusterOfCore s.me.core
    (canonical v = true → v.toNat % 128 ≠ 0 → s.me.sup = false → Refuses s (.coll x d) 0x05#8 v) ∧
    (∀ ws (u : State), canonical v = true → v.toNat % 128 = 0 → loadMany strandLoader s v 8 16 = .ok (ws, u) → CollBlock.ofWords ws = none →
      s.me.sup = false → Refuses s (.coll x d) 0x02#8 (s.me.issue.word.setWidth 64)) ∧
    (∀ b table (u : State), s.collBlock strandLoader s.bad k v = .ok (b, table, u) → u.collExtents s.origin b = none → u.me.ctx = s.me.ctx →
      (8 ≤ (u.master k).mailbox.length → exec (.coll x d) s = .next s.block) ∧
      ((u.master k).mailbox.length < 8 → hasRoom .access x c → hasRoom .access x (s.me.ctx.dropSq (popsOf [d])) →
        (b.rank ≠ b.coord ∨ u.coord? b.handle (BitVec.ofNat 32 (Tab.get 0 u.collSeqs b.handle.toNat)) = none) →
        ∃ t e, exec (.coll x d) s = .next t ∧ t.me.note = .done ∧ t.mem = u.mem ∧ t.others = u.others ∧ t.copies = u.copies ∧
          Wrote .access x (BitVec.ofNat 64 (k % 256 * 2 ^ 16 + (u.master k).accepted % 2 ^ 16)) (s.me.ctx.dropSq (popsOf [d])) t.me.ctx ∧
          (∀ j, j ≠ k → t.master j = u.master j) ∧ e.seq = BitVec.ofNat 32 (Tab.get 0 u.collSeqs b.handle.toNat) ∧
          (b.rank ≠ b.coord → t.coords = u.coords) ∧
          (b.rank = b.coord → ∃ o : Coordinator, t.coords = u.coords ++ [o] ∧ o.handle = b.handle ∧ o.seq = e.seq ∧ o.stage = .open_ ∧
            o.block = some b ∧ o.tstart = u.tick ∧ o.arrived = []) ∧
          (t.master k).calls = (u.master k).calls ++ [e] ∧ e.block = b ∧ e.table = table ∧ e.origin = s.origin ∧
          (t.master k).mailbox = (u.master k).mailbox ++ [.call (u.master k).accepted] ∧
          (t.master k).accepted = (u.master k).accepted + 1 ∧
          Tab.get none (t.master k).records ((u.master k).accepted % 256) = some { idx := (u.master k).accepted, sid := s.me.sid }))) ∧
  (∀ (s : State) (x h : Reg) (v : Word) (c : Context), s.me.ctx.read .access h = .ok (v, c) →
    let ok := v.toNat < 2 ^ 24 ∧ v.toNat / 2 ^ 16 < 192 ∧ s.ownerOfCluster (v.toNat / 2 ^ 16) = some s.me.launch.part
    let rec_ := s.collRecord v
    let trapping := fun (r : CollRecord) => r.state = 2 ∧ r.err ≠ 0 ∧ r.err ≠ 5 ∧ r.delivered = false ∧ r.sid = s.me.sid
    (¬ ok → s.me.sup = false → Refuses s (.collw h) 0x02#8 (s.me.issue.word.setWidth 64) ∧ Refuses s (.collst x h) 0x02#8 (s.me.issue.word.setWidth 64)) ∧
    (ok → isOver (rec_.map (·.state)) = false → s.me.undo = none →
      ∃ t, exec (.collw h) s = .next t ∧ ParkedFor s t (.coll v) ∧ t = { s with me := t.me }) ∧
    (ok → rec_ = none → exec (.collw h) s = .next (s.done c)) ∧
    (∀ r, ok → rec_ = some r → r.state = 2 → ¬ trapping r →
      ∃ t, exec (.collw h) s = .next t ∧ t.me.ctx = c ∧ Completes s t ∧ t.me.ts = max s.me.ts r.stamp ∧ t.mem = s.mem ∧ t.masters = s.masters) ∧
    (∀ r, ok → rec_ = some r → trapping r → s.me.sup = false →
      ∃ t u, exec (.collw h) s = .next t ∧ u = { s with masters := u.masters } ∧ u.collRecord v = some { r with delivered := true } ∧
        TrapTaken u t 0x12#8 v s.me.issue.addr) ∧
    (ok → hasRoom .access x c → ∃ t w, exec (.collst x h) s = .next t ∧ OnlyContext s t ∧ t.me.note = .done ∧ Wrote .access x w c t.me.ctx ∧
      w.extractLsb' 0 16 = v.extractLsb' 0 16 ∧
      (rec_ = none → w.extractLsb' 62 2 = 3#2 ∧ w.extractLsb' 16 46 = 0#46) ∧
      (∀ r, rec_ = some r → w.extractLsb' 62 2 = BitVec.ofNat 2 r.state ∧ w.extractLsb' 58 4 = BitVec.ofNat 4 r.err ∧
        w.getLsbD 57 = r.delivered ∧ w.extractLsb' 48 9 = 0#9 ∧ w.extractLsb' 32 16 = BitVec.ofNat 16 r.present ∧
        w.extractLsb' 16 16 = BitVec.ofNat 16 r.lost))) ∧
  (∀ (s : State) (pd : BitVec 4) (y x : Reg) (v : Word) (c : Context), s.me.ctx.read .access y = .ok (v, c) →
    let kind := v.toNat / 2 ^ 56
    let own := v.toNat / 2 ^ 16 % 256
    let named := v.toNat / 2 ^ 24 % 2 ^ 32 = 0 ∧ own < 192 ∧ s.ownerOfCluster own = some s.me.launch.part
    let puts := fun (k : Nat) (e : MailEntry) => ∃ t, exec (.mbput pd y) s = .next t ∧ t.me.note = .done ∧
      ((s.master k).mailbox.length < 8 → WrotePred pd true c t.me.ctx ∧ (t.master k).mailbox = (s.master k).mailbox ++ [e] ∧
        (∀ j, j ≠ k → t.master j = s.master j) ∧ t = { s with me := t.me, masters := t.masters }) ∧
      (8 ≤ (s.master k).mailbox.length → WrotePred pd false c t.me.ctx ∧ OnlyContext s t)
    (kind = 0 → named → puts own (.flush (v.extractLsb' 0 16))) ∧
    (kind = 1 → named → puts own (.cancel (v.extractLsb' 0 16))) ∧
    (kind = 3 → 1 ≤ v.toNat % 2 ^ 56 → v.toNat % 2 ^ 56 < 2 ^ 10 → puts (clusterOfCore s.me.core) (.closeSession s.me.launch.part (v.extractLsb' 0 10))) ∧
    (∀ ws (u : State), kind = 2 → v.toNat / 2 ^ 48 % 256 = 0 → v.toNat % 128 = 0 →
      s.plainLoads ((v.extractLsb' 0 48).signExtend 64) 8 16 = .ok (ws, u) → u.me.ctx = s.me.ctx →
      (u.master (clusterOfCore s.me.core)).mailbox.length < 8 → u.me.core = s.me.core → u.me.launch = s.me.launch →
      ∃ t, exec (.mbput pd y) s = .next t ∧ t.me.note = .done ∧ WrotePred pd true (s.me.ctx.dropSq (popsOf [y])) t.me.ctx ∧ t.mem = u.mem ∧
        (t.master (clusterOfCore s.me.core)).mailbox = (u.master (clusterOfCore s.me.core)).mailbox ++
          [.openSession s.me.launch.part (ws.flatMap (bytesOf 8))]) ∧
    ((3 < kind ∨ (kind ≤ 1 ∧ ¬ named) ∨ (kind = 3 ∧ (v.toNat % 2 ^ 56 = 0 ∨ 2 ^ 10 ≤ v.toNat % 2 ^ 56)) ∨
        (kind = 2 ∧ (v.toNat / 2 ^ 48 % 256 ≠ 0 ∨ v.toNat % 128 ≠ 0))) → s.me.sup = false →
      Refuses s (.mbput pd y) 0x02#8 (s.me.issue.word.setWidth 64)) ∧
    (∀ n, v.toNat < 2 ^ 24 → s.mbItem (v.toNat % 256) (v.toNat / 256) = some n → hasRoom .access x c →
      ∃ t, exec (.mbget x y) s = .next t ∧ OnlyContext s t ∧ t.me.note = .done ∧ Wrote .access x (BitVec.ofNat 64 (min n (2 ^ 32 - 1))) c t.me.ctx) ∧
    ((2 ^ 24 ≤ v.toNat ∨ s.mbItem (v.toNat % 256) (v.toNat / 256) = none) → s.me.sup = false →
      Refuses s (.mbget x y) 0x02#8 (s.me.issue.word.setWidth 64)))

/-- The speed entry of a core is mirrored nowhere: no partition has a record for it (R354). -/
def Sys2Proof.Claims.unmirrored (s : State) (core : Nat) : Prop :=
  ∀ n, s.ownerOfCluster (clusterOfCore core) = some n → (s.part n).frbase (dieOfCore core) = 0

/-- Nothing but memory, which is `m`, and what a write of the hardware leaves at its home (timestamps, and the lines and marks of the slices: R198, R314)
has changed. -/
def Sys2Proof.Claims.Recorded (s t : State) (m : Mem) : Prop :=
  t = { s with mem := m, stamps := t.stamps, latest := t.latest, l2 := t.l2, marks := t.marks }

/-- Memory after a count at an offset of a core's fault record, if its partition keeps one (R196). -/
def Sys2Proof.Claims.countedAt (s : State) (m : Mem) (core off : Nat) : Mem :=
  match s.faultRecord core with
  | none => m
  | some a => counted m (a + off)

/-- Memory after an address is left in a core's fault record (R196). -/
def Sys2Proof.Claims.notedAt (s : State) (m : Mem) (core off v : Nat) : Mem :=
  match s.faultRecord core with
  | none => m
  | some a => m.write (a + off) 8 v

/-- Memory after a count at an offset of a die record (R321). -/
def Sys2Proof.Claims.dieCounted (m : Mem) (r : Option Nat) (off : Nat) : Mem :=
  match r with
  | none => m
  | some a => counted m (a + off)

/-- Memory after an uncorrectable error is counted in a die record and its address left there (R321). -/
def Sys2Proof.Claims.ueRecorded (m : Mem) (r : Option Nat) (v : Nat) : Mem :=
  match r with
  | none => m
  | some a => (counted m (a + 0x14)).write (a + 0x20) 8 v

/-- The core with a number holds `k`, every other core is as before. -/
def Sys2Proof.Claims.coreBecomes (s t : State) (core : Nat) (k : CoreState) : Prop :=
  t.core core = k ∧ ∀ c, c ≠ core → t.core c = s.core c

/-- Nothing but the cores has changed. -/
def Sys2Proof.Claims.onlyCores (s t : State) : Prop := t = { s with cores := t.cores }

/-- MEMORY_ERROR and SCRUB_PASS poison words, count in the records, and stop the strand of a broken frame. An error in a word of a core: a correctable one is counted in CE_SPAD with the address in LAST_CE and changes no word; another poisons the word and is counted in UE_SPAD with the address in LAST_UE. In a cache: counted, and after an uncorrectable one at most one span of the L1 or one line of the instruction cache is gone. In a frame: a correctable one is counted, another stops the strand. In a lane slice, an L2 slice or a chip scratchpad: the word is poisoned unless the error was corrected; with one owner it is counted in the record of the owner for the die, with the address of an uncorrectable one. SCRUB_PASS counts. Where no record is kept nothing is counted. No register and no other word changes. (Which records count an L2 error, the offsets of LAST_UE and LAST_CE, and which cache an error meets are the model's, logs 38 and 39.) (R193, R194, R196, R198, R321) -/
def Obligations.MemoryErrorEvents : Prop :=
  (∀ (s : State) (key c : Nat), homeCore key = some c → c < 1536 → let w := key / 4 * 4
    (∃ t, exec (.memoryError (.word key) true) s = .next t ∧ Recorded s t (notedAt s (countedAt s s.mem c 0x08) c 0x40 w)) ∧
    (∃ t, exec (.memoryError (.word key) false) s = .next t ∧ Recorded s t (notedAt s (countedAt s (s.mem.setPoison w true) c 0x10) c 0x38 w))) ∧
  (∀ (s : State) (core : Nat), core < 1536 →
    (∃ t, exec (.memoryError (.cache core) true) s = .next t ∧ Recorded s t (countedAt s s.mem core 0x0C)) ∧
    (∃ t, exec (.scrubPass core) s = .next t ∧ Recorded s t (countedAt s s.mem core 0x34)) ∧
    (Tab.wf {} s.cores = true → ∃ t, exec (.memoryError (.cache core) false) s = .next t ∧ t.mem = countedAt s s.mem core 0x14 ∧ t.me = s.me ∧ t.others = s.others ∧
      ∃ n, coreBecomes s t core { s.core core with spans := (s.core core).spans.eraseIdx n } ∨
        coreBecomes s t core { s.core core with icache := (s.core core).icache.eraseIdx n })) ∧
  (∀ (s : State) (sid : StrandId) (m : Strand), s.strand? sid = some m → m.inFrame = true →
    (∃ t, exec (.memoryError (.frame sid) true) s = .next t ∧ Recorded s t (countedAt s s.mem m.core 0x08)) ∧
    (s.me.sid = sid → ∃ t, exec (.memoryError (.frame sid) false) s = .next t ∧ t.me = { s.me with frame := .stopped, wait := none } ∧ t.others = s.others) ∧
    (∀ off, off < 4096 * m.ctx.vec.w →
      (∃ t, exec (.memoryError (.slice sid off) true) s = .next t ∧ Recorded s t (countedAt s s.mem m.core 0x08)) ∧
      (s.me.sid = sid → ∃ t, exec (.memoryError (.slice sid off) false) s = .next t ∧ t.mem = countedAt s s.mem m.core 0x10 ∧ t.others = s.others ∧
        t.me.ctx = { s.me.ctx with vec := { s.me.ctx.vec with slice := s.me.ctx.vec.slice.setPoison (off / 4 * 4) true } }))) ∧
  (∀ (s : State) (die key pa : Nat) (place : ErrorPlace) (owns : Partition → Bool), die < 4 →
    ((place = .l2 die key ∧ storageOf key = .hbm pa ∧ s.sliceDie pa = die ∧ owns = fun p => p.ownsChannel (pa / 2 ^ 32)) ∨
      (place = .word key ∧ storageOf key = .chip die ∧ pa = key ∧ owns = fun p => p.ownsRange ((key - chipWindow) / 2 ^ 20))) →
    ((∀ n, owns (s.part n) = false) →
      exec (.memoryError place true) s = .next s ∧ exec (.memoryError place false) s = .next { s with mem := s.mem.setPoison (key / 4 * 4) true }) ∧
    (∀ n, (∀ m, owns (s.part m) = true ↔ m = n) →
      (∃ t, exec (.memoryError place true) s = .next t ∧ Recorded s t (dieCounted s.mem (s.dieRecord n die) 0x10)) ∧
      (∃ t, exec (.memoryError place false) s = .next t ∧
        Recorded s t (ueRecorded (s.mem.setPoison (key / 4 * 4) true) (s.dieRecord n die) (pa / 4 * 4)))))

/-- Walks, page classes, evictions, ticks, the Midnight pause, pushes, speed entries, sags and a cancelled nest act as their rules say. PAGE_WALK buffers the leaf that the walk of R304 finds, A set, claiming an unclaimed page and sharing one private to another core. RECLASSIFICATION of a buffered private leaf gives CLS 2 and drops its owner's spans and translation of the page. L2_EVICTION takes a line from its set and raises the slice's mark to the RTS of its words. HEARTBEAT_TICK, with no strand to resume, adds one to the tick, counts it for stretched clusters and puts the code of each core in use. MIDNIGHT_PAUSE, once requested, zeroes the strands' timestamps and, where no strand is migrating and no die records are kept, every other one, drops all but private spans and the pushes in flight. PUSH_ARRIVAL installs the oldest push in a set with room, or discards it for a consumer that does not record its launch in Daylight or a quiesced launch, where no miss is outstanding. AGEING_SAMPLE takes one margin a tick, DERATE_STEP lowers the code after its ticks, or retires the core at code 4. SUPPLY_SAG and, in a later tick, SUPPLY_SAG_END stretch and release a cluster's clock. NEST_CANCEL_LEARNED tells a core. (Statements about speed entries take cores without a mirror.) (R304, R306, R307, R308, R313, R317, R319, R327, R355, R356, R179) -/
def Obligations.DieEvents : Prop :=
  (∀ (s : State) (core : Nat) (root va : Word) (p : Fin 16) (e : TlbEntry), s.ownerOfCluster (clusterOfCore core) = some p →
    s.buffered core root va.toNat = none → canonical va = true → walk (s.part p) s.mem root va.toNat = some e →
    (∀ a, s.dieRecord p (dieOfCore core) = some a → e.entry + 8 ≤ a + 0x18 ∨ a + 0x1C ≤ e.entry) → Tab.wf {} s.cores = true →
    ∃ t b, exec (.pageWalk core root va) s = .next t ∧ (t.core core).tlb.head? = some b ∧ b.root = e.root ∧ b.base = e.base ∧ b.size = e.size ∧
      b.leaf.getLsbD 50 = true ∧ b.leaf.extractLsb' 0 50 = e.leaf.extractLsb' 0 50 ∧
      leafCls b.leaf = (if leafCls e.leaf = 0 ∨ (leafCls e.leaf = 1 ∧ leafOwner e.leaf = core) then 1 else 2) ∧
      (leafCls b.leaf = 1 → leafOwner b.leaf = core % 2048) ∧ t.me = s.me ∧ t.others = s.others) ∧
  (∀ (s : State) (leaf : Nat) (e : TlbEntry),
    s.cores.findSome? (fun c => c.2.tlb.find? fun e => e.entry == leaf && leafCls e.leaf == 1) = some e →
    BitVec.ofNat 64 (s.mem.read leaf 8) = e.leaf → Tab.wf {} s.cores = true →
    let o := leafOwner e.leaf
    ∃ t, exec (.reclassification leaf) s = .next t ∧ t.me = s.me ∧ t.others = s.others ∧
      t.mem = dieCounted (s.mem.write leaf 8 (2 ^ 63 + 2 ^ 50 + e.leaf.toNat % 2 ^ 50))
        ((s.ownerOfCluster (clusterOfCore o)).bind fun n => s.dieRecord n (s.sliceDie (leafPa e.leaf))) 0x08 ∧
      coreBecomes s t o { s.core o with
        spans := (s.core o).spans.filter fun x => !(hbmKey (leafPa e.leaf) ≤ x.line * 128 && x.line * 128 < hbmKey (leafPa e.leaf) + e.size)
        tlb := (s.core o).tlb.filter fun t => !(t.root == e.root && t.base == e.base) }) ∧
  (∀ (s : State) (line : Nat), let k := hbmKey (128 * line)
    let slice := s.sliceOf (128 * line)
    let i := slice * 1024 + k / 128 % 1024
    Tab.wf [] s.l2 = true → Tab.wf 0 s.marks = true →
    (∀ x, (Tab.get [] s.l2 i).find? (fun x => x.line == k / 128) = some x →
      ∃ t, exec (.l2Eviction line) s = .next t ∧ t = { s with l2 := t.l2, marks := t.marks } ∧
        (∀ j, Tab.get [] t.l2 j = if j = i then (Tab.get [] s.l2 i).erase x else Tab.get [] s.l2 j) ∧
        (∀ j, j < 32 → (s.stampAt (128 * (k / 128) + 4 * j)).rts ≤ Tab.get 0 t.marks slice) ∧
        (∀ n, Tab.get 0 s.marks n ≤ Tab.get 0 t.marks n) ∧ (∀ n, n ≠ slice → Tab.get 0 t.marks n = Tab.get 0 s.marks n)) ∧
    ((∀ x ∈ Tab.get [] s.l2 i, x.line ≠ k / 128) → exec (.l2Eviction line) s = .next s)) ∧
  (∀ s : State, (∀ m ∈ s.strands, m.frame ≠ .preempted ∧ m.frame ≠ .spilled) → Tab.wf {} s.cores = true → Tab.wf none s.sags = true →
    (∀ c, Tab.get none s.sags (clusterOfCore c) ≠ none → unmirrored s c) →
    ∃ t, exec .heartbeatTick s = .next t ∧ t = { s with tick := s.tick + 1, ports := t.ports, cores := t.cores } ∧ (∀ p ∈ t.ports, p.2.replays = []) ∧
      ∀ c, t.core c = { s.core c with speed := { (s.core c).speed with
        inUse := (s.core c).speed.derate
        sagTk := if Tab.get none s.sags (clusterOfCore c) ≠ none then min ((s.core c).speed.sagTk + 1) (2 ^ 32 - 1) else (s.core c).speed.sagTk } }) ∧
  (∀ s : State, (s.latest < 0xF00000 → exec .midnightPause s = .next s) ∧
    (0xF00000 ≤ s.latest → ∃ t, exec .midnightPause s = .next t ∧ t.me.ts = 0 ∧ (∀ m ∈ t.others, m.ts = 0) ∧
      t.rw = 0 ∧ t.pushes = [] ∧ (∀ c ∈ t.cores, ∀ x ∈ c.2.spans, x.priv = true) ∧
      ((∀ m ∈ s.strands, m.frame ≠ .flight ∧ m.frame ≠ .inbox) → (∀ n d, d < 4 → s.dieRecord n d = none) → t.stamps = [] ∧ t.marks = [] ∧ t.latest = 0))) ∧
  (∀ (s : State) (p : Push) (r : List Push), s.pushes = p :: r → Tab.wf {} s.cores = true → let k := s.core p.consumer
    let quiesced := match s.launch? p.launch.part p.launch.tag with
      | some l => l.kill = .quiesced
      | none => True
    (∀ m ∈ s.strands, m.core = p.consumer → m.missed ≠ some p.span.line) →
    (s.recording p.consumer p.launch .daylight = true → ¬ quiesced → (∀ x ∈ k.spans, x.line ≠ p.span.line) →
      (k.spans.filter fun y => y.line % 64 == p.span.line % 64).length < 8 →
      ∃ t, exec .pushArrival s = .next t ∧ t = { s with pushes := r, cores := t.cores } ∧ coreBecomes s t p.consumer { k with spans := p.span :: k.spans }) ∧
    ((s.recording p.consumer p.launch .daylight = false ∨ quiesced) →
      ∃ t, exec .pushArrival s = .next t ∧ t = { s with pushes := r, cores := t.cores } ∧
        coreBecomes s t p.producer { s.core p.producer with recorder := { (s.core p.producer).recorder with
          pushDrop := min ((s.core p.producer).recorder.pushDrop + 1) (2 ^ 32 - 1) } })) ∧
  (∀ (s : State) (core : Nat) (margin : Byte), core < 1536 → unmirrored s core → Tab.wf {} s.cores = true → let x := (s.core core).speed
    let low := if 16 ≤ margin.toNat then 0 else if x.sampled = some (s.tick - 1) then x.low + 1 else 1
    let y : Speed := if x.sampled = some s.tick then x else { x with margin := margin, sampled := some s.tick, low := low }
    (∃ t, exec (.ageingSample core margin) s = .next t ∧ onlyCores s t ∧ coreBecomes s t core { s.core core with speed := y }) ∧
    (3600000000 ≤ x.low → ∃ t, exec (.derateStep core) s = .next t ∧ onlyCores s t ∧ (∀ c, c ≠ core → t.core c = s.core c) ∧
      (t.core core).speed.low = 0 ∧ (t.core core).speed.derate = (if Config.testedCode core - x.derate ≤ 4 then x.derate else x.derate + 1) ∧
      (t.core core).speed.inUse = x.inUse ∧ (t.core core).speed.ret = (x.ret || decide (Config.testedCode core - x.derate ≤ 4))) ∧
    (x.low < 3600000000 → exec (.derateStep core) s = .next s)) ∧
  (∀ (s : State) (k : Nat), k < 192 → (∀ c, clusterOfCore c = k → unmirrored s c) → Tab.wf {} s.cores = true → Tab.wf none s.sags = true →
    (∃ t, exec (.supplySag k) s = .next t ∧ t = { s with sags := t.sags, cores := t.cores } ∧
      (∀ j, Tab.get none t.sags j = if j = k then some s.tick else Tab.get none s.sags j) ∧
      ∀ c, t.core c = if clusterOfCore c = k then { s.core c with speed := { (s.core c).speed with sagCnt := min ((s.core c).speed.sagCnt + 1) (2 ^ 32 - 1) } }
        else s.core c) ∧
    (∀ n, Tab.get none s.sags k = some n →
      (n < s.tick → ∃ t, exec (.supplySagEnd k) s = .next t ∧ t = { s with sags := t.sags } ∧ ∀ j, Tab.get none t.sags j = if j = k then none else Tab.get none s.sags j) ∧
      (s.tick ≤ n → exec (.supplySagEnd k) s = .next s))) ∧
  (∀ (s : State) (core : Nat) (r : LaunchRef) (n : Node) (x : Nest), s.node? r = some n → n.nest = some x → x.cancelled = true → core ∉ x.known →
    ∃ t, exec (.nestCancelLearned core r.part r.tag r.node) s = .next t ∧ t = { s with launches := t.launches } ∧
      t.node? r = some { n with nest := some { x with known := core :: x.known } })

/-- No two strands of the package have one id (R8). -/
def Sys2Proof.Claims.distinct (s : State) : Prop := ((s.me :: s.others).map (·.sid)).Nodup

/-- The strand with an id becomes `m`; every other strand and all of memory stay. -/
def Sys2Proof.Claims.strandBecomes (s t : State) (sid : StrandId) (m : Strand) : Prop :=
  t.strand? sid = some m ∧ (∀ i, i ≠ sid → t.strand? i = s.strand? i) ∧ t.mem = s.mem

/-- A 16-bit counter after one more count (R101). -/
def Sys2Proof.Claims.counted16 (n : BitVec 16) : BitVec 16 := if n = 0xFFFF#16 then n else n + 1

/-- The registers that software computes with stay. -/
def Sys2Proof.Claims.sameRegisters (c e : Context) : Prop :=
  e.acc.a = c.acc.a ∧ e.acc.q = c.acc.q ∧ e.exe.d = c.exe.d ∧ e.preds = c.preds ∧ e.queues = c.queues ∧ e.vec.v = c.vec.v ∧ e.vec.k = c.vec.k

/-- A migration arrives, is installed, refused, acknowledged, reported or stored as R174 and R175 say. For a strand in flight: MIGRATION_INBOX_ARRIVAL refuses it where the inbox holds 2 images or the CRC fails and otherwise puts it into the inbox; MIGRATION_REFUSAL returns a refused one to its source, counting REFUSED or the record's MIG_CRC; MIGRATION_INSTALL gives one in the inbox a free frame of its destination, with MIG set, MIGRATED counted and SCRATCH from the anchor; MIGRATION_INBOX_TIMEOUT stores it where no frame is free and the store has room; MIGRATION_ACK frees the source's copy and ARRIVAL_REPORT ends the birth core's hold. The registers and every other strand stay. (R174, R175, R25, R26, R22, R23) -/
def Obligations.MigrationEvents : Prop :=
  ∀ (s : State) (sid : StrandId) (m : Strand), s.strand? sid = some m → distinct s →
    (m.frame = .flight → m.refusal = none →
      (2 ≤ s.inboxLoad m.target → ∀ ok, ∃ t, exec (.migrationInboxArrival sid ok) s = .next t ∧ strandBecomes s t sid { m with refusal := some true }) ∧
      (s.inboxLoad m.target < 2 → ∃ t, exec (.migrationInboxArrival sid false) s = .next t ∧ strandBecomes s t sid { m with refusal := some false }) ∧
      (s.inboxLoad m.target < 2 → ∃ t, exec (.migrationInboxArrival sid true) s = .next t ∧
        strandBecomes s t sid { m with frame := .inbox, leaving := some (m.core, m.slot) })) ∧
    (m.frame = .flight → m.refusal = some true → ∃ t, exec (.migrationRefusal sid) s = .next t ∧ strandBecomes s t sid
      { m with frame := .running, refusal := none, stay := true, note := .done
               ctx := { m.ctx with acc := { m.ctx.acc with refused := counted16 m.ctx.acc.refused } } }) ∧
    (m.frame = .flight → m.refusal = some false → ∃ t, exec (.migrationRefusal sid) s = .next t ∧
      t.strand? sid = some { m with frame := .running, refusal := none, stay := true, note := .done } ∧ t.mem = countedAt s s.mem m.core 0x24) ∧
    (∀ slot rest, m.frame = .inbox → s.freeFrames m.target = slot :: rest →
      let a := (Tab.get none s.anchors (sidCore sid * 16 + sidSlot sid)).getD m.anchor
      ∃ t m', exec (.migrationInstall sid) s = .next t ∧ strandBecomes s t sid m' ∧ m'.frame = .running ∧ m'.core = m.target ∧ m'.slot = slot ∧
        m'.pc = m.pc ∧ sameRegisters m.ctx m'.ctx ∧ m'.ctx.sys.status = m.ctx.sys.status ||| 2#16 ∧ m'.ctx.acc.migrated = counted16 a.migrated ∧
        m'.ctx.sys.scratch = a.scratch ∧ m'.ctx.vec.tag = a.tags ∧ m'.unreported = true) ∧
    (m.frame = .inbox → s.freeFrames m.target = [] →
      let m' : Strand := { m.fromAnchor (s.anchorOf m) with core := m.target, frame := .spilled, leaving := none, unreported := true, note := .done, since := s.tick, queued := s.clock, prio := s.levelOf m.launch }
      (∀ k u, ({ s with clock := s.clock + 1 } : State).storePlace m.launch.part (dieOfCore m.target) (fullImage m' []).length = (some k, u) →
        ∃ t, exec (.migrationInboxTimeout sid) s = .next t ∧ t.strand? sid = some { m' with image := some k, imageOldest := m'.batchOldest } ∧
          ∀ i, i ≠ sid → t.strand? i = s.strand? i)) ∧
    (∃ t, exec (.migrationAck sid) s = .next t ∧ strandBecomes s t sid { m with leaving := none }) ∧
    (∃ t, exec (.arrivalReport sid) s = .next t ∧ strandBecomes s t sid { m with unreported := false })

/-- Waits end, strands are pre-empted, spilled, restored, resumed and created, and the traps that the hardware finds are taken, as their rules say. QUEUE_MISUSE_DETECT takes QueueMisuse at the oldest held instruction of the strand in turn. MESSAGE_DELIVERY of another package's message appends it to its receiver, or leaves an offer with a full one. WORD_WAIT_REPRESENT enters a wait at its home, or completes it. WAKE returns a parked strand to the rotation; YIELD_REENTRY one whose yield set is empty; FENCE_D_COMPLETION completes FENCE.D at a later tick. PREEMPTION pre-empts a strand at its next fitting boundary; QUANTUM_EXPIRY does so, not before the quantum is over, to one that holds what a waiting head of a resume queue needs. SPILL moves a context whose frame is needed to the store, and RESTORE and RESUME move it back, and into a frame in the order of the resume queues; an image whose CRC fails stops its strand. STRAND_CREATE makes the next strand of a running kernel node. QUIESCENT_DEADLOCK marks the lowest member of a quiescent group. (Which state makes a group quiescent, and when a frame is needed, is the model's, logs 88 and 95.) (R16, R127, R165, R166, R93, R342, R167, R169, R171, R172, R373, R183) -/
def Obligations.StrandEvents : Prop :=
  (∀ (s : State) (d : Deferred) (ds : List Deferred) (q : QueueName), s.me.sid ≠ 0xFFFFFFFF#32 → s.me.deferred = d :: ds → s.me.heldLag = some q →
    s.me.heldLead = true → s.me.frame = .running → s.me.sup = false →
    ∃ t, exec (.queueMisuseDetect s.me.sid) s = .next t ∧
      TrapTaken { s with me := { s.me with issue := d.issue, undo := some d, deferred := ds } } t 0x04#8 q.code d.issue.addr) ∧
  (∀ (s : State) (m : Strand) (part : Fin 16) (cont v : Word) (sender : StrandId), let i : StrandId := cont.extractLsb' 0 32
    s.strand? i = some m → sidPkg i = s.pkg → cont.toNat < 2 ^ 45 → isReg (cont.extractLsb' 32 5) → sidLocal i < 384 → m.launch.part = part →
    s.ownerOfCluster (clusterOfCore (sidCore i)) = some part →
    (8 ≤ m.inbox.length → exec (.messageDelivery part cont v sender) s = .next { s with clock := s.clock + 1
                                                                                        outsideOffers := s.outsideOffers ++ [⟨s.clock, part, cont, v, sender⟩] }) ∧
    (m.inbox.length < 8 → m.frame ≠ .parked → distinct s → ∃ t, exec (.messageDelivery part cont v sender) s = .next t ∧ strandBecomes s t i { m with inbox := m.inbox ++
      [{ value := v, tag := cont.extractLsb' 37 8, reg := cont.extractLsb' 32 5, sender := sender, stamp := 0, remote := true }] })) ∧
  (∀ (s : State) (key : Nat) (va : Word) (minor : BitVec 2) (dbl : Bool) (x : Reg) (la : Nat) (v : Word), s.me.sid ≠ 0xFFFFFFFF#32 →
    s.me.frame = .parked → s.me.wait = some (.word key va minor dbl x la v none) → (∀ h, homeCore key = some h → s.tableLoad h < 64) →
    let n := if dbl then 8 else 4
    let waits := if minor = 2#2 then ∃ k ∈ feWords key n, s.mem.isFull k = true else ∃ k ∈ feWords key n, s.mem.isFull k = false
    (waits → minor ≠ 3#2 → exec (.wordWaitRepresent s.me.sid) s =
      .next { s with me := { s.me with wait := some (.word key va minor dbl x la v (some s.clock)) }, clock := s.clock + 1 }) ∧
    (¬ waits → minor = 0#2 → x = .zero → key + 8 ≤ 2 ^ 51 → isHost key = false →
      (∃ pl, s.locate s.me.launch.part s.me.core s.root va.toNat {} = .ok pl ∧ pl.walked = false) → s.poisonedWords key n = [] → s.me.undo = none → (∀ m ∈ s.others, m.frame ≠ .parked) → s.outsideWaits = [] →
      ∃ t, exec (.wordWaitRepresent s.me.sid) s = .next t ∧ t.me.frame = .running ∧ t.me.wait = none ∧ t.me.pc = s.me.issue.next ∧ t.mem = s.mem ∧ t.others = s.others)) ∧
  (∀ (s : State) (sid : StrandId) (m : Strand), s.strand? sid = some m → distinct s →
    (∀ w, m.frame = .parked → m.wait = some w → (∃ n, w = .batch n) ∨ (∃ k a g, w = .arrival k a g) ∨ (∃ h, w = .coll h) ∨ (∃ h, w = .route h) ∨ (∃ h, w = .job h) ∨ w = .exit →
      ∃ t, exec (.wake sid) s = .next t ∧ strandBecomes s t sid { m with frame := .running, wait := none, undo := none, note := .done }) ∧
    (m.frame = .yielded → m.yieldSet = [] → ∃ t, exec (.yieldReentry sid) s = .next t ∧ strandBecomes s t sid { m with frame := .running }) ∧
    (∀ since, m.wait = some (.fenceD since) → (s.tick ≤ since → exec (.fenceDCompletion sid) s = .next s) ∧
      (since < s.tick → m.frame ≠ .parked → ∃ t, exec (.fenceDCompletion sid) s = .next t ∧ strandBecomes s t sid { m with wait := none, undo := none, fencePast := true }) ∧
      (since < s.tick → m.frame = .parked → m.undo = none → ∃ t, exec (.fenceDCompletion sid) s = .next t ∧ strandBecomes s t sid
        { m with ts := max (m.ts + 1) (max s.rw s.fencesDone), pc := m.issue.next, pos := m.issue.pos + 1, frame := .running, wait := none, note := .done })) ∧
    (m.frame ≠ .preempted → m.frame ≠ .spilled → m.frame ≠ .stopped →
      (m.yieldsNow = false → ∃ t, exec (.preemption sid) s = .next t ∧ strandBecomes s t sid { m with preempt := true }) ∧
      (m.yieldsNow = true → ∃ t m', exec (.preemption sid) s = .next t ∧ t.strand? sid = some m' ∧ t.mem = s.mem ∧ m'.frame = .preempted ∧
        (∀ d ds, m.deferred = d :: ds → m'.pc = d.issue.addr) ∧ (m.deferred = [] → m'.pc = m.pc) ∧
        (m.deferred = [] → m.ctx.windowOpen = false → m'.ctx = { m.ctx with sys := { m.ctx.sys with status := m'.ctx.sys.status } } ∧
          m'.ctx.sys.status &&& ~~~0x2000#16 = m.ctx.sys.status &&& ~~~0x2000#16) ∧ m'.ts = m.ts ∧ m'.core = m.core ∧ m'.slot = m.slot ∧ m'.inbox = m.inbox)) ∧
    (s.tick < m.since + (s.part m.launch.part).quantum → exec (.quantumExpiry sid) s = .next s) ∧
    (m.frame ∈ [.running, .parked, .yielded] → m.since + (s.part m.launch.part).quantum ≤ s.tick →
      (∃ x ∈ s.stuckHeads m.launch.part, s.holdsFor m x = true ∧ m.prio ≤ x.prio) → exec (.quantumExpiry sid) s = exec (.preemption sid) s) ∧
    (m.frame = .preempted → s.spillWaits sid = false → s.frameNeeded m = false → exec (.spill sid) s = .next s) ∧
    (m.frame = .preempted → s.spillWaits sid = false → s.frameNeeded m = true → (s.part m.launch.part).pausing = false → m.image = none →
      ∀ k u, s.storePlace m.launch.part (dieOfCore m.core) (fullImage m (s.tilesOf m)).length = (some k, u) →
        ∃ t, exec (.spill sid) s = .next t ∧ t.strand? sid = some { m with frame := .spilled, image := some k, imageOldest := m.batchOldest } ∧ ∀ i, i ≠ sid → t.strand? i = s.strand? i) ∧
    (∀ k, m.frame = .preempted → m.image = some k → m.wait = none → s.mayResume m = true →
      let img := fullImage { m with batchOldest := m.imageOldest } (s.savedOf sid)
      (s.hardwareRead k img.length = img → ∃ t b, exec (.restore sid) s = .next t ∧ strandBecomes s t sid
        { m with image := none, since := s.tick, note := .done, frame := .running, batchOldest := b } ∧
        (m.batchOldest = m.batchNext → b = m.batchOldest) ∧ (s.batchLive sid m.batchOldest = true → b = m.batchOldest)) ∧
      (s.hardwareRead k img.length ≠ img → imageOk m (s.savedOf sid) (s.hardwareRead k img.length) = false →
        ∃ t m', exec (.restore sid) s = .next t ∧ t.strand? sid = some m' ∧ m'.frame = .stopped ∧ m'.ctx = m.ctx)) ∧
    (m.frame = .preempted → m.image = none → m.wait = none → s.mayResume m = true → s.isHead m = true → s.outranked m m.core = false →
      ∃ t, exec (.resume sid m.core) s = .next t ∧ strandBecomes s t sid { m with since := s.tick, note := .done, frame := .running }) ∧
    (∀ core slot rest, m.frame = .spilled → m.wait = none → s.mayResume m = true → s.isHead m = true → s.outranked m core = false → s.freeFrames core = slot :: rest →
      (s.part m.launch.part).ownsCluster (clusterOfCore core) = true → (∀ x ∈ s.savedOf sid, ((s.segment core).tile x.1).holder = none) →
      (s.owedBefore sid (clusterOfCore core) + m.ctx.vec.w ≤ s.freeLanes (clusterOfCore core) →
        ∃ t, exec (.resume sid core) s = .next t ∧ strandBecomes s t sid { m with frame := .preempted, core := core, slot := slot }) ∧
      (s.freeLanes (clusterOfCore core) < s.owedBefore sid (clusterOfCore core) + m.ctx.vec.w → s.resuming.any (fun r => r.1 == sid) = false →
        exec (.resume sid core) s = .next { s with resuming := s.resuming ++ [(sid, core)] })) ∧
    (∀ e : BitVec 8, m.memberOf.find? (fun e => s.quiescent m.launch e && s.lowest m.launch e sid) = some e.toNat → m.pendingTrap = none →
      ∃ t, exec (.quiescentDeadlock sid e) s = .next t ∧ strandBecomes s t sid
        { m with frame := .running, wait := none, undo := none, note := .done, pendingTrap := some (0x10, e.setWidth 64) })) ∧
  (∀ (s : State) (r : LaunchRef) (l : Launch) (n : Node) (entry a0 memb : Word) (bounds : List Nat) (count minchunk ndim core : Nat),
    s.liveNode r = some (l, n) → n.kind = .kernel entry a0 memb bounds count minchunk ndim → s.creationCore r.part = some core → n.state = .running → n.created < count →
    ∃ t m, exec (.strandCreate r.part r.tag r.node) s = .next t ∧ t.others = s.others ++ [m] ∧ t.me = s.me ∧ t.mem = s.mem ∧ m.slot ∈ s.freeSlots core ∧ m.core = core ∧
      m.sid = mkSid s.pkg core m.slot (Tab.get 0 s.gens (core * 16 + m.slot)) ∧ m.pc = entry &&& ~~~1#64 ∧ m.ctx.acc.a[0] = a0 ∧
      (∀ k : Fin 12, k ≠ 0 → m.ctx.acc.a[k] = 0#64) ∧ m.rank = BitVec.ofNat 32 n.created ∧ m.count = BitVec.ofNat 32 count ∧ m.frame = .running ∧ m.launch = r ∧ s.rw ≤ m.ts)

/-- The jobs of a cluster's matrix queue have numbers of their own and were submitted from its cores (R247), and the tables of the engine are in canonical form. -/
def Sys2Proof.Claims.wellQueued (s : State) (k : Nat) : Prop :=
  ((s.matrixOf k).jobs.map (·.idx)).Nodup ∧ (∀ j ∈ (s.matrixOf k).jobs, clusterOfCore j.origin.core = k) ∧ Tab.wf {} s.matrix = true ∧ Tab.wf {} s.segments = true

/-- A job has left the queue of its cluster, and its record, if it is still there, says complete with these findings. -/
def Sys2Proof.Claims.jobEnded (t : State) (r : Option JobRecord) (k : Nat) (j : Job) (f : JobFound → Prop) : Prop :=
  (∀ x ∈ (t.matrixOf k).jobs, x.idx ≠ j.idx) ∧
    (∀ q, r = some q → q.idx = j.idx → ∃ q', Tab.get none (t.matrixOf k).records (j.idx % 1024) = some q' ∧ q'.state = 2 ∧ q'.idx = j.idx ∧ q'.sid = q.sid ∧ f q'.found)

/-- The strand for which a job works has not gone (R268). -/
def Sys2Proof.Claims.alive (s : State) (j : Job) : Prop := (s.strand? j.origin.sid).isSome = true

/-- `b` bytes have been added at an arrival word (R286): COUNT keeps what is below TARGET, GEN advances by the whole multiples, t0 is the tick, and nothing else of memory has changed. -/
def Sys2Proof.Claims.Added (s t : State) (key b stamp : Nat) : Prop :=
  let count := (s.mem.read key 4 + b) % 2 ^ 32
  let target := s.mem.read (key + 4) 4
  t.me = s.me ∧ t.others = s.others ∧ t.copies = s.copies ∧ (t.arrivalKeep key).t0 = s.tick ∧ (t.arrivalKeep key).stamp = max (s.arrivalKeep key).stamp stamp ∧
    t.mem.read key 4 = (if target = 0 then count else count % target) ∧ t.mem.read (key + 4) 4 = target ∧
    t.mem.read (key + 8) 4 = (if target = 0 then s.mem.read (key + 8) 4 else (s.mem.read (key + 8) 4 + count / target) % 2 ^ 32) ∧
    (∀ a, (a < key ∨ key + 12 ≤ a) → t.mem.byte a = s.mem.byte a)

/-- An arrival word of this package that holds no poison (R285). -/
def Sys2Proof.Claims.OpenWord (s : State) (key : Nat) : Prop :=
  key % 16 = 0 ∧ coreWindow ≤ key ∧ key + 16 ≤ 2 ^ 51 ∧ s.mem.wf = true ∧ Tab.wf {} s.arrivals = true ∧
    ∀ i, i < 4 → s.mem.poisoned (key + 4 * i) = false

/-- Matrix jobs start in order, loads fill the latch, multiplications accumulate into their tile, and ring rounds start, pass latches on and time out. MATRIX_JOB_START makes the job at the head of its segment run, where it is no ring job. MATRIX_JOB_COMPLETE of a running BLD or BMETA puts the halfwords that it reads into the latch or the metadata, of an MMA or MMAS gives every element of its tile the chunked sum of R257 over its row of A and the latch's column, with NV where a sum raised it and POIS counting the poisoned words, and of a BROT passes every latch of the cluster on; a job whose source lies in several units ends with ERR 2; each leaves its queue with a complete record. RING_ROUND_START starts the members of a round in time whose checks pass, and ends them with the error of the checks otherwise, or with ERR 2 when 2^22 mesh cycles have passed. RING_PHASE_END passes the latches on, and ends the members that have done their eighth phase. RING_ROUND_TIMEOUT ends the members of a round that has waited 2^22 mesh cycles with ERR 2, and no other job. (The tiles of a strand that has gone are freed with its last job, R268: the clauses on tiles take a living strand.) (R6, R247, R250, R255, R256, R257, R260) -/
def Obligations.MatrixEvents : Prop :=
  (∀ (s : State) (core : Nat) (j : Job), s.headJob core = some j →
    (j.running = false → j.kind.ring = false → ∃ t, exec (.matrixJobStart core) s = .next t ∧ t = { s with matrix := t.matrix } ∧
      t.headJob core = some { j with running := true } ∧ (∀ k, k ≠ clusterOfCore core → t.matrixOf k = s.matrixOf k) ∧
      ∀ q, Tab.get none (s.matrixOf (clusterOfCore core)).records (j.idx % 1024) = some q → q.idx = j.idx →
        Tab.get none (t.matrixOf (clusterOfCore core)).records (j.idx % 1024) = some { q with state := 1 }) ∧
    ((j.running = true ∨ j.kind.ring = true) → exec (.matrixJobStart core) s = .next s) ∧
    (j.running = false → exec (.matrixJobComplete core) s = .next s)) ∧
  (∀ (s u : State) (core : Nat) (j : Job) (vs : List (BitVec 16)) (sn : List (Nat × Option Word32)), s.headJob core = some j → j.running = true →
    u.segments = s.segments → u.matrix = s.matrix → alive s j → alive u j → wellQueued s (clusterOfCore core) →
    let k := clusterOfCore core
    let old := Tab.get none (s.matrixOf k).records (j.idx % 1024)
    let pois := (sn.filter fun x => x.2.isNone).length
    (j.kind ∈ [.bld, .bmeta, .mma, .mmas] → manyUnits (j.source.addrs.map BitVec.toNat) = true →
      ∃ t, exec (.matrixJobComplete core) s = .next t ∧ t = { s with matrix := t.matrix } ∧ jobEnded t old k j (fun q => q.err = 2)) ∧
    (manyUnits (j.source.addrs.map BitVec.toNat) = false →
      (j.kind = .bld → 1 ≤ j.shape.n → j.shape.n ≤ 64 → s.jobHalfwords j.origin j.seen j.source.addrs = (vs, sn, u) →
        ∃ t, exec (.matrixJobComplete core) s = .next t ∧ jobEnded t old k j (fun q => q.err = j.found.err) ∧ t.mem = u.mem ∧ t.me = u.me ∧
          (t.segment core).latch.shape = (s.segment core).latch.shape.commit .bld j.shape ∧ (t.segment core).tiles = (s.segment core).tiles ∧
          ∀ (i : Nat) v, vs[i]? = some v → (t.segment core).latch.value (i / j.shape.n) (i % j.shape.n) = v) ∧
      (j.kind = .bmeta → s.jobHalfwords j.origin j.seen (j.source.addrs.flatMap fun a => [a, a + 2#64, a + 4#64, a + 6#64]) = (vs, sn, u) →
        ∃ t, exec (.matrixJobComplete core) s = .next t ∧ jobEnded t old k j (fun q => q.err = j.found.err) ∧ t.mem = u.mem ∧ t.me = u.me ∧
          (t.segment core).latch.blocks = quadHalves vs ∧ (t.segment core).latch.values = (s.segment core).latch.values ∧
          (t.segment core).tiles = (s.segment core).tiles) ∧
      ((j.kind = .mma ∨ j.kind = .mmas) → s.jobHalfwords j.origin j.seen j.source.addrs = (vs, sn, u) → (s.segment core).latch.shape.n ≤ 64 →
        Tab.wf 0#32 ((s.segment core).tile j.tile).elems = true → Tab.wf {} (s.segment core).tiles = true →
        let g := s.segment core
        let kk := j.source.region.extent 1
        let b := if j.kind = .mmas then g.latch.sparse else g.latch.value
        let zi : Bool := j.zi
        let sum := fun (m c : Nat) => accChunks kk ⟨if zi then 0#32 else Tab.get 0#32 (g.tile j.tile).elems (64 * m + c), false, false⟩
          ((List.range kk).map fun i => (vs.getD (m * kk + i) 0#16, b i c))
        ∃ t, exec (.matrixJobComplete core) s = .next t ∧ t.mem = u.mem ∧ (t.segment core).latch = g.latch ∧
          t.me.ctx = (if u.me.sid = j.origin.sid then u.me.ctx.keepTile j.idx (g.tile j.tile) else u.me.ctx) ∧
          (∀ m c, m < j.source.region.extent 0 → c < g.latch.shape.n → Tab.get 0#32 ((t.segment core).tile j.tile).elems (64 * m + c) = (sum m c).v) ∧
          (∀ i, (i / 64 < j.source.region.extent 0 → g.latch.shape.n ≤ i % 64) →
            Tab.get 0#32 ((t.segment core).tile j.tile).elems i = Tab.get 0#32 (g.tile j.tile).elems i) ∧
          ((t.segment core).tile j.tile).tag = (g.tile j.tile).tag ∧ ((t.segment core).tile j.tile).holder = (g.tile j.tile).holder ∧
          (∀ z, z ≠ j.tile → (t.segment core).tile z = g.tile z) ∧
          jobEnded t old k j (fun q => (j.kind = .mma → q.err = j.found.err) ∧ q.pois = min (j.found.pois + pois) 65535 ∧ (q.nv = true ↔ j.found.nv = true ∨
            ∃ m c, m < j.source.region.extent 0 ∧ c < g.latch.shape.n ∧ (sum m c).nv = true))))) ∧
  (∀ (s : State) (k core : Nat) (j : Job), s.headJob core = some j → j.running = true → j.kind = .brot → clusterOfCore core = k → wellQueued s k →
    (∀ x ∈ (s.matrixOf k).jobs, alive s x) →
    ∃ t, exec (.matrixJobComplete core) s = .next t ∧ t = { s with segments := t.segments, matrix := t.matrix } ∧
      (t.matrixOf k).jobs = (s.matrixOf k).jobs.filter (fun x => !(x.running && x.kind == .brot)) ∧
      ∀ i, i < 8 → (t.segment (8 * k + (i + 1) % 8)).latch = (s.segment (8 * k + i)).latch ∧
        (t.segment (8 * k + i)).tiles = (s.segment (8 * k + i)).tiles) ∧
  (∀ (s : State) (k : Nat) (js : List Job) (r : Word32), s.roundMembers k = some js → (∀ j ∈ js, j.running = false ∧ j.round = r) → wellQueued s k →
    let now := s.meshNow.1
    let ofRound := fun (x : Job) => x.kind.ring && x.round == r
    let old := fun (j : Job) => Tab.get none (s.matrixOf k).records (j.idx % 1024)
    let inTime := ∀ x ∈ (s.matrixOf k).jobs, ofRound x = true → now < x.since + 2 ^ 22
    (inTime → s.roundError js = 0 → ∃ t, exec (.ringRoundStart k) s = .next t ∧ t = { s.meshNow.2 with matrix := t.matrix } ∧
      (t.matrixOf k).jobs = (s.matrixOf k).jobs.map fun x => if js.any fun y => y.idx == x.idx then { x with running := true } else x) ∧
    (inTime → s.roundError js ≠ 0 → ∃ t, exec (.ringRoundStart k) s = .next t ∧ t = { s.meshNow.2 with matrix := t.matrix, segments := t.segments } ∧
      (t.matrixOf k).jobs = ((s.matrixOf k).jobs.filter fun x => !(js.any fun y => y.idx == x.idx)) ∧
      ∀ j ∈ js, jobEnded t (old j) k j (fun q => q.err = s.roundError js)) ∧
    (¬ inTime → (∀ x ∈ (s.matrixOf k).jobs, ofRound x = true → x.running = false) →
      ∃ t, exec (.ringRoundStart k) s = .next t ∧ t = { s.meshNow.2 with matrix := t.matrix, segments := t.segments } ∧
        (t.matrixOf k).jobs = ((s.matrixOf k).jobs.filter fun x => !ofRound x) ∧ ∀ j ∈ js, jobEnded t (old j) k j (fun q => q.err = 2))) ∧
  (∀ (s : State) (k : Nat), s.runningRound k .mmar ≠ [] → wellQueued s k →
    ∃ t, exec (.ringPhaseEnd k) s = .next t ∧
      (∀ i, i < 8 → (t.segment (8 * k + (i + 1) % 8)).latch = (s.segment (8 * k + i)).latch) ∧
      (∀ x ∈ (s.matrixOf k).jobs, (x.running && x.kind == .mmar) = false → x ∈ (t.matrixOf k).jobs) ∧
      (∀ x ∈ s.runningRound k .mmar, x.phase ≠ 7 → ∃ y ∈ (t.matrixOf k).jobs, y.idx = x.idx ∧ y.running = true ∧ y.phase = x.phase + 1) ∧
      (∀ x ∈ s.runningRound k .mmar, x.phase = 7 → jobEnded t (Tab.get none (s.matrixOf k).records (x.idx % 1024)) k x (fun q => q.err = x.found.err))) ∧
  (∀ (s : State) (k : Nat) (round : BitVec 32), wellQueued s k →
    let js := (s.matrixOf k).jobs.filter fun j => j.kind.ring && j.round == round
    let late := ∃ j ∈ js, j.since + 2 ^ 22 ≤ s.meshNow.1
    ((∀ j ∈ js, j.running = false) → late →
      ∃ t, exec (.ringRoundTimeout k round) s = .next t ∧ t = { s.meshNow.2 with matrix := t.matrix, segments := t.segments } ∧
        (t.matrixOf k).jobs = ((s.matrixOf k).jobs.filter fun j => !(j.kind.ring && j.round == round)) ∧
        ∀ j ∈ js, jobEnded t (Tab.get none (s.matrixOf k).records (j.idx % 1024)) k j (fun q => q.err = 2)) ∧
    (js ≠ [] → ((∃ j ∈ js, j.running = true) ∨ ¬ late) → exec (.ringRoundTimeout k round) s = .next s.meshNow.2) ∧
    (js = [] → exec (.ringRoundTimeout k round) s = .next s))

/-- Copies start, write their pieces, complete and signal, and arrival words count, advance and stall. COPY_START makes a queued copy of a unit with fewer than eight running copies run, or run empty with the error of R282; with eight, or of another copy, it changes nothing. COPY_PIECE_WRITE of a running copy writes one outstanding piece, or ends the copy with ERR 1 where a page is gone. COPY_COMPLETION of a running copy with nothing outstanding removes it, leaves its error with its strand's batch and counts a failure; before that it changes nothing. ARRIVAL_PIECE, of a copy or of another package, adds its bytes to the count at the word's home, the generation advancing by the whole multiples of the target and the rest staying; COUNTER_PIECE adds its bytes to a counter of this package, and one of another package's counter leaves. ARRIVAL_WATCHDOG_EXPIRY, after WDOG ticks without a piece, sets STALL and raises ArrivalStall at every strand that waits there, at a word of another package at once; before, or where none waits, it changes nothing. (R271, R276, R282, R283, R286, R289, R291) -/
def Obligations.CopyEvents : Prop :=
  (∀ (s : State) (id : Nat) (c : Copy), s.copy? id = some c →
    let running := (s.copies.filter fun x => x.cluster == c.cluster && x.state == .running).length
    ((c.state ≠ .queued ∨ 8 ≤ running) → exec (.copyStart id) s = .next s) ∧
    (c.state = .queued → running < 8 → ∃ t, exec (.copyStart id) s = .next t ∧ t = { s with copies := t.copies } ∧
      (s.startError c = 0 → t.copy? id = some { c with state := .running }) ∧
      (s.startError c ≠ 0 → t.copy? id = some { c with state := .running, todo := [], err := s.startError c }) ∧
      ∀ i, i ≠ id → t.copy? i = s.copy? i)) ∧
  (∀ (s : State) (id j : Nat) (c : Copy) (x : Nat × ByteSource) (p : CopyPiece), s.copy? id = some c → c.state = .running → c.todo[j]? = some (x :: p) →
    ((∃ e, s.pieceBytes c (x :: p) = .error e) ∨ (∃ bs u c' e, s.pieceBytes c (x :: p) = .ok (bs, u, c') ∧ u.writePiece c' x.1 bs = .error e) →
      ∃ t, exec (.copyPieceWrite id j) s = .next t ∧ t = { s with copies := t.copies } ∧ t.copy? id = some { c with todo := [], err := 1 }) ∧
    (∀ bs u c' v w, s.pieceBytes c (x :: p) = .ok (bs, u, c') → u.writePiece c' x.1 bs = .ok (v, w) → v.copies = s.copies → c'.id = id →
      ∃ t c'', exec (.copyPieceWrite id j) s = .next t ∧ t = { v with copies := t.copies } ∧ t.copy? id = some c'' ∧ c''.todo = c.todo.eraseIdx j ∧
        c''.state = c'.state ∧ c''.err = c'.err ∧ c''.stamp = max c.stamp w ∧ (c.signal ≠ .none → c''.uncounted = c.uncounted ++ [(bs.length, w)]))) ∧
  (∀ (s : State) (id : Nat) (c : Copy), s.copy? id = some c → Tab.wf 0#64 s.counters = true → let n := 24576 + 8 * c.cluster + 6
    ((c.state ≠ .running ∨ c.todo ≠ [] ∨ c.uncounted ≠ []) → exec (.copyCompletion id) s = .next s) ∧
    (c.state = .running → c.todo = [] → c.uncounted = [] → ∃ t, exec (.copyCompletion id) s = .next t ∧
      t.copies = (s.copies.filter fun x => x.id != id) ∧ t.mem = s.mem ∧
      (∀ i, Tab.get 0#64 t.counters i = if i = n ∧ c.err ≠ 0 then Tab.get 0#64 s.counters n + 1#64 else Tab.get 0#64 s.counters i) ∧
      (c.origin.sid = 0xFFFFFFFF#32 → t.me = s.me ∧ t.others = s.others) ∧
      (∀ m, c.origin.sid ≠ 0xFFFFFFFF#32 → s.strand? c.origin.sid = some m → ∃ m', t.strand? c.origin.sid = some m' ∧ m'.ctx = m.ctx ∧
        (c.err = 0 → m'.batchErr = m.batchErr) ∧ (c.err ≠ 0 → (∀ e ∈ m.batchErr, e.1 ≠ c.batch) → m'.batchErr = m.batchErr ++ [(c.batch, c.err)])))) ∧
  (∀ (s : State) (key b : Nat), OpenWord s key →
    ∃ t, exec (.arrivalPiece (.outside key b)) s = .next t ∧ Added s t key b s.rw) ∧
  (∀ (s u : State) (id : Nat) (c : Copy) (p : Nat × Nat) (r : List (Nat × Nat)) (va key : Nat), s.copy? id = some c → c.uncounted = p :: r → c.signal = .arrival va →
    (s.putCopy { c with uncounted := r }).enginePlace c.origin (BitVec.ofNat 64 va) needW = .ok (key, u) → OpenWord u key →
    ∃ t, exec (.arrivalPiece (.copy id)) s = .next t ∧ Added u t key p.1 p.2 ∧ ∀ c', t.copy? id = some c' → c'.uncounted = r) ∧
  (∀ (s : State) (id : Nat) (c : Copy) (p : Nat × Nat) (r : List (Nat × Nat)) (n : Nat), s.copy? id = some c → c.uncounted = p :: r → Tab.wf 0#64 s.counters = true →
    (c.signal = .counter s.pkg n → ∃ t, exec (.counterPiece (.copy id)) s = .next t ∧ t.mem = s.mem ∧ t.me = s.me ∧ t.others = s.others ∧
      (∀ c', t.copy? id = some c' → c'.uncounted = r) ∧
      ∀ i, Tab.get 0#64 t.counters i = if i = n then Tab.get 0#64 s.counters n + BitVec.ofNat 64 p.1 else Tab.get 0#64 s.counters i) ∧
    (∀ pkg, pkg ≠ s.pkg → c.signal = .counter pkg n → ∃ t, exec (.counterPiece (.copy id)) s = .next t ∧ t = { s with copies := t.copies } ∧
      ∀ c', t.copy? id = some c' → c'.uncounted = r)) ∧
  (∀ (s : State) (n b : Nat), Tab.wf 0#64 s.counters = true →
    (n < 24576 → ∃ t, exec (.counterPiece (.outside n b)) s = .next t ∧ t = { s with counters := t.counters, copies := t.copies } ∧
      ∀ i, Tab.get 0#64 t.counters i = if i = n then Tab.get 0#64 s.counters n + BitVec.ofNat 64 b else Tab.get 0#64 s.counters i) ∧
    (24576 ≤ n → exec (.counterPiece (.outside n b)) s = .next s)) ∧
  (∀ (s : State) (key : Nat), s.mem.wf = true → distinct s →
    let waits := fun (m : Strand) (va : Word) => m.frame = .parked ∧ ((∃ g, m.wait = some (.arrival key va g)) ∨ ∃ ws, m.wait = some (.region ws (some (key, va))))
    ((∀ m ∈ s.strands, ∀ va, ¬ waits m va) → exec (.arrivalWatchdogExpiry key) s = .next s) ∧
    (key < 2 ^ 52 → s.tick < (s.arrivalKeep key).t0 + s.watchdog key → exec (.arrivalWatchdogExpiry key) s = .next s) ∧
    (∀ m ∈ s.strands, ∀ va, waits m va → (key < 2 ^ 52 → (s.arrivalKeep key).t0 + s.watchdog key ≤ s.tick) →
      ∃ t m', exec (.arrivalWatchdogExpiry key) s = .next t ∧ t.strand? m.sid = some m' ∧ m'.frame = .running ∧ m'.wait = none ∧
        m'.ctx = m.ctx ∧ m'.pendingTrap = some (0x11, va) ∧ (∀ a, a ≠ key + 15 → t.mem.byte a = s.mem.byte a) ∧
        (key < 2 ^ 52 → (t.mem.byte (key + 15)).getLsbD 7 = true) ∧ (2 ^ 52 ≤ key → t.mem = s.mem) ∧
        (∀ x ∈ s.strands, (∀ va, ¬ waits x va) → t.strand? x.sid = some x)))

/-- A partition becomes `x`; every other partition is as before. -/
def Sys2Proof.Claims.partBecomes (s t : State) (p : Fin 16) (x : Partition) : Prop := t.part p = x ∧ ∀ n, n ≠ p → t.part n = s.part n

/-- Nothing but the partitions, and what a draw counts, has changed. -/
def Sys2Proof.Claims.onlyParts (s t : State) : Prop := t = { s with parts := t.parts, free := t.free }

/-- Nothing but the launches has changed. -/
def Sys2Proof.Claims.onlyLaunches (s t : State) : Prop := t = { s with launches := t.launches }

/-- The node that a reference names is `n`. -/
def Sys2Proof.Claims.nodeBecomes (s t : State) (r : LaunchRef) (n : Node) : Prop := onlyLaunches s t ∧ t.node? r = some n

/-- The node that a reference names has completed, with the successor that it chose; nothing but the launches has changed. -/
def Sys2Proof.Claims.nodeDone (s t : State) (r : LaunchRef) (chosen : Option Nat) : Prop :=
  onlyLaunches s t ∧ ∃ m, t.node? r = some m ∧ m.state = .completed ∧ m.chosen = chosen

/-- A node has failed: the kill of its launch is requested, with a STATUS and the failing node, where there was none (R370). -/
def Sys2Proof.Claims.nodeFails (s t : State) (r : LaunchRef) (status : Nat) : Prop :=
  onlyLaunches s t ∧ ∃ l x, s.launch? r.part r.tag = some l ∧ t.launch? r.part r.tag = some x ∧
    x.kill = (if l.kill = .none then .requested else l.kill) ∧ x.status = (if l.status = 0 then status else l.status) ∧
    x.failing = (if l.failing = 0xFFFF#16 then BitVec.ofNat 16 r.node else l.failing)

/-- The error of a configuration block: 1 for a unit that another partition owns, 2 for an illegal field, 3 for a unit that is not
ready (R363). -/
def Sys2Proof.Claims.blockError (s : State) (p : Fin 16) (y : Partition) (e : Nat) : Prop :=
  (e = 1 ∧ s.clashes p y = true) ∨ (e = 2 ∧ y.fieldsOk = false) ∨ (e = 3 ∧ s.unitsReady y = false)

/-- A configuration block is legal. -/
def Sys2Proof.Claims.blockOk (s : State) (p : Fin 16) (y : Partition) : Prop :=
  s.clashes p y = false ∧ y.fieldsOk = true ∧ s.unitsReady y = true

/-- A partition is configured, defined, run, paused, resumed, killed and undefined in the order of R363, and contexts are killed by the steps of R376. CONFIG_BLOCK_WRITE writes bytes from 0x08 on in UNDEFINED, and in DEFINED where the block stays legal (the model's choice, log 25). PARTITION_DEFINE makes a legal block DEFINED with ERR 0 and leaves another UNDEFINED with ERR 1 to 3. RUN gives new keys and zeroes the owned memory (stated where no strand is parked, for memory outside the records); PAUSE asks every strand for pre-emption and ends in PAUSED where all are spilled; RESUME runs again; KILL requests the kill of every context and ends in RELEASED where there is none; UNDEFINE zeroes and empties every owned word (PAUSE and KILL are stated where no session is open). In recovery the device takes none of them. KILL_REQUEST and INVALIDATION_REQUEST take a request of the control block and answer it, an invalidation after the accesses under way; ENGINE_QUIESCE_ACK and KILL_RELEASED are the later steps of a kill; REVOKED_WRITE_REJECT counts a write of a revoked context. (R362, R363, R375, R376, R378) -/
def Obligations.PartitionEvents : Prop :=
  (∀ (s : State) (p : Fin 16) (off : Byte) (bs : List Byte), s.always.recovery = false → Tab.wf 0#8 (s.part p).block = true → off.toNat + bs.length ≤ 256 →
    let y := (s.part p).written off bs
    (∀ o, Tab.get 0#8 y.block o = if 8 ≤ o ∧ off.toNat ≤ o ∧ o < off.toNat + bs.length then bs.getD (o - off.toNat) 0#8 else Tab.get 0#8 (s.part p).block o) ∧
    ((s.part p).state = .undefined ∨ ((s.part p).state = .defined ∧ blockOk s p y) → ∃ t, exec (.configBlockWrite p off bs) s = .next t ∧ onlyParts s t ∧
      partBecomes s t p { s.part p with block := y.block }) ∧
    ((s.part p).state = .defined → ¬ blockOk s p y → ∃ t e, exec (.configBlockWrite p off bs) s = .next t ∧ onlyParts s t ∧
      partBecomes s t p { s.part p with err := e } ∧ blockError s p y e) ∧
    ((s.part p).state ≠ .undefined → (s.part p).state ≠ .defined → exec (.configBlockWrite p off bs) s = .next s)) ∧
  (∀ (s : State) (p : Fin 16) (off : Byte) (bs : List Byte), s.always.recovery = true → ∀ i ∈ [Instr.configBlockWrite p off bs, .partitionDefine p, .partitionRun p,
    .partitionPause p, .partitionResume p, .partitionKill p, .partitionUndefine p], exec i s = .next s) ∧
  (∀ (s : State) (p : Fin 16), (s.part p).state = .undefined → s.always.recovery = false → let y := { s.part p with state := PartState.defined }
    (blockOk s p y → ∃ t, exec (.partitionDefine p) s = .next t ∧ onlyParts s t ∧ partBecomes s t p { y with err := 0 }) ∧
    (¬ blockOk s p y → ∃ t e, exec (.partitionDefine p) s = .next t ∧ onlyParts s t ∧ partBecomes s t p { s.part p with err := e } ∧ blockError s p y e)) ∧
  (∀ (s : State) (p : Fin 16), (s.part p).state = .defined → s.always.recovery = false → NoWaiters s →
    ∃ t, exec (.partitionRun p) s = .next t ∧ (t.part p).state = .running ∧ (t.part p).keys.isSome = true ∧ (t.part p).resumedAt = s.tick ∧
      (t.part p).block = (s.part p).block ∧ (∀ n, n ≠ p → t.part n = s.part n) ∧ (∀ tag, (p, tag) ∉ t.revoked) ∧
      (s.mem.wf = true → ∀ a, (∀ n d, d < 4 → (s.part n).frbase d ≠ 0 → a + 4 < (s.part n).frbase d ∨ (s.part n).frbase d + 0x1A100 ≤ a) →
        t.mem.byte a = (if (s.part p).ownsKey a then 0#8 else s.mem.byte a) ∧
        t.mem.keptFull a = (if (s.part p).ownsKey (a / 4 * 4) then false else s.mem.keptFull a))) ∧
  (∀ (s : State) (p : Fin 16), (s.part p).state = .running → s.always.recovery = false → s.sessions = [] →
    ((∀ m ∈ s.strands, m.launch.part = p → s.strand? m.sid = some m ∧ m.frame = .spilled) → ∃ t, exec (.partitionPause p) s = .next t ∧ onlyParts s t ∧
      partBecomes s t p { s.part p with state := .paused, pausing := false }) ∧
    (s.others = [] → s.me.launch.part = p → s.me.sid ≠ 0xFFFFFFFF#32 → s.me.frame = .running →
      (s.me.yieldsNow = false → ∃ t, exec (.partitionPause p) s = .next t ∧ t.me = { s.me with preempt := true } ∧ partBecomes s t p { s.part p with pausing := true }) ∧
      (s.me.yieldsNow = true → ∃ t, exec (.partitionPause p) s = .next t ∧ (t.me.frame = .preempted ∨ t.me.frame = .spilled)))) ∧
  (∀ (s : State) (p : Fin 16), s.always.recovery = false →
    ((s.part p).state = .paused → ∃ t, exec (.partitionResume p) s = .next t ∧ onlyParts s t ∧ partBecomes s t p { s.part p with state := .running, resumedAt := s.tick }) ∧
    ((s.part p).state ≠ .paused → exec (.partitionResume p) s = .next s)) ∧
  (∀ (s : State) (p : Fin 16), (s.part p).state = .running ∨ (s.part p).state = .paused → s.always.recovery = false → s.sessions = [] →
    ((∀ l ∈ s.launches, l.part ≠ p) → ∃ t, exec (.partitionKill p) s = .next t ∧ (t.part p).state = .released) ∧
    ((∃ l ∈ s.launches, l.part = p) → (∀ m ∈ s.strands, m.launch.part ≠ p) → s.copies = [] →
      ∃ t, exec (.partitionKill p) s = .next t ∧ (t.part p).state = .killing ∧ t.me = s.me ∧ t.others = s.others ∧ t.mem = s.mem ∧
        ∀ l ∈ t.launches, l.part = p → l.kill ≠ .none)) ∧
  (∀ (s : State) (p : Fin 16), (s.part p).state = .released → s.always.recovery = false → s.mem.wf = true →
    ∃ t, exec (.partitionUndefine p) s = .next t ∧ partBecomes s t p { s.part p with state := .undefined, keys := none, err := 0 } ∧
      ∀ a, t.mem.byte a = (if (s.part p).ownsKey a then 0#8 else s.mem.byte a) ∧
        t.mem.keptFull a = (if (s.part p).ownsKey (a / 4 * 4) then false else s.mem.keptFull a)) ∧
  (∀ (s : State) (p : Fin 16) (b : Nat) (v : Word), s.controlBlock p = some b → b % 8 = 0 → b + 32 ≤ 2 ^ 50 → NoWaiters s → s.mem.wf = true →
    (∀ k, k < 8 → s.mem.poisoned (b + 4 * k) = false) →
    (s.request? (b + 16) = some v → v.toNat < 2 ^ 16 → s.launch? p (v.setWidth 16) = none →
      ∃ t, exec (.killRequest p) s = .next t ∧ t.mem.read (b + 24) 8 = 2 ^ 16 + v.toNat ∧ t.mem.isFull (b + 24) = true ∧ t.mem.isFull (b + 16) = false ∧ t.me = s.me) ∧
    (s.request? (b + 16) = some v → 2 ^ 16 ≤ v.toNat →
      ∃ t, exec (.killRequest p) s = .next t ∧ t.mem.read (b + 24) 8 = 0 ∧ t.mem.isFull (b + 16) = false ∧ t.launches = s.launches) ∧
    (s.request? b = some v → v.toNat % 2 ^ 16 = 0 → let va := ((v.extractLsb' 16 32 ++ 0#16 : BitVec 48).signExtend 64).toNat
      ∃ t, exec (.invalidationRequest p) s = .next t ∧
        (s.accessPending p va (v.toNat / 2 ^ 48 + 1) = false → t.mem.read (b + 8) 8 = v.toNat ∧ t.mem.isFull b = false) ∧
        (s.accessPending p va (v.toNat / 2 ^ 48 + 1) = true → t.mem = s.mem) ∧
        ∀ c ∈ t.cores, (s.part p).ownsCluster (clusterOfCore c.1) = true → ∀ e ∈ c.2.tlb, e.within va (v.toNat / 2 ^ 48 + 1) = false) ∧
    (s.request? b = some v → v.toNat % 2 ^ 16 ≠ 0 →
      ∃ t, exec (.invalidationRequest p) s = .next t ∧ t.mem.read (b + 8) 8 = 0 ∧ t.mem.isFull b = false)) ∧
  (∀ (s : State) (p : Fin 16) (b : Nat) (v : Word) (l : Launch), s.controlBlock p = some b → s.request? (b + 16) = some v → v.toNat < 2 ^ 16 →
    s.launch? p (v.setWidth 16) = some l →
    (l.kill ≠ .none → ∃ t, exec (.killRequest p) s = .next t ∧ onlyLaunches s t ∧ t.launch? p (v.setWidth 16) = some { l with byRequest := true }) ∧
    (l.kill = .none → s.strandsOf l = [] → s.copies = [] → ∃ t, exec (.killRequest p) s = .next t ∧ t = { s with launches := t.launches, revoked := t.revoked } ∧
      (p, v.setWidth 16) ∈ t.revoked ∧
      t.launch? p (v.setWidth 16) = some { l with kill := .revoked, status := (if l.status = 0 then 2 else l.status), byRequest := true })) ∧
  (∀ (s : State) (p : Fin 16) (tag : BitVec 16) (l : Launch), s.launch? p tag = some l →
    (s.strandsOf l = [] → s.copies = [] →
      (l.kill = .requested → ∃ t, exec (.engineQuiesceAck p tag) s = .next t ∧ t = { s with launches := t.launches, revoked := t.revoked } ∧
        (p, tag) ∈ t.revoked ∧ t.launch? p tag = some { l with kill := .revoked }) ∧
      (l.kill = .revoked → s.matrix = [] → s.masters = [] → s.coords = [] → s.routers = [] → ∃ t, exec (.engineQuiesceAck p tag) s = .next t ∧
        t = { s with launches := t.launches, revoked := t.revoked, remoteOps := s.remoteOps.filter fun r => !l.owns r.launch } ∧
        t.launch? p tag = some { l with kill := .quiesced })) ∧
    (l.kill = .quiesced → (s.part p).state ≠ .killing → NoWaiters s →
      ∃ t, exec (.killReleased p tag) s = .next t ∧ t.launch? p tag = none ∧ t.me = s.me) ∧
    (l.kill ≠ .quiesced → exec (.killReleased p tag) s = .next s)) ∧
  (∀ (s : State) (p : Fin 16) (tag : BitVec 16) (k : Nat), Tab.wf 0#64 s.counters = true → let n := 24576 + 8 * k + 5
    let rejected := (p, tag) ∈ s.revoked ∧ (∀ l, s.launch? p tag = some l → l.kill = .quiesced) ∧ (s.part p).ownsCluster k = true
    (rejected → ∃ t, exec (.revokedWriteReject p tag k) s = .next t ∧ t = { s with counters := t.counters } ∧
      ∀ i, Tab.get 0#64 t.counters i = if i = n then Tab.get 0#64 s.counters n + 1#64 else Tab.get 0#64 s.counters i) ∧
    (¬ rejected → exec (.revokedWriteReject p tag k) s = .next s))

/-- Doorbells, registers, records and nodes: a launch is fetched, its nodes start, complete and loop, and its graph ends. DOORBELL sets the tail, and disables a queue whose tail passes its size; VF_RESET disables the queues bound to a function; WAY_MASK_WRITE ignores zero and otherwise takes 16 bits; REGISTER_WRITE takes the writable bits of its register; in recovery none of them does anything. LAUNCH_RECORD_FETCH of an enabled queue takes the record at HEAD, advances HEAD, and begins the launch of a legal record and graph. NODE_START starts the first eligible node: a kernel gets its groups and nest counter, a join completes, a conditional or switch chooses, a loop waits for its iterations, and a copy, collective or route runs once its command is accepted; a node whose checks fail fails its launch. NODE_COMPLETE completes a kernel whose strands have all exited and a node whose command is over, and fails a launch whose command failed; LOOP_ITERATION begins an iteration or ends the loop; GRAPH_COMPLETION ends the launch. (R364, R365, R366, R367, R369, R370, R371, R372, R373) -/
def Obligations.LaunchEvents : Prop :=
  (∀ (s : State) (q : BitVec 11) (tail : Word32), s.always.recovery = false → let w := s.queue q.toNat
    ∃ t, exec (.doorbell q tail) s = .next t ∧ t = { s with queues := t.queues, clock := s.clock + 1 } ∧
      (Tab.wf {} s.queues = true → (∀ k, k ≠ q.toNat → t.queue k = s.queue k) ∧ t.queue q.toNat = { w with
        tail := tail, bells := (t.queue q.toNat).bells, en := w.en && decide ((tail - w.head).toNat ≤ 2 ^ w.logn.toNat) } ∧
        ((∀ b ∈ w.bells, b.1 ≠ tail) → (t.queue q.toNat).bells = (w.bells ++ [(tail, s.clock)]).filter fun b => 0 < (b.1 - w.head).toInt))) ∧
  (∀ (s : State) (q : BitVec 11) (tail : Word32) (vf : BitVec 7) (r : DeviceRegister) (v : Word), s.always.recovery = true →
    ∀ i ∈ [Instr.doorbell q tail, .vfReset vf, .wayMaskWrite vf v, .registerWrite r v], exec i s = .next s) ∧
  (∀ (s : State) (vf : BitVec 7), s.always.recovery = false → Tab.wf {} s.queues = true → ∃ t, exec (.vfReset vf) s = .next t ∧ t = { s with queues := t.queues } ∧
    ∀ q, t.queue q = if (s.queue q).bind = vf then { s.queue q with en := false } else s.queue q) ∧
  (∀ (s : State) (vf : BitVec 7) (v : Word), s.always.recovery = false → Tab.wf 0#64 s.wayMasks = true →
    ∃ t, exec (.wayMaskWrite vf v) s = .next t ∧ t = { s with wayMasks := t.wayMasks } ∧ ∀ n, wayMask t n =
      if n = vf.toNat ∧ v.toNat % 2 ^ 16 ≠ 0 then v &&& 0xFFFF#64 else wayMask s n) ∧
  (∀ (s : State) (v : Word) (q : BitVec 11), s.always.recovery = false → Tab.wf {} s.queues = true → let w := s.queue q.toNat
    let sets := fun (r : DeviceRegister) (x : WorkQueue) => ∃ t, exec (.registerWrite r v) s = .next t ∧ t = { s with queues := t.queues } ∧
      ∀ k, t.queue k = if k = q.toNat then { x with en := x.en && decide ((x.tail - x.head).toNat ≤ 2 ^ x.logn.toNat) } else s.queue k
    sets (.queueRing q) { w with ring := v } ∧ sets (.queueConfig q) { w with ondev := v.getLsbD 7, logn := v.extractLsb' 0 5 } ∧
      sets (.queueEnable q) { w with en := v.getLsbD 8 } ∧ sets (.queueBind q) { w with bind := v.extractLsb' 0 7 }) ∧
  (∀ (s : State) (v : Word) (d : Fin 4) (k : BitVec 10), s.always.recovery = false → Tab.wf 0#64 s.routes = true → Tab.wf 0#64 s.portAddrs = true →
    exec (.registerWrite .hdmBase v) s = .next { s with hdmBase := v &&& ~~~0xFFFFFFF#64 } ∧
    exec (.registerWrite .tickSource v) s = .next { s with tickSource := v.extractLsb' 0 10 } ∧
    (∃ t, exec (.registerWrite (.routeEntry d k) v) s = .next t ∧ t = { s with routes := t.routes } ∧
      ∀ n, Tab.get 0#64 t.routes n = if n = d.val * 1024 + k.toNat then v else Tab.get 0#64 s.routes n) ∧
    (∀ (r : DeviceRegister) (n : Nat) (x : Word), (r, n, x) ∈ [(DeviceRegister.portMac d, d.val * 4, v &&& 0xFFFFFFFFFFFF#64), (.portIpLow d, d.val * 4 + 1, v), (.portIpHigh d, d.val * 4 + 2, v)] →
      ∃ t, exec (.registerWrite r v) s = .next t ∧ t = { s with portAddrs := t.portAddrs } ∧
        ∀ m, Tab.get 0#64 t.portAddrs m = if m = n then x else Tab.get 0#64 s.portAddrs m)) ∧
  (∀ (s u : State) (q : BitVec 11) (p : Fin 16) (ws : List Word32), let w := s.queue q.toNat
    s.ownerOfQueue q.toNat = some p → s.fetches p q.toNat w = true → (w.ondev = true → (s.part p).ownsPa w.recordAt = true) →
    s.engineReadWords (if w.ondev then hbmKey w.recordAt else hostKey w.recordAt) 16 = (ws, u) → u.queues = s.queues →
    recordOk (wordBytes ws) = true → let l := launchOf p q.toNat w u.tick (wordBytes ws)
    u.launch? p l.tag = none → ∀ ns, (u.setQueue q.toNat w.next).readGraph p (fieldOf (wordBytes ws) 0 8) = some ns →
      ∃ t, exec (.launchRecordFetch q) s = .next t ∧ t = { u with queues := t.queues, launches := u.launches ++ [{ l with nodes := ns }], revoked := u.revoked.filter (· != (p, l.tag)) } ∧ t.queue q.toNat = w.next ∧ w.next.head = w.head + 1) ∧
  (∀ (s : State) (r : LaunchRef) (l : Launch) (n : Node), s.liveNode r = some (l, n) → eligible l.nodes r.node = true → s.comesFirst l = true →
    let ts := stampBefore l.nodes r.node
    let home := 8 * (s.part r.part).lowestCluster
    let starts := fun (u t : State) (x : Node) => exec (.nodeStart r.part r.tag r.node) s = .next t ∧ nodeBecomes u t r x
    let fails := fun (u : State) (st : Nat) => ∃ t, exec (.nodeStart r.part r.tag r.node) s = .next t ∧ nodeFails u t r st
    let done := fun (u : State) (c : Option Nat) => ∃ t, exec (.nodeStart r.part r.tag r.node) s = .next t ∧ nodeDone u t r c
    let command := fun (res : Option (Strand × State)) (e : Strand → State → Option EngineRef) => ∀ m u, res = some (m, u) → u.launches = s.launches →
      (m.note = .trapped → fails u 4) ∧
      (∀ c, m.note = .done → e m u = some c → ∃ t, starts u t { n with state := .running, command := some c, stamp := max n.stamp m.ts }) ∧
      (m.note ≠ .trapped → m.note ≠ .done ∨ e m u = none → exec (.nodeStart r.part r.tag r.node) s = .next s)
    (∀ entry a0 memb bounds count minchunk ndim, n.kind = .kernel entry a0 memb bounds count minchunk ndim →
      let nest := if ndim = 0 then none else some (Nest.mk bounds ndim minchunk ((bounds.take ndim).foldl (· * ·) 1) 0 false [])
      (memb = 0#64 → ∃ t, starts s t { n with state := .running, memb := [], groups := [], nest := nest }) ∧
      (memb ≠ 0#64 → s.nodeLoads (nodeStrand r home ts []) memb count = none → fails s 4) ∧
      (∀ vs u x, memb ≠ 0#64 → s.nodeLoads (nodeStrand r home ts []) memb count = some (vs, u) → u.node? r = some x → let ws := vs.map (BitVec.ofNat 64)
        (ws.all membOk = true → ∃ t, starts u t { x with state := .running, memb := ws, groups := groupsOf ws, nest := nest }) ∧
        (ws.all membOk = false → x.state = .waiting → fails u 3))) ∧
    (∀ addr count a b, n.kind = .loop addr count a b → ∃ t, starts s t { n with state := .running, created := 0 }) ∧
    (n.kind = .join → done s none) ∧
    (∀ addr value c, n.kind = .conditional addr value c → (s.nodeLoads (nodeStrand r home ts []) addr 1 = none → fails s 4) ∧
      ∀ vs u x, s.nodeLoads (nodeStrand r home ts []) addr 1 = some (vs, u) → u.node? r = some x →
        done u n.succ[if condHolds c (BitVec.ofNat 64 (vs.headD 0)) value then 0 else 1]?) ∧
    (∀ addr, n.kind = .switch addr → (s.nodeLoads (nodeStrand r home ts []) addr 1 = none → fails s 4) ∧
      ∀ vs u x, s.nodeLoads (nodeStrand r home ts []) addr 1 = some (vs, u) → u.node? r = some x →
        done u n.succ[min (vs.headD 0) (n.succ.length - 1)]?) ∧
    (∀ qd qs ctl k, n.kind = .copy qd qs ctl k →
      ((s.part r.part).ownsCluster k = false → fails s 4) ∧
      ((s.part r.part).ownsCluster k = true → command (s.asNode (nodeStrand r (8 * k) ts [qd, qs, ctl])
          (andThen (execQld 0#4 (.a 0)) (andThen (execQld 1#4 (.a 1)) (execCpy 1#4 0#4 1#4 (.a 2)))))
        fun m u => if m.ctx.pred 1#4 then u.copies.getLast?.map fun c => .copy c.id else none)) ∧
    (∀ pb k, n.kind = .collective pb k →
      ((s.part r.part).ownsCluster k = false → fails s 4) ∧
      ((s.part r.part).ownsCluster k = true → command (s.asNode (nodeStrand r (8 * k) ts [pb]) (execColl (.a 1) (.a 0))) fun m _ => some (.coll m.ctx.acc.a[1]))) ∧
    (∀ desc, n.kind = .route desc → command (s.asNode (nodeStrand r home ts [desc]) (execRoute (.a 1) (.a 0))) fun m _ => some (.route m.ctx.acc.a[1]))) ∧
  (∀ (s : State) (r : LaunchRef) (l : Launch) (n : Node), s.liveNode r = some (l, n) → n.state = .running →
    (∀ entry a0 memb bounds count minchunk ndim, n.kind = .kernel entry a0 memb bounds count minchunk ndim →
      (n.created = count ∧ n.ended = count → ∃ t, exec (.nodeComplete r.part r.tag r.node) s = .next t ∧ nodeDone s t r none) ∧
      (¬ (n.created = count ∧ n.ended = count) → exec (.nodeComplete r.part r.tag r.node) s = .next s)) ∧
    ((∃ qd qs ctl k, n.kind = .copy qd qs ctl k) ∨ (∃ pb k, n.kind = .collective pb k) ∨ (∃ d, n.kind = .route d) → ∀ c, n.command = some c →
      let folded := n.result = some 5 ∧ ∃ h, c = EngineRef.coll h
      (n.result = none → exec (.nodeComplete r.part r.tag r.node) s = .next s) ∧
      (n.result = some 0 ∨ folded → ∃ t, exec (.nodeComplete r.part r.tag r.node) s = .next t ∧ nodeDone s t r none) ∧
      (∀ e, n.result = some (e + 1) → ¬ folded → ∃ t, exec (.nodeComplete r.part r.tag r.node) s = .next t ∧ nodeFails s t r 4)) ∧
    (∀ addr count a b, n.kind = .loop addr count a b → n.created = 0 ∨ nodeOver l.nodes b = true →
      let ends := fun (u : State) => ∃ t, exec (.loopIteration r.part r.tag r.node) s = .next t ∧ nodeDone u t r none
      let again := fun (u : State) (ns : List Node) (x : Node) => ∃ t, exec (.loopIteration r.part r.tag r.node) s = .next t ∧ nodeBecomes u t r { x with created := n.created + 1 } ∧
        ∀ v m, v ≠ r.node → inBody (a, b) v = true → ns[v]? = some m → t.node? { r with node := v } = some m.again
      (addr = 0#64 → (n.created = count → ends s) ∧ (n.created ≠ count → again s l.nodes n)) ∧
      (addr ≠ 0#64 → let x := nodeStrand r (8 * (s.part r.part).lowestCluster) (stampBefore l.nodes r.node) []
        (s.nodeLoads x addr 1 = none → ∃ t, exec (.loopIteration r.part r.tag r.node) s = .next t ∧ nodeFails s t r 4) ∧
        ∀ vs u k y, s.nodeLoads x addr 1 = some (vs, u) → u.launch? r.part r.tag = some k → k.nodes[r.node]? = some y → y.created = n.created →
          (vs.headD 0 = 0 → ends u) ∧ (vs.headD 0 ≠ 0 → again u k.nodes y))) ∧
    (∀ addr count a b, n.kind = .loop addr count a b → ¬ (n.created = 0 ∨ nodeOver l.nodes b = true) → exec (.loopIteration r.part r.tag r.node) s = .next s)) ∧
  (∀ (s : State) (p : Fin 16) (tag : BitVec 16) (l : Launch), s.launch? p tag = some l → l.kill = .none →
    (graphOver l.nodes = false → exec (.graphCompletion p tag) s = .next s) ∧
    (graphOver l.nodes = true → ∃ t, exec (.graphCompletion p tag) s = .next t ∧ t.launch? p tag = none))

/-- The host reads, writes and snoops the package, fills its cache, and loses its link, as R380 to R385 say. HOST_MEM_READ of an allowed range answers the bytes that memory holds, marked where a word is poisoned, and HOST_MEM_WRITE writes them and nothing else; a range that no window allows is denied and counted in HOSTDENY, and a read of it answers all ones marked poisoned. SNP_INV drops a cached line, SNP_DATA leaves it shared and SNP_CUR as it is, and each answers the line's bytes where it was modified. HOST_CACHE_FILL takes a line in S or E, in a full set in the place of another line of the set. In recovery, or with the link lost, none of them does anything. CLUSTER_POWER_GATE empties the L1s of its cluster and closes the gate of one that no partition has. SURPRISE_LINK_LOSS drops the cache, counts its modified lines and the loss. (How a snoop answers, and what the host itself writes, are the model's, logs 46 and 19.) (R380, R381, R382, R383, R384, R385) -/
def Obligations.HostEvents : Prop :=
  (∀ (s : State) (addr : Word) (n pa : Nat) (bs : List Byte), s.always.recovery = false → s.deviceAddr addr n = some pa →
    (s.hostMay pa n false = true → ∃ a, exec (.hostMemRead addr n) s = .next { s with free := s.free + 1, hostAnswer := some a } ∧ a.bytes.length = n ∧
      (a.poisoned = true ↔ ∃ i, i < n ∧ s.mem.poisoned (hbmKey pa + i) = true) ∧
      ∀ i, i < n → s.mem.poisoned (hbmKey pa + i) = false → a.bytes[i]? = some (s.mem.byte (hbmKey pa + i))) ∧
    (s.hostMay pa n false = false → exec (.hostMemRead addr n) s = .next
      { s with host := { s.host with hostDeny := min (s.host.hostDeny + 1) (2 ^ 32 - 1) }, hostAnswer := some ⟨List.replicate n 0xFF#8, true⟩ }) ∧
    (bs.length = n → s.hostMay pa n true = true → NoWaiters s → s.mem.wf = true → s.mem.poison = [] →
      ∃ t, exec (.hostMemWrite addr bs) s = .next t ∧ t.me = s.me ∧ t.others = s.others ∧ (∀ i, i < n → t.mem.byte (hbmKey pa + i) = bs.getD i 0#8) ∧
        SameMemoryBut s t (hbmKey pa) n ∧ (∀ a, t.mem.keptFull a = s.mem.keptFull a) ∧ s.rw ≤ t.rw) ∧
    (bs.length = n → s.hostMay pa n true = false → exec (.hostMemWrite addr bs) s = .next
      { s with host := { s.host with hostDeny := min (s.host.hostDeny + 1) (2 ^ 32 - 1) } })) ∧
  (∀ (s : State) (addr : Word) (n line : Nat) (bs : List Byte) (owned : Bool), s.always.recovery = true ∨ s.host.linkDown = true →
    ∀ i ∈ [Instr.hostMemRead addr n, .hostMemWrite addr bs, .snpInv line, .snpData line, .snpCur line, .hostCacheFill line owned], exec i s = .next s) ∧
  (∀ (s : State) (line : Nat), s.host.linkDown = false → s.always.recovery = false → Tab.wf {} s.hostCache = true →
    let l := (2 ^ 51 + 64 * line) / 64
    let h := Tab.get {} s.hostCache l
    let answer := if h.state = .modified then some (HostAnswer.mk (s.mem.readBytes (l * 64) 64) false) else none
    let others := fun (t : State) => ∀ k, k ≠ l → Tab.get {} t.hostCache k = Tab.get {} s.hostCache k
    (h.state ≠ .invalid →
      (∃ t, exec (.snpInv line) s = .next t ∧ (Tab.get {} t.hostCache l).state = .invalid ∧ others t ∧ t.hostAnswer = answer ∧ t.mem = s.mem ∧ t.me = s.me ∧
        ∀ c ∈ t.cores, ∀ x ∈ c.2.spans, ¬ (x.line = l / 2 ∧ x.first / 16 = l % 2)) ∧
      (∃ t, exec (.snpData line) s = .next t ∧ t = { s with hostCache := t.hostCache, hostAnswer := answer } ∧ (Tab.get {} t.hostCache l).state = .shared ∧ others t) ∧
      exec (.snpCur line) s = .next { s with hostAnswer := answer }) ∧
    (h.state = .invalid → (∀ i ∈ [Instr.snpInv line, .snpData line, .snpCur line], exec i s = .next s) ∧
      ∀ owned, ∃ t, exec (.hostCacheFill line owned) s = .next t ∧ (Tab.get {} t.hostCache l).state = (if owned then .exclusive else .shared) ∧
        t.me = s.me ∧ t.others = s.others ∧ (s.mem.wf = true → SameMemoryBut s t (l * 64) 64) ∧
        ((s.hostSet l).length < 16 → t = { s with hostCache := t.hostCache, mem := t.mem, free := s.free + 1 } ∧ others t) ∧
        (16 ≤ (s.hostSet l).length → ∃ v ∈ s.hostSet l, ∀ k, k ≠ l → Tab.get {} t.hostCache k = if k = v then {} else Tab.get {} s.hostCache k)) ∧
    (h.state = .shared → ∀ owned, ∃ t, exec (.hostCacheFill line owned) s = .next t ∧ t = { s with hostCache := t.hostCache } ∧
      (Tab.get {} t.hostCache l).state = (if owned then .exclusive else .shared) ∧ others t) ∧
    (h.state = .exclusive ∨ h.state = .modified → ∀ owned, exec (.hostCacheFill line owned) s = .next s)) ∧
  (∀ (s : State) (k : Nat), k < 192 → Tab.wf {} s.cores = true → ∃ t, exec (.clusterPowerGate k) s = .next t ∧ t.mem = s.mem ∧ t.me = s.me ∧ t.others = s.others ∧
    (s.ownerOfCluster k = none → k ∈ t.gated) ∧ (∀ p, s.ownerOfCluster k = some p → t.gated = s.gated) ∧
    (∀ c, clusterOfCore c ≠ k → t.core c = s.core c) ∧ ∀ c, clusterOfCore c = k → (t.core c).spans = [] ∧ (t.core c).icache = [] ∧
      ((∀ x ∈ (s.core c).spans, x.pushed = []) → t.core c = { s.core c with spans := [], icache := [] })) ∧
  (∀ s : State, (s.host.linkDown = true → exec .surpriseLinkLoss s = .next s) ∧
    (s.host.linkDown = false → ∃ t, exec .surpriseLinkLoss s = .next t ∧ t.host.linkDown = true ∧ t.hostCache = [] ∧ t.me = s.me ∧ t.others = s.others ∧
      t.host.lostLines = min (s.host.lostLines + (s.hostCache.filter fun l => l.2.state == .modified).length) (2 ^ 32 - 1) ∧
      t.always.linkLoss = min (s.always.linkLoss + 1) (2 ^ 32 - 1)))

/-- Resets, firmware, attestation, debug and the board controller act as R387 to R395 say. COLD_START leaves no strand, no partition and empty memory, and keeps fuses, flash and the tick; WARM_RESET does so with cause 2 or 3, counts itself and closes the debug port; THERMAL_TRIP removes the rails with cause 4, after which step faults but for COLD_START. FIRMWARE_IMAGE takes an image that R387 accepts and records BOOTERR otherwise; SVN_FUSE_REQUEST raises the counter to the SVN of the image that runs. ATTESTATION_REQUEST, outside recovery, reports version, partition, debug state and nonce; DEBUG_UNLOCK with a valid token opens the port and destroys every partition's keys. I3C_REQUEST answers the reset record and speed entries; THERMAL_WARNING raises an interrupt. (R387, R389, R390, R391, R392, R393, R394, R395) -/
def Obligations.ManagementEvents : Prop :=
  (∀ s : State, ∃ t, exec .coldStart s = .next t ∧ t.me.sid = 0xFFFFFFFF#32 ∧ t.others = [] ∧ t.mem = {} ∧ t.launches = [] ∧ t.copies = [] ∧
    (∀ p, (t.part p).state = .undefined) ∧ t.tick = s.tick ∧ t.always.cause = 1 ∧ t.always.warm = 0 ∧ t.always.fusedSvn = s.always.fusedSvn ∧
    t.always.firmware = s.always.firmware ∧ t.always.debugOpen = false ∧ t.always.debugged = false ∧ t.always.railsOff = false ∧
    (t.always.bootErr = 0 ↔ t.always.recovery = false)) ∧
  (∀ (s : State) (cause : Word32), (cause ≠ 2#32 → cause ≠ 3#32 → exec (.warmReset cause) s = .next s) ∧
    (cause = 2#32 ∨ cause = 3#32 → ∃ t, exec (.warmReset cause) s = .next t ∧ t.me.sid = 0xFFFFFFFF#32 ∧ t.others = [] ∧ t.mem = {} ∧ t.launches = [] ∧
      (∀ p, (t.part p).state = .undefined) ∧ t.always.cause = cause.toNat ∧ t.always.debugOpen = false ∧ t.host.linkDown = false ∧
      ((∀ p, (s.part p).state = .undefined) → s.strands = [] → s.launches = [] → t.always.warm = min (s.always.warm + 1) (2 ^ 32 - 1) ∧ t.tick = s.tick ∧
        t.always.interrupts = s.always.interrupts + 1))) ∧
  (∀ s : State, ∃ t, exec .thermalTrip s = .next t ∧ t.me.sid = 0xFFFFFFFF#32 ∧ t.others = [] ∧ t.mem = {} ∧ t.always.cause = 4 ∧ t.always.railsOff = true ∧ t.always.debugOpen = false ∧
    t.always.ready = false ∧ t.host.linkDown = true ∧ t.always.interrupts = s.always.interrupts + 1 ∧ t.pending = s.pending ∧
    (s.pending = [] → step t = .fault .railsOff)) ∧
  (∀ (s : State) (img : List Byte), let e := imageError s.always.fusedSvn img
    exec (.firmwareImage img) s = .next { s with always :=
      if e = 0 then { s.always with firmware := some img, bootErr := 0, recovery := false, ready := true } else { s.always with bootErr := e } }) ∧
  (∀ (s : State) (svn : Word32), exec (.svnFuseRequest svn) s = .next
    (if s.always.recovery = false ∧ svn.toNat = imageSvn s.always.image ∧ s.always.fusedSvn < svn.toNat then { s with always := { s.always with fusedSvn := svn.toNat } } else s)) ∧
  (∀ (s : State) (nonce : BitVec 256) (p : Byte), (s.always.recovery = true → exec (.attestationRequest nonce p) s = .next s) ∧
    (s.always.recovery = false → p.toNat < 16 ∨ p = 0xFF#8 → ∃ t, exec (.attestationRequest nonce p) s = .next t ∧
      t = { s with always := { s.always with report := t.always.report } } ∧ t.always.report.take 6 = [1#8, 0#8, 0#8, 0#8, p, BitVec.ofNat 8 s.always.debugged.toNat] ∧
      t.always.report.length = 4576 ∧ ∀ i, i < 32 → t.always.report[16 + i]? = some (nonce.extractLsb' (8 * i) 8))) ∧
  (∀ (s : State) (token : List Byte), ∃ t, exec (.debugUnlock token) s = .next t ∧
    if s.always.recovery = false ∧ s.always.tokenValid token = true then
      t.always.debugOpen = true ∧ t.always.debugged = true ∧ ∀ p, (t.part p).active = true → (t.part p).keys = none
    else t = { s with always := { s.always with nonce := s.always.nonce + 1 } }) ∧
  (∀ s : State, let a := s.always
    (∀ (off : Nat) (w : Nat), (off, w) ∈ [(0, 1), (4, a.cause), (8, a.warm), (0xC, a.linkLoss), (0x10, s.host.lostLines), (0x14, min s.host.dropSt (2 ^ 32 - 1)), (0x18, s.host.hostDeny), (0x1C, a.bootErr), (0x24, 0), (0x3C, 0)] →
      exec (.i3cRequest (.resetRecord off)) s = .next { s with always := { a with i3c := (List.range 4).map fun i => BitVec.ofNat 8 (w / 256 ^ i) } }) ∧
    (∀ core, core < 1536 → ∃ t, exec (.i3cRequest (.speedEntry core)) s = .next t ∧ t = { s with always := { a with i3c := t.always.i3c } } ∧ t.always.i3c.length = 16 ∧
      t.always.i3c[2]? = some (s.core core).speed.margin) ∧
    exec .thermalWarning s = .next { s with always := { a with interrupts := a.interrupts + 1 } })

/-- A session of a partition becomes `x`; every other session is as before. -/
def Sys2Proof.Claims.sessionBecomes (s t : State) (p : Fin 16) (n : BitVec 10) (x : Option Session) : Prop :=
  t.session? p n = x ∧ ∀ q m, (q ≠ p ∨ m ≠ n) → t.session? q m = s.session? q m

/-- Accesses of other packages are admitted, wait and act at their homes, and the answers to this package reach their strands. REMOTE_ACCESS_ARRIVAL of an aligned access to HBM: a word that the named partition does not own is denied and counted; an LDF, LDE or STF whose test fails waits; any other has exactly the effect of its operation on memory and full/empty bits. REMOTE_RESPONSE acknowledges a store, or writes a value to the register of the strand in turn, which goes on; a denied one reads as zero and is counted, or takes PoisonConsumed under the trap policy, and so does REMOTE_TIMEOUT after 10,000 ticks, which counts REMTIMEOUT and times no LDF or LDE that is parked at its home. FLIT_RECEIVE takes the next flit of a port, and a tick from a tick flit; LANE_RETIRE and TICK_SOURCE_FAILOVER act as R400 and R401 say. (The value of a response, which of two words is poisoned, whether an LDF is parked at its home, and what correction does are free, logs 18 and 16.) (R340, R396, R398, R399, R400, R401) -/
def Obligations.RemoteEvents : Prop :=
  (∀ (s : State) (r : RemoteRequest), (∀ pa, storageOf r.key ≠ .hbm pa) ∨ ¬ (r.size = 1 ∨ r.size = 2 ∨ r.size = 4 ∨ r.size = 8) ∨ r.key % r.size ≠ 0 →
    exec (.remoteAccessArrival r) s = .next s) ∧
  (∀ (s : State) (r : RemoteRequest) (pa : Nat), storageOf r.key = .hbm pa → (r.size = 1 ∨ r.size = 2 ∨ r.size = 4 ∨ r.size = 8) → r.key % r.size = 0 →
    ((s.part r.part).ownsPa pa = false → exec (.remoteAccessArrival r) s = .next { s with remDeny := s.remDeny + 1 }) ∧
    ((s.part r.part).ownsPa pa = true → mustWait s.mem r.key r.size r.op = true →
      exec (.remoteAccessArrival r) s = .next { s with outsideWaits := s.outsideWaits ++ [(s.clock, r)], clock := s.clock + 1 }) ∧
    ((s.part r.part).ownsPa pa = true → mustWait s.mem r.key r.size r.op = false → NoWaiters s → s.mem.wf = true → s.poisonedWords r.key r.size = [] →
      let old := s.mem.read r.key r.size
      let plain := fun (t : State) (v : Word) => Stored s t r.key r.size v.toNat ∧ BitsBecome s t [] true
      let full := fun (t : State) (v : Word) => Stored s t r.key r.size v.toNat ∧ BitsBecome s t (feWords r.key r.size) true
      ∃ t, exec (.remoteAccessArrival r) s = .next t ∧ t.me = s.me ∧ t.others = s.others ∧ (match r.op with
        | .load | .ldf | .fetest => t.mem = s.mem
        | .lde => SameMemoryBut s t r.key 0 ∧ BitsBecome s t (feWords r.key r.size) false
        | .store v => plain t v
        | .stf v | .stw v | .engineWrite v => full t v
        | .feset => SameMemoryBut s t r.key 0 ∧ BitsBecome s t [r.key] true
        | .feclr => SameMemoryBut s t r.key 0 ∧ BitsBecome s t [r.key] false
        | .amo f v => plain t (amoResult f r.size (BitVec.ofNat 64 old) v)
        | .cas e w => if old = e.toNat % 2 ^ (8 * r.size) then plain t w else t.mem = s.mem))) ∧
  (∀ (s : State) (r : RemoteAccess), s.oldestRemote r.sid = some r → returnsValue r.op = false → ∀ denied,
    exec (.remoteResponse r.sid denied) s = .next { s with remoteOps := s.remoteOps.erase r, free := s.free + 2 }) ∧
  (∀ (s : State) (r : RemoteAccess) (n : Fin 12) (b : Bool), s.oldestRemote s.me.sid = some r → s.me.sid ≠ 0xFFFFFFFF#32 → r.op = .load → r.dest = .reg (.a n) → r.la = 0 →
    (r.size = 1 ∨ r.size = 2 ∨ r.size = 4 ∨ r.size = 8) → s.me.wait = some (.remote b) → s.me.undo = none →
    let goesOn := fun (t : State) (c : Context) (w : Word) => Wrote .access (.a n) w c t.me.ctx ∧ t.me.frame = .running ∧ t.me.wait = none ∧
      t.me.pc = s.me.issue.next ∧ t.remoteOps = s.remoteOps.erase r ∧ t.others = s.others
    let late := s.remoteOps.find? (fun r' => r'.sid == s.me.sid && returnsValue r'.op) = some r ∧ r.since + 10000 ≤ s.tick
    (s.tick ≤ r.since + 10000 → ∃ t, exec (.remoteResponse s.me.sid false) s = .next t ∧ t.mem = s.mem ∧
      goesOn t s.me.ctx (extend r.signed r.size (Config.choice s.free % 2 ^ (8 * r.size)))) ∧
    (s.myPart.poisonTrap = true → s.me.sup = false → s.faultRecord s.me.core = none →
      (s.tick ≤ r.since + 10000 → ∃ t k, exec (.remoteResponse s.me.sid true) s = .next t ∧ (k = 0#64 ∨ (r.size = 8 ∧ k = 4#64)) ∧
        TrapTaken { s with remoteOps := s.remoteOps.erase r, free := s.free + 2 } t 0x0E#8 ((r.va &&& ~~~3#64) + k) s.me.issue.addr) ∧
      (late → ∃ t, exec (.remoteTimeout s.me.sid) s = .next t ∧
        TrapTaken { s with remoteOps := s.remoteOps.erase r, free := s.free + 1, remTimeout := s.remTimeout + 1 } t 0x0E#8 (r.va &&& ~~~3#64) s.me.issue.addr) ∧
      (r.since + 10000 < s.tick → ∀ denied, ∃ t, exec (.remoteResponse s.me.sid denied) s = .next t ∧
        TrapTaken { s with remoteOps := s.remoteOps.erase r, free := s.free + 2, remTimeout := s.remTimeout + 1 } t 0x0E#8 (r.va &&& ~~~3#64) s.me.issue.addr)) ∧
    (s.myPart.poisonTrap = false →
      (s.tick ≤ r.since + 10000 → ∃ t c w, exec (.remoteResponse s.me.sid true) s = .next t ∧ goesOn t c w ∧ c.acc.a = s.me.ctx.acc.a ∧ c.exe = s.me.ctx.exe ∧
        c.acc.poisonCnt ≠ 0#32 ∧ (r.size ≠ 8 → w = 0#64) ∧ (w.toNat % 2 ^ 32 = 0 ∨ w.toNat / 2 ^ 32 = 0)) ∧
      (late → ∃ t c, exec (.remoteTimeout s.me.sid) s = .next t ∧ goesOn t c 0#64 ∧ c.acc.a = s.me.ctx.acc.a ∧ c.exe = s.me.ctx.exe ∧ t.remTimeout = s.remTimeout + 1))) ∧
  (∀ (s : State) (r : RemoteAccess), s.remoteOps.find? (fun r' => r'.sid == r.sid && returnsValue r'.op) = some r →
    s.tick < r.since + 10000 ∨ ((r.op = .ldf ∨ r.op = .lde) ∧ r.lost = false ∧ Config.choice s.free % 2 ≠ 0) →
    exec (.remoteTimeout r.sid) s = .next { s with free := s.free + 1 }) ∧
  (∀ (s : State) (sid : StrandId), s.remoteOps.find? (fun r => r.sid == sid && returnsValue r.op) = none → exec (.remoteTimeout sid) s = .next s) ∧
  (∀ (s : State) (n : Fin 24) (flit : List Byte), let p := s.port n.val
    (p.down = true ∨ flit.length ≠ 256 → exec (.flitReceive n flit) s = .next s) ∧
    (p.down = false → flit.length = 256 → Tab.wf {} s.ports = true → ∃ t bs, exec (.flitReceive n flit) s = .next t ∧ (bs = flit ∨ bs = Config.corrected flit) ∧
      let fits := crc32 (cutBytes bs 0 244) = BitVec.ofNat 32 (fieldOf bs 244 4) ∧ fieldOf bs 0 2 % 4096 = p.expect
      (fits → fieldOf bs 0 2 / 4096 = 3 → t.tick = max s.tick (fieldOf bs 2 8) ∧
        t.port n.val = { p with expect := (p.expect + 1) % 4096, replays := if s.tick < fieldOf bs 2 8 then [] else p.replays }) ∧
      (¬ fits ∨ fieldOf bs 0 2 / 4096 ≠ 3 → t.me = s.me ∧ t.others = s.others ∧ t.mem = s.mem ∧ t.tick = s.tick) ∧
      (fits → fieldOf bs 0 2 / 4096 ≠ 3 → t.port n.val = { p with expect := (p.expect + 1) % 4096 }) ∧
      (¬ fits → (t.port n.val).expect = p.expect))) ∧
  (∀ (s : State) (lane : Fin 192), let n := lane.val / 8
    let p := s.port n
    let left := (List.range 8).filter fun i => 8 * n + i != lane.val && !p.retired.contains (8 * n + i)
    (lane.val ∈ p.retired ∨ p.down = true → exec (.laneRetire lane) s = .next s) ∧
    (lane.val ∉ p.retired → p.down = false → 4 ≤ left.length → ∃ t, exec (.laneRetire lane) s = .next t ∧ t = { s with ports := t.ports } ∧
      t.port n = { p with retired := lane.val :: p.retired }) ∧
    (lane.val ∉ p.retired → p.down = false → left.length < 4 → ∃ t, exec (.laneRetire lane) s = .next t ∧
      t = { s with ports := t.ports, laneCounts := t.laneCounts, free := t.free, remoteOps := t.remoteOps } ∧
      t.remoteOps.length = s.remoteOps.length ∧ t.port n = { p with retired := lane.val :: p.retired, down := true })) ∧
  (∀ (s : State) (src : BitVec 10), exec (.tickSourceFailover src) s = .next
    (if s.tickSource ≠ s.pkg ∧ s.lastTickFlit + 1000 ≤ s.tick then { s with tickSource := src, lastTickFlit := s.tick } else s))

/-- Sessions open, shake hands, carry datagrams, change keys and close as R416 to R420 say. OPEN_SESSION makes a session with a legal entry handshaking and one with another entry failed; CLOSE_SESSION removes it. HANDSHAKE_INIT at a responder and HANDSHAKE_RESP at an initiator open the session where the peer's message verifies and fail it otherwise; HANDSHAKE_TIMEOUT fails a handshake after 10^7 ticks. ZHOMER_DATAGRAM ignores a malformed header, counts one that no key opens or that is replayed, and takes one that authenticates. ZHOMER_RETRANSMIT drops what its calls no longer need; REKEY, when due, gives new keys, flips the phase and restarts the packet numbers; OLD_KEY_EXPIRY drops the old keys; NON_ZHOMER_FRAME changes nothing of the package. (Stated where no collective call is under way; the algorithms are opaque, log 15.) (R416, R417, R418, R419, R420) -/
def Obligations.SessionEvents : Prop :=
  (∀ (s : State) (p : Fin 16) (e : List Byte), s.masters = [] → 1 ≤ entrySess e → entrySess e ≤ 1023 → let n := BitVec.ofNat 10 (entrySess e)
    (s.session? p n = none → s.entryOk p e = true → ∃ t x, exec (.openSession p e) s = .next t ∧ t = { s with sessions := t.sessions, free := s.free + 2 } ∧
      sessionBecomes s t p n (some x) ∧ x.state = 1 ∧ x.entry = e ∧ x.since = s.tick ∧ x.initiator = s.initiates e ∧ (x.sent = if s.initiates e then 1 else 0)) ∧
    (s.session? p n = none → s.entryOk p e = false → ∃ t, exec (.openSession p e) s = .next t ∧ sessionBecomes s t p n (some { state := 3, entry := e })) ∧
    (∀ x, s.session? p n = some x → x.state = 1 ∨ x.state = 2 → ∃ t y, exec (.openSession p e) s = .next t ∧ sessionBecomes s t p n (some y) ∧ y.state = 3 ∧ y.keysOut = none)) ∧
  (∀ (s : State) (p : Fin 16) (n : BitVec 10) (x : Session), s.masters = [] → Tab.wf none s.sessions = true → s.session? p n = some x →
    let failed := fun (t : State) => ∃ y, sessionBecomes s t p n (some y) ∧ y.state = 3 ∧ y.keysOut = none ∧ y.receiving = none
    (∃ t, exec (.closeSession p n) s = .next t ∧ sessionBecomes s t p n none ∧ t.mem = s.mem ∧ t.me = s.me) ∧
    (∀ msg, x.state = 1 → x.initiator = false → ∃ t, exec (.handshakeInit p n msg) s = .next t ∧
      if s.tick ≤ x.since + 10000000 ∧ peerOk x.entry msg (msg.take signedBytes) = true then ∃ y, sessionBecomes s t p n (some y) ∧ y.state = 2 ∧ y.keysOut.isSome = true ∧ y.receiving.isSome = true ∧
        y.keyed = s.tick ∧ y.pnOut = 0 ∧ y.sent = x.sent + 1
      else failed t) ∧
    (∀ msg, x.state = 1 → x.initiator = true → ∃ t, exec (.handshakeResp p n msg) s = .next t ∧
      if s.tick ≤ x.since + 10000000 ∧ peerOk x.entry msg (x.transcript ++ msg.take signedBytes) = true then ∃ y, sessionBecomes s t p n (some y) ∧ y.state = 2 ∧ y.keysOut.isSome = true ∧ y.receiving.isSome = true ∧
        y.keyed = s.tick ∧ y.pnOut = 0
      else failed t) ∧
    (x.state = 1 → x.since + 10000000 ≤ s.tick → ∃ t, exec (.handshakeTimeout p n) s = .next t ∧ failed t) ∧
    (x.state ≠ 1 ∨ s.tick < x.since + 10000000 → exec (.handshakeTimeout p n) s = .next s)) ∧
  (∀ (s : State) (p : Fin 16) (n : BitVec 10) (x : Session) (d : List Byte), s.session? p n = some x →
    let header := x.state = 2 ∧ fieldOf d 0 1 / 16 = 1 ∧ fieldOf d 1 3 = 0 ∧ fieldOf d 4 4 = x.rid.toNat ∧ 32 ≤ d.length ∧ d.length ≤ 16 + 8192 + 16
    let good := (x.receivers (fieldOf d 0 1 / 8 % 2 == 1) s.tick).findSome? fun r => (r.1.open d).map fun body => (r.1, r.2, body)
    let counted := fun (t : State) => sessionBecomes s t p n (some { x with dropped := min (x.dropped + 1) (2 ^ 32 - 1) }) ∧ t = { s with sessions := t.sessions }
    (¬ header → exec (.zhomerDatagram p n d) s = .next s) ∧
    (header → good = none → ∃ t, exec (.zhomerDatagram p n d) s = .next t ∧ counted t) ∧
    (∀ r f body, header → good = some (r, f, body) →
      (r.refuses (fieldOf d 8 8) = true → ∃ t, exec (.zhomerDatagram p n d) s = .next t ∧ counted t) ∧
      (r.refuses (fieldOf d 8 8) = false → let y := f (r.note (fieldOf d 8 8))
        (fieldOf d 0 1 % 8 = 0 → ∃ t, exec (.zhomerDatagram p n d) s = .next t ∧ sessionBecomes s t p n (some { y with sent := y.sent + 1 })) ∧
        (fieldOf d 0 1 % 8 = 1 → ∃ t, exec (.zhomerDatagram p n d) s = .next t ∧
          sessionBecomes s t p n (some { y with unacked := y.unacked.filter fun u => !Config.acknowledges body u.1 })) ∧
        (fieldOf d 0 1 % 8 = 3 → ∃ t z, exec (.zhomerDatagram p n d) s = .next t ∧ sessionBecomes s t p n (some z) ∧
          if peerOk y.entry body (body.take signedBytes) = true then z = { y with nextIn := z.nextIn, sent := y.sent + 1 } ∧ z.nextIn.isSome = true else z.state = 3 ∧ z.keysOut = none) ∧
        (fieldOf d 0 1 % 8 = 2 ∨ 5 ≤ fieldOf d 0 1 % 8 → ∃ t, exec (.zhomerDatagram p n d) s = .next t ∧ sessionBecomes s t p n (some y)) ∧
        (fieldOf d 0 1 % 8 = 4 → s.masters = [] → Tab.wf none s.sessions = true → ∃ t, exec (.zhomerDatagram p n d) s = .next t ∧ sessionBecomes s t p n none)))) ∧
  (∀ (s : State) (p : Fin 16) (n : BitVec 10) (x : Session), s.session? p n = some x →
    (x.state = 2 → let live := x.unacked.filter fun u => s.callLive u.2.1 u.2.2
      ∃ t, exec (.zhomerRetransmit p n) s = .next t ∧ t = { s with sessions := t.sessions } ∧
        sessionBecomes s t p n (some { x with unacked := live, sent := if live = [] then x.sent else min (x.sent + 1) (2 ^ 32 - 1) })) ∧
    (∀ due : Prop, due = (x.state = 2 ∧ (2 ^ 32 ≤ x.pnOut ∨ x.keyed + 3600000000 ≤ s.tick)) →
      (¬ due → exec (.rekey p n) s = .next s) ∧
      (due → ∃ t y, exec (.rekey p n) s = .next t ∧ sessionBecomes s t p n (some y) ∧ y.keysOut.isSome = true ∧ y.phaseOut = !x.phaseOut ∧ y.pnOut = 0 ∧
        y.keyed = s.tick ∧ y.rekeys = min (x.rekeys + 1) (2 ^ 32 - 1) ∧ y.receiving = x.receiving)) ∧
    (∀ r t0, x.oldIn = some (r, t0) → (s.tick < t0 + 1000000 → exec (.oldKeyExpiry p n) s = .next s) ∧
      (t0 + 1000000 ≤ s.tick → ∃ t, exec (.oldKeyExpiry p n) s = .next t ∧ sessionBecomes s t p n (some { x with oldIn := none })))) ∧
  (∀ (s : State) (port : Fin 4) (frame : List Byte), exec (.nonZhomerFrame port frame) s = .next s)

/-- A call of a collective has left the master of its cluster: its record says that it is complete, and how (R404, R412, R413). -/
def Sys2Proof.Claims.callClosed (s t : State) (k : Nat) (c : CollCall) (err present stamp : Nat) : Prop :=
  (t.master k).calls = (s.master k).calls.filter (fun x => x.idx != c.idx) ∧
  (t.master k).mailbox = (s.master k).mailbox.filter (fun x => x != MailEntry.call c.idx) ∧
  (∀ r, Tab.get none (s.master k).records (c.idx % 256) = some r → r.idx = c.idx →
    Tab.get none (t.master k).records (c.idx % 256) =
      some { r with state := 2, err := err, present := present, lost := c.block.nrank - present, stamp := stamp }) ∧
  ∀ j, j ≠ k → t.master j = s.master j

/-- A call of a collective ends: its status record is written and it completes; where the record cannot be written, the
call completes with error 6 and memory is as it was (R412, R413). A graph node whose work it is learns of it (R370, R373). -/
def Sys2Proof.Claims.callEnds (r : Result) (s : State) (k : Nat) (c : CollCall) (e : CollEnd) : Prop :=
  (s.master k).accepted ≠ 0 →
  (∀ u n, s.engineStoreBytes c.origin c.block.status (c.statusBytes e) = .ok (u, n) →
    ∃ t, r = .next t ∧ t = { u with masters := t.masters, launches := (u.engineDone c.origin e.err (max c.stamp n)).launches } ∧ callClosed s t k c e.err e.present.length (max c.stamp n)) ∧
  (∀ x, s.engineStoreBytes c.origin c.block.status (c.statusBytes e) = .error x →
    ∃ t, r = .next t ∧ t = { s with masters := t.masters, launches := (s.engineDone c.origin 6 c.stamp).launches } ∧ callClosed s t k c 6 e.present.length c.stamp)

/-- A call of a collective ends without a result: its status record names the coordinator's moment of acceptance where this
package knows it, and an open value where it does not. -/
def Sys2Proof.Claims.callFails (r : Result) (s : State) (k : Nat) (c : CollCall) (err : Nat) : Prop :=
  callEnds r (s.knownStart c).2 k c { err := err, tstart := (s.knownStart c).1 % 2 ^ 64 }

/-- A coordinator has flushed (R409): its present set is what has arrived. A gather, a broadcast and an all-to-all reduce nothing. -/
def Sys2Proof.Claims.coordFlushes (r : Result) (s : State) (x : Coordinator) (b : CollBlock) (arrived : List Arrived) (asked : Bool) : Prop :=
  ∃ t y, r = .next t ∧ t.coord? x.handle x.seq = some y ∧ y = { x with
      stage := .flushed, arrived := arrived, tflush := s.tick, twilight := x.stage == .twilight, byRequest := asked, reduced := y.reduced } ∧
    (1 < b.op → y.reduced = []) ∧ t.mem = s.mem ∧ t.me = s.me ∧ t.others = s.others ∧
    ((s.master x.cluster).accepted ≠ 0 →
      (t.master x.cluster).lostMembers = min ((s.master x.cluster).lostMembers + (b.nrank - arrived.length)) (2 ^ 32 - 1)) ∧
    ∀ j, j ≠ x.cluster → t.master j = s.master j

/-- A coordinator has become another, and nothing else has changed. -/
def Sys2Proof.Claims.coordBecomes (r : Result) (s : State) (x y : Coordinator) : Prop :=
  ∃ t, r = .next t ∧ t = { s with coords := t.coords } ∧ t.coord? x.handle x.seq = some y ∧
    t.coords.length = s.coords.length

/-- How a member's call ends with a result that reaches it (R409, R410). -/
def Sys2Proof.Claims.resultEnd (res : CollResult) (err : Nat) (folded dropped : Bool) : CollEnd :=
  { err := err, present := res.present, twilight := res.twilight, byRequest := res.byRequest, folded := folded, dropped := dropped
    tstart := res.tstart.toNat, tflush := res.tflush.toNat }

/-- R410: how a late member's call ends: under FOLD its residual takes its contribution, under DROP what it held before. -/
def Sys2Proof.Claims.endsLate (r : Result) (s : State) (k : Nat) (c : CollCall) (f : Contribution) (res : CollResult) : Prop :=
  (∀ u n, s.writeResidual c (if c.block.fold then f.c else f.old) = .ok (u, n) →
    callEnds r u k { c with stamp := max c.stamp n } (resultEnd res 5 c.block.fold (!c.block.fold))) ∧
  (∀ x, s.writeResidual c (if c.block.fold then f.c else f.old) = .error x →
    callEnds r s k c (resultEnd res 6 c.block.fold (!c.block.fold)))

/-- Contributions are held, counted or refused at their coordinator, which flushes, opens Twilight or fails at its moments and on a request. CONTRIBUTION_ARRIVAL of another package: before the coordinator's own call it is held; inside TIMEOUT one that agrees is counted, and the one that makes NRANK flushes; one that has arrived is ignored. A member of this package that has formed its contribution arrives so at a coordinator here, once; one that has formed none sends nothing. COLL_TIMEOUT at or after T + TIMEOUT flushes with a quorum and otherwise opens Twilight; before that, and in another stage, nothing happens. TWILIGHT_EXPIRY at or after T + TIMEOUT + TWILIGHT fails the call: its one running member here completes with ERR 1. FLUSH with a quorum flushes, marked as requested, and is otherwise ignored; CANCEL fails the call and completes its one member here with ERR 8. A flush fixes the present set, TFLUSH and whether Twilight was open, and counts the lost members. COORDINATOR_LOST completes a member with ERR 2 once 2 * TIMEOUT + TWILIGHT have passed since its acceptance. A request at a mailbox's head leaves it. (R409, R410, R413, R414, R419) -/
def Obligations.CoordinatorEvents : Prop :=
  (∀ (s : State) (h q : Word32) (rank : Nat) (agrees : Bool) (data : List Word32), s.collCall? h q rank = none → s.flushedPast h q = false →
    (s.coord? h q = none → exec (.contributionArrival h q rank agrees data) s =
      .next { s with coords := s.coords ++ [{ handle := h, seq := q, arrived := [⟨rank, none, agrees, data⟩] }] }) ∧
    (∀ x, s.coord? h q = some x → x.arrived.any (fun y => y.rank == rank) = true → s.tick ≤ x.tstart + x.timeout →
      exec (.contributionArrival h q rank agrees data) s = .next s) ∧
    (∀ x, s.coord? h q = some x → x.arrived.any (fun y => y.rank == rank) = false → x.stage = .held →
      coordBecomes (exec (.contributionArrival h q rank agrees data) s) s x { x with arrived := x.arrived ++ [⟨rank, none, agrees, data⟩] }) ∧
    (∀ x b, s.coord? h q = some x → x.arrived.any (fun y => y.rank == rank) = false → x.stage = .open_ → x.block = some b →
      s.tick ≤ x.tstart + b.timeout → rank < b.nrank →
      (agrees = true → x.arrived.length + 1 ≠ b.nrank →
        coordBecomes (exec (.contributionArrival h q rank agrees data) s) s x { x with arrived := x.arrived ++ [⟨rank, none, agrees, data⟩] }) ∧
      (agrees = true → x.arrived.length + 1 = b.nrank →
        coordFlushes (exec (.contributionArrival h q rank agrees data) s) s x b (x.arrived ++ [⟨rank, none, agrees, data⟩]) false) ∧
      (agrees = false → exec (.contributionArrival h q rank agrees data) s = .next s))) ∧
  (∀ (s : State) (h q : Word32) (rank k : Nat) (agrees : Bool) (data : List Word32) (c : CollCall), s.collCall? h q rank = some (k, c) →
    (c.formed = none → exec (.contributionArrival h q rank agrees data) s = .next s) ∧
    (∀ f, c.formed = some f → s.coordHere c = true → c.arrived = true → exec (.contributionArrival h q rank agrees data) s = .next s) ∧
    (∀ f x b, c.formed = some f → s.coordHere c = true → c.arrived = false → (s.master k).accepted ≠ 0 → s.flushedPast h q = false → s.coord? h q = some x → x.stage = .open_ →
      x.block = some b → s.tick ≤ x.tstart + b.timeout → rank < b.nrank → c.block.agrees b = true → x.arrived.any (fun y => y.rank == rank) = false →
      (x.arrived.length + 1 ≠ b.nrank → ∃ t, exec (.contributionArrival h q rank agrees data) s = .next t ∧ t = { s with masters := t.masters, coords := t.coords } ∧
        (t.master k).calls = (s.master k).calls.map (fun y => if y.idx = c.idx then { c with arrived := true } else y) ∧
        t.coord? h q = some { x with arrived := x.arrived ++ [⟨rank, some c.block, agrees, f.sent⟩] }) ∧
      (x.arrived.length + 1 = b.nrank →
        coordFlushes (exec (.contributionArrival h q rank agrees data) s) (s.putCall k { c with arrived := true }) x b (x.arrived ++ [⟨rank, some c.block, agrees, f.sent⟩]) false)) ∧
    (∀ f, c.formed = some f → s.coordHere c = false →
      (agrees = true → exec (.contributionArrival h q rank agrees data) s = .next s) ∧
      (agrees = false → callFails (exec (.contributionArrival h q rank agrees data) s) s k c 3)) ∧
    (s.tick < c.since + 2 * c.block.timeout + c.block.twilight → exec (.coordinatorLost h q rank) s = .next s) ∧
    (c.since + 2 * c.block.timeout + c.block.twilight ≤ s.tick → callFails (exec (.coordinatorLost h q rank) s) s k c 2)) ∧
  (∀ (s : State) (h q : Word32),
    (s.coord? h q = none → exec (.collTimeout h q) s = .next s ∧
      let started := (s.collGroup h q).filter fun y => y.2.running && !s.coordHere y.2
      (started = [] → exec (.twilightExpiry h q) s = .next s) ∧ ∀ k c, started = [(k, c)] → callFails (exec (.twilightExpiry h q) s) s k c 1) ∧
    (∀ x b, s.coord? h q = some x → x.block = some b →
      ((x.stage ≠ .open_ ∨ s.tick < x.tstart + b.timeout) → exec (.collTimeout h q) s = .next s) ∧
      (x.stage = .open_ → x.tstart + b.timeout ≤ s.tick →
        (b.quorum ≤ x.arrived.length → coordFlushes (exec (.collTimeout h q) s) s x b x.arrived false) ∧
        (x.arrived.length < b.quorum → coordBecomes (exec (.collTimeout h q) s) s x { x with stage := .twilight })) ∧
      ((x.stage ≠ .twilight ∨ s.tick < x.tstart + b.timeout + b.twilight) → exec (.twilightExpiry h q) s = .next s) ∧
      (x.stage = .twilight → x.tstart + b.timeout + b.twilight ≤ s.tick →
        ((s.collGroup h q).filter (·.2.running) = [] →
          coordBecomes (exec (.twilightExpiry h q) s) s x { x with stage := .failed }) ∧
        (∀ k c, (s.collGroup h q).filter (·.2.running) = [(k, c)] →
          callFails (exec (.twilightExpiry h q) s) (s.putCoord { x with stage := .failed }) k c 1)))) ∧
  (∀ (s : State) (h q : Word32), s.masters.all (fun x => x.2.mailbox.isEmpty) = true →
    (s.coord? h q = none → exec (.flush h q) s = .next s ∧ (s.collGroup h q = [] → exec (.cancel h q) s = .next s)) ∧
    (∀ x b, s.coord? h q = some x → x.block = some b →
      ((x.stage = .open_ ∨ x.stage = .twilight) → b.quorum ≤ x.arrived.length →
        coordFlushes (exec (.flush h q) s) s x b x.arrived true) ∧
      (¬ (x.stage = .open_ ∨ x.stage = .twilight) ∨ x.arrived.length < b.quorum → exec (.flush h q) s = .next s)) ∧
    (∀ x, s.coord? h q = some x → x.stage ≠ .flushed →
      (s.collGroup h q = [] → coordBecomes (exec (.cancel h q) s) s x { x with stage := .failed }) ∧
      (∀ k c, s.collGroup h q = [(k, c)] → callFails (exec (.cancel h q) s) (s.putCoord { x with stage := .failed }) k c 8)) ∧
    (∀ k c, (s.coord? h q = none ∨ ∃ x, s.coord? h q = some x ∧ x.stage = .flushed) → s.collGroup h q = [(k, c)] →
      callFails (exec (.cancel h q) s) s k c 8)) ∧
  (∀ (s : State) (k : Nat) (m : CollMaster) (call : BitVec 16) (rest : List MailEntry) (c : CollCall),
    s.masters = [(k, m)] → m.mailbox = .flush call :: rest → m.liveCall call = some c → s.coord? c.block.handle c.seq = none →
    exec (.flush c.block.handle c.seq) s = .next { s with masters := [(k, { m with mailbox := rest })] })

/-- A member's call starts, reads its contribution, and ends with the result, late, or in an error. COLL_CALL_START takes the call at the head of the mailbox of a cluster where one of three contexts is free and no earlier call of the member runs: its record says running, and it reads SRC and RES and leaves its residual, or completes with ERR 6 where a page of them faults and with ERR 7 where its coordinator cannot be reached; while the contexts are busy, or the earlier call runs, nothing happens; an entry of a completed call is dropped. COLL_RESULT_ARRIVAL, of a coordinator elsewhere or of one here that has flushed, writes the blocks of DST of the members present and completes the call with the present set, or with ERR 6 where a page of DST faults; a member that is not in the set, and LATE_MEMBER, complete with ERR 5: DST is not written, under FOLD RES takes the contribution, and under DROP what it held. A member that has formed nothing yet, or whose coordinator here has not flushed, waits; a result that comes later than 2 * TIMEOUT + TWILIGHT is discarded, and the member completes with ERR 2. (R402, R408, R409, R410, R411, R412, R413) -/
def Obligations.MemberCallEvents : Prop :=
  (∀ (s : State) (k i : Nat) (rest : List MailEntry), (s.master k).mailbox = .call i :: rest → (s.master k).accepted ≠ 0 →
    ((s.master k).calls.find? (fun c => c.idx == i) = none → ∃ t, exec (.collCallStart k) s = .next t ∧ t = { s with masters := t.masters } ∧
      t.master k = { s.master k with mailbox := rest } ∧ ∀ j, j ≠ k → t.master j = s.master j) ∧
    (∀ c, (s.master k).calls.find? (fun c => c.idx == i) = some c →
      (memberSess (c.table.getD c.block.coord 0#32) = 0#10 ∨ ∀ x ∈ s.collCalls, x.2.block.handle = c.block.handle → x.2.seq = c.seq → x.2.block.rank = c.block.rank → x = (k, c)) →
      ((3 ≤ ((s.master k).calls.filter (·.running)).length ∨ s.memberBusy c = true) → exec (.collCallStart k) s = .next s) ∧
      (((s.master k).calls.filter (·.running)).length < 3 → s.memberBusy c = false →
        let s1 := s.setMaster k (({ s.master k with mailbox := rest } : CollMaster).modifyRecord i fun r => { r with state := 1 })
        (s.reachable c = false → callFails (exec (.collCallStart k) s) s1 k { c with running := true } 7) ∧
        (∀ u d, s.reachable c = true → s1.contribute { c with running := true } = .ok (u, d) → ∃ t, exec (.collCallStart k) s = .next t ∧
          t = { u with masters := t.masters, sessions := t.sessions, free := t.free } ∧ (t.master k).mailbox = rest ∧
          (memberSess (c.table.getD c.block.coord 0#32) = 0#10 → t.sessions = u.sessions ∧ t.free = u.free) ∧
          (t.master k).calls = (s.master k).calls.map (fun x => if x.idx = c.idx then d else x) ∧
          (∃ f, d = { c with running := true, formed := some f, stamp := d.stamp }) ∧
          (∀ r, Tab.get none (s.master k).records (i % 256) = some r → r.idx = i →
            Tab.get none (t.master k).records (i % 256) = some { r with state := 1 }) ∧
          ∀ j, j ≠ k → t.master j = s.master j) ∧
        (∀ e, s.reachable c = true → s1.contribute { c with running := true } = .error e →
          callFails (exec (.collCallStart k) s) s1 k { c with running := true } 6)))) ∧
  (∀ (s : State) (k : Nat), (s.master k).mailbox = [] → exec (.collCallStart k) s = .next s) ∧
  (∀ (s : State) (h q : Word32) (rank : Nat) (res : CollResult), s.collCall? h q rank = none →
    exec (.collResultArrival h q rank res) s = .next s ∧ exec (.lateMember h q rank res) s = .next s) ∧
  (∀ (s : State) (h q : Word32) (rank k : Nat) (c : CollCall) (res : CollResult), s.collCall? h q rank = some (k, c) →
    let inTime := s.tick ≤ c.since + 2 * c.block.timeout + c.block.twilight
    (c.formed = none ∨ (inTime ∧ s.coordHere c = true ∧ ∀ x, s.coord? c.block.handle c.seq = some x → x.stage ≠ .flushed) ∨
        (inTime ∧ s.coordHere c = false ∧ s.reachable c = false) →
      exec (.collResultArrival h q rank res) s = .next s ∧ exec (.lateMember h q rank res) s = .next s) ∧
    (c.formed ≠ none → ¬ inTime → callFails (exec (.collResultArrival h q rank res) s) s k c 2 ∧ callFails (exec (.lateMember h q rank res) s) s k c 2) ∧
    (s.coordHere c = false → s.reachable c = true → s.resultOf c res = some (res, s)) ∧
    (∀ x, s.coordHere c = true → s.coord? c.block.handle c.seq = some x → x.stage = .flushed → s.resultOf c res = some (s.resultFor x c.block c.block.rank)) ∧
    (∀ f r v, c.formed = some f → inTime → s.resultOf c res = some (r, v) →
      (r.present.contains rank = true → exec (.lateMember h q rank res) s = .next v ∧
        (∀ u n, v.writeBlocks c.origin (c.block.dstBlocks r) = .ok (u, n) →
          callEnds (exec (.collResultArrival h q rank res) s) u k { c with stamp := max c.stamp n } (resultEnd r 0 false false)) ∧
        (∀ x, v.writeBlocks c.origin (c.block.dstBlocks r) = .error x →
          callEnds (exec (.collResultArrival h q rank res) s) v k c (resultEnd r 6 false false))) ∧
      (r.present.contains rank = false → let w := if s.coordHere c && !c.arrived then v.countLate c.block.handle c.seq else v
        endsLate (exec (.collResultArrival h q rank res) s) w k c f r ∧ endsLate (exec (.lateMember h q rank res) s) w k c f r)))

/-- The routing engine starts and completes calls, grants and holds requests, places rows and closes experts. ROUTE_CALL_START takes the oldest call that may start and marks it running; an RTINV does no more, and a ROUTE with no expert homed here reads its choices, with ERR 5 where a page of them faults, sets ERR 1 on one out of range, and waits for every expert's grant. ROUTE_REQUEST before the own count is held, and one of a later or a killed call changes nothing here; at an open expert, inside its TIMEOUT, it moves NEXT by its count and is counted as answered, one that disagrees only counted, with ERR 3 at the home; at a closed expert it changes nothing here. ROUTE_GRANT with a base sends the rows of the expert's choices; one answered "closed" leaves them without a slot, with ERR 6 where there are any, and one that disagrees with ERR 3; a grant that is not waited for, or comes after 2 * TIMEOUT, is ignored. ROUTE_ROW_ARRIVAL at an open expert writes the row into its slot, and at a closed one it is discarded and counted late. EXPERT_CLOSE_TIMEOUT closes an expert from its own count + TIMEOUT on. ROUTE_GRANT_TIMEOUT after 2 * TIMEOUT gives up the grants not received, with ERR 2. ROUTE_CALL_COMPLETE of a ROUTE whose grants are known and whose rows have arrived writes INV, the drop records and STATUS, and completes it; of an RTINV it completes it. (R426, R427, R428, R429, R430, R431, R432, R433, R434) -/
def Obligations.RoutingEngineEvents : Prop :=
  (∀ (s : State) (die : Nat),
    ((s.router die).calls.find? s.mayStart = none → exec (.routeCallStart die) s = .next s) ∧
    (∀ c, (s.router die).calls.find? s.mayStart = some c → c.die = die →
      let begun := fun (t : State) (d : RouteCall) =>
        (t.router die).calls = (s.router die).calls.map (fun x => if x.idx = c.idx then d else x) ∧
        (∀ r, Tab.get none (s.router die).records (c.idx % 256) = some r → r.idx = c.idx →
          Tab.get none (t.router die).records (c.idx % 256) = some { r with state := 1 }) ∧
        ∀ j, j ≠ die → t.router j = s.router j
      (c.combine = true → ∃ t, exec (.routeCallStart die) s = .next t ∧ t = { s with routers := t.routers } ∧ begun t { c with running := true }) ∧
      (∀ es u, c.combine = false → (∀ e, e < c.desc.nexp → (c.expert e).1 ≠ s.pkg) →
        ((s.putRouteCall { c with running := true }).modifyRouter die fun r => r.modifyRecord c.idx fun x => { x with state := 1 }).readChoices
          { c with running := true } (c.desc.ntok * c.desc.k) c.desc.choice = .ok (es, u) →
        let d : RouteCall := { c with running := true, choices := es, grants := List.replicate c.desc.nexp .waiting }
        ∃ t, exec (.routeCallStart die) s = .next t ∧ t = { u with routers := t.routers } ∧
          begun t (if ∃ e ∈ es, c.desc.nexp ≤ e ∧ e ≠ 0xFFFF then d.fail 1 else d)) ∧
      (∀ x, c.combine = false →
        ((s.putRouteCall { c with running := true }).modifyRouter die fun r => r.modifyRecord c.idx fun x => { x with state := 1 }).readChoices
          { c with running := true } (c.desc.ntok * c.desc.k) c.desc.choice = .error x →
        ∃ t, exec (.routeCallStart die) s = .next t ∧ t = { s with routers := t.routers } ∧ begun t { (({ c with running := true } : RouteCall).fail 5) with
          choices := List.replicate (c.desc.ntok * c.desc.k) 0xFFFF, grants := List.replicate c.desc.nexp .none }))) ∧
  (∀ (s : State) (r : RouteRequest), let die := r.die % 4
    (s.routeExpert? die r.handle r.seq r.expert = none →
      let past := (∃ e ∈ (s.router die).experts, e.handle = r.handle ∧ r.seq.toNat < e.seq.toNat) ∨ ∃ k ∈ (s.router die).killed, k.1 = r.handle ∧ r.seq.toNat ≤ k.2.toNat
      (past → exec (.routeRequest r) s = .next s) ∧
      (¬ past → ∃ t, exec (.routeRequest r) s = .next t ∧ t = { s with routers := t.routers } ∧
        t.router die = { s.router die with held := (s.router die).held ++ [r] } ∧ ∀ j, j ≠ die → t.router j = s.router j)) ∧
    (∀ e, s.routeExpert? die r.handle r.seq r.expert = some e → e.die = die →
      (e.closed = true → exec (.routeRequest r) s = .next s) ∧
      (e.closed = false → s.tick ≤ e.start + e.timeout → e.answered + 1 < e.nmem →
        let put := fun (y : RouteExpert) => (s.router die).experts.map fun x => if x.is r.handle r.seq r.expert then y else x
        (r.agrees = true → ∃ t, exec (.routeRequest r) s = .next t ∧ t = { s with routers := t.routers } ∧
          t.router die = { s.router die with experts := put { e with next := e.next + r.count, answered := e.answered + 1 } } ∧
          ∀ j, j ≠ die → t.router j = s.router j) ∧
        (∀ c, r.agrees = false → s.homeCall r.handle r.seq = some c → c ∈ (s.router c.die).calls →
          ∃ t, exec (.routeRequest r) s = .next t ∧ t = { s with routers := t.routers } ∧
            (t.router die).experts = put { e with answered := e.answered + 1 } ∧
            (t.router c.die).calls = (s.router c.die).calls.map (fun x => if x.idx = c.idx then c.fail 3 else x))))) ∧
  (∀ (s : State) (die e : Nat) (call : BitVec 16) (answer : RouteAnswer), (s.router die).calls.find? (fun c => c.running && !c.combine && c.idx % 65536 == call.toNat) = none →
    exec (.routeGrant die call e answer) s = .next s ∧ exec (.routeGrantTimeout die call) s = .next s) ∧
  (∀ (s : State) (die e : Nat) (call : BitVec 16) (answer : RouteAnswer) (c : RouteCall),
    (s.router die).calls.find? (fun c => c.running && !c.combine && c.idx % 65536 == call.toNat) = some c → c.die = die →
    let becomes := fun (i : Instr) (d : RouteCall) => ∃ t, exec i s = .next t ∧ t = { s with routers := t.routers } ∧
      (t.router die) = { s.router die with calls := (s.router die).calls.map (fun x => if x.idx = c.idx then d else x) } ∧
      ∀ j, j ≠ die → t.router j = s.router j
    let late := c.start + 2 * c.desc.timeout < s.tick
    (c.grants.getD e .none ≠ .waiting ∨ late → exec (.routeGrant die call e answer) s = .next s) ∧
    (c.grants.getD e .none = .waiting → ¬ late →
      becomes (.routeGrant die call e .closed) { (if c.choicesOf e = [] then c else c.fail 6) with grants := c.grants.set e .none } ∧
      becomes (.routeGrant die call e .disagrees) { c.fail 3 with grants := c.grants.set e .none } ∧
      (∀ b u d, s.takeBase c e b = (u, d) → exec (.routeGrant die call e (.base b)) s = .next (u.putRouteCall d)) ∧
      (c.choicesOf e = [] → ∀ b, becomes (.routeGrant die call e (.base b)) { c with grants := c.grants.set e (.base b) })) ∧
    ((s.tick < c.start + 2 * c.desc.timeout ∨ .waiting ∉ c.grants) → exec (.routeGrantTimeout die call) s = .next s) ∧
    (c.start + 2 * c.desc.timeout ≤ s.tick → .waiting ∈ c.grants →
      becomes (.routeGrantTimeout die call) { c.fail 2 with grants := c.grants.map fun g => if g = .waiting then .none else g })) ∧
  (∀ (s : State) (row : RouteRow) (e : RouteExpert), let die := row.die % 4
    s.routeExpert? die row.handle row.seq row.expert = some e → e.die = die → e.handle = row.handle → e.seq = row.seq → (s.router die).accepted ≠ 0 →
    let same := fun (x : RouteRow) => x.handle == row.handle && x.seq == row.seq && x.expert == row.expert && x.slot == row.slot
    (s.router die).rows.find? same = some row →
    let s1 := s.setRouter die { s.router die with rows := (s.router die).rows.filter fun x => !same x }
    (∀ c, e.closed = true → s.homeCall row.handle row.seq = some c → c ∈ (s.router c.die).calls →
      ∃ t, exec (.routeRowArrival row) s = .next t ∧ t = { s with routers := t.routers } ∧ row ∉ (t.router die).rows ∧
        (t.router c.die).calls = (s.router c.die).calls.map (fun x => if x.idx = c.idx then { c with late := c.late + 1 } else x)) ∧
    (∀ u n, e.closed = false → s.tick ≤ e.start + e.timeout → s1.engineStoreBytes e.origin (e.buf + BitVec.ofNat 64 (row.slot * e.rb)) (wordBytes row.data) = .ok (u, n) →
      u.routers = s1.routers → e.counted ≠ row.slot → e.counted ∉ e.written → e.answered < e.nmem →
      ∃ t, exec (.routeRowArrival row) s = .next t ∧ t = { u with routers := t.routers } ∧ row ∉ (t.router die).rows ∧
        t.routeExpert? die row.handle row.seq row.expert = some { e with written := row.slot :: e.written, stamp := max e.stamp n })) ∧
  (∀ (s : State) (die e : Nat) (h q : Word32),
    (s.routeExpert? die h q e = none → exec (.expertCloseTimeout die h q e) s = .next s) ∧
    (∀ x, s.routeExpert? die h q e = some x → x.die = die →
      ((x.closed = true ∨ s.tick < x.start + x.timeout) → exec (.expertCloseTimeout die h q e) s = .next s) ∧
      (∀ k u, x.closed = false → x.start + x.timeout ≤ s.tick → s.enginePlace x.origin x.ablk needW = .ok (k, u) →
        ∃ t, exec (.expertCloseTimeout die h q e) s = .next t ∧ t.routeExpert? die h q e = some { x with closed := true } ∧
          (t.router die).calls = (s.router die).calls ∧ t.masters = s.masters))) ∧
  (∀ (s : State) (die : Nat),
    ((s.router die).calls.find? (fun c => c.running && (c.combine || s.routeDone c)) = none → exec (.routeCallComplete die) s = .next s) ∧
    (∀ c, (s.router die).calls.find? (fun c => c.running && (c.combine || s.routeDone c)) = some c → c.die = die → (s.router die).accepted ≠ 0 →
      ∃ t, exec (.routeCallComplete die) s = .next t ∧ (t.router die).calls = (s.router die).calls.filter (fun x => x.idx != c.idx) ∧
        (t.router die).experts = (s.router die).experts ∧
        (∀ r, Tab.get none (s.router die).records (c.idx % 256) = some r → r.idx = c.idx →
          ∃ y, Tab.get none (t.router die).records (c.idx % 256) = some y ∧ y.idx = c.idx ∧ y.state = 2 ∧ y.delivered = r.delivered ∧
            (c.combine = true → y.ndrop = 0)) ∧
        (c.combine = false → ∀ u d v n, let fates := (List.range (c.desc.ntok * c.desc.k)).map fun i => (i, c.fate i)
          let drops := fates.filterMap fun x => match x.2 with
            | .dropped w => some (dropRecord (c.choices.getD x.1 0) w (x.1 % c.desc.k) (x.1 / c.desc.k))
            | _ => none
          s.storeAll c (fates.map (fun x => (c.desc.inv + BitVec.ofNat 64 (4 * x.1), bytesOf 4 (match x.2 with | .slot s => s | _ => 0xFFFFFFFF))) ++
            (drops.take c.desc.dropMax).zipIdx.map (fun x => (c.desc.drop + BitVec.ofNat 64 (8 * x.2), bytesOf 8 x.1))) = (u, d) →
          u.engineStoreBytes c.origin c.desc.status
            (d.statusBytes (fates.filter fun x => x.2 != .noChoice).length drops.length u.tick) = .ok (v, n) →
          d.origin = c.origin → d.desc = c.desc → t.mem = v.mem)))

/-- The strand in turn stands before its next instruction, and nothing else is due: the rails are on, no kill is asked for, no
event is set, no instruction of the strand is under way, and neither half of it is behind. -/
def Sys2Proof.Claims.standsToIssue (s : State) (r : List StrandId) : Prop :=
  s.always.railsOff = false ∧ s.launches.all (fun l => l.kill != .requested) = true ∧ s.pending = [] ∧
  s.turns = s.me.sid :: r ∧ s.me.sid ≠ Strand.absent.sid ∧ s.me.frame = .running ∧ s.me.wait = none ∧ s.me.going = [] ∧ s.me.deferred = [] ∧
  s.me.pendingTrap = none ∧ s.me.owed = none ∧ s.me.preempt = false

/-- A step runs an instruction from the state after its fetch: its windows close and the program counter stands behind it, its
meaning is applied, a pre-emption or a yield that waited for this boundary follows, and what follows every step, which is held
where it would pass the Midnight limit (R318). Where a queue or an engine holds the half it belongs to, the other half goes on without it. -/
def Sys2Proof.Claims.stepRuns (s u : State) (i : Instr) : Prop :=
  ∀ t, exec i (u.lift i) = .next t →
    let ends := fun (x : State) => step s = holdForMidnight s (afterStep s.mem (.next (State.afterStrand s.me
      (if x.me.sid = s.me.sid then x.noteHeld none s.me.ctx.queues else x))))
    (i.half = .both ∨ (t.me.note ≠ .blocked ∧ ∀ q, t.me.note ≠ .held q) → ends t) ∧
    (∀ n, t.me.note = n → (n = .blocked ∨ ∃ q, n = .held q) → i.half ≠ .both → ends (t.leaveTo i i.half n))

/-- A step of a strand runs the instruction that the bytes at its program counter decode to. For every state whose strand in turn is running, with no instruction under way or held, no trap or pre-emption waiting, while the rails are on and no kill or event is set: where the halfword, or the word and its literal words, at the program counter can be fetched and decode to a well-formed instruction, step is exec of it, from the state after the fetch with the program counter behind the instruction, its record set and its windows closed, followed by the pre-emption or yield that waited for the boundary and by what follows every step (requests taken, words read ahead), which is held where it would pass the Midnight limit; where a queue or an engine holds its half, the other half goes on without it. (R27, R28, R54, R447) -/
def Obligations.StepRunsDecoded : Prop :=
  ∀ (s : State) (r : List StrandId), standsToIssue s r → let m := s.me
    (∀ lo u i, ({ s with turns := r } : State).fetchHalf m.pc = .ok (lo, u) → lo.getLsbD 0 = false → decode (bytesOfHalf lo) = .ok i →
      stepRuns s (u.issuing { addr := m.pc, next := m.pc + 2#64, word := lo.setWidth 32, long := false, half := .execute, pos := m.pos }) i) ∧
    (∀ lo hi u1 u2 u ws i j, ({ s with turns := r } : State).fetchHalf m.pc = .ok (lo, u1) → lo.getLsbD 0 = true →
      u1.fetchHalf (m.pc + 2#64) = .ok (hi, u2) → decode (Sys2Proof.bytesOfWord (hi ++ lo)) = .ok j →
      u2.fetchLits (m.pc + 4#64) j.lits.length = .ok (ws, u) →
      decode (Sys2Proof.bytesOfWord (hi ++ lo) ++ (ws.map Sys2Proof.bytesOfWord).flatten) = .ok i →
      stepRuns s (u.issuing { addr := m.pc, next := m.pc + 4#64 + BitVec.ofNat 64 (4 * j.lits.length), word := hi ++ lo, long := true
                              nlit := j.lits.length, ntab := tableWords j, half := j.half, pos := m.pos }) i)

/-- Every instruction answers a next state, and a step stops only while the rails are off. In every state, exec answers a next state for every instruction and event, and step never refuses; it faults only in the state in which a thermal trip has removed the main rails and no event is set, and then with railsOff. (R394, R54) -/
def Obligations.StepsGoOn : Prop :=
  (∀ (i : Instr) (s : State), ∃ t, exec i s = .next t) ∧
  (∀ (s : State), (∀ r, step s ≠ .refused r) ∧
    (∀ f, step s = .fault f → f = .railsOff ∧ s.always.railsOff = true ∧ s.pending = []) ∧
    (s.always.railsOff = true → s.pending = [] → step s = .fault .railsOff))

/-- Decoding an encoded well-formed instruction gives it back, and every decoded instruction encodes to the bytes it came from. For every well-formed instruction, decoding the bytes of its encoding, whatever follows them, gives that instruction, with every operand and literal word; and where the decoder accepts bytes as an instruction, it is well formed, its encoding is those bytes (zeros stand for bytes past their end), and no other instruction has that encoding. (R27, R28, R29, R31, R45, R52, R53, R54) -/
def Obligations.EncodingAgrees : Prop :=
  (∀ (i : Instr) (rest : List Byte), WellFormed i → decode (encode i ++ rest) = .ok i) ∧
  (∀ (bs : List Byte) (i : Instr), decode bs = .ok i → WellFormed i ∧
    ∀ k, k < (encode i).length → (encode i)[k]? = some (byteAt bs k)) ∧
  (∀ i j : Instr, WellFormed i → WellFormed j → encode i = encode j → i = j)

/-- Words that the spec writes out decode to the instructions that they stand for. The words of the spec's worked encodings of ADD with a literal word, VADD in 16 bits, MUL of a queue, SEL, CMPI.LT, BR, STF.D, QSUB, ITER, VCMP.LT, MMA and EXIT decode to these instructions with these operands, and the halfword of zeros is illegal. (R31, R36, R45, R52) -/
def Obligations.DecodesSpecWords : Prop :=
  decode (Sys2Proof.bytesOfWord 0x001B2881#32 ++ Sys2Proof.bytesOfWord 0x000186A0#32) = .ok (.add ⟨false, 0#4⟩ (.d 1) (.d 2) (.lit 0x000186A0#32)) ∧
  decode (bytesOfHalf 0x4620#16) = .ok (.vaddShort 2#3 1#4 3#4) ∧
  decode (Sys2Proof.bytesOfWord 0x0028E983#32) = .ok (.mul ⟨false, 0#4⟩ (.d 3) .queue (.d 4)) ∧
  decode (Sys2Proof.bytesOfWord 0x13C41181#32) = .ok (.sel ⟨false, 2#4⟩ (.a 3) (.a 1) (.a 2)) ∧
  decode (Sys2Proof.bytesOfWord 0xFF65249B#32) = .ok (.cmpi 2#4 9#4 (.d 2) 0x7FB#11) ∧
  decode (Sys2Proof.bytesOfWord 0xFFFF60A1#32) = .ok (.br false 1#4 0xFFFF6#20) ∧
  decode (Sys2Proof.bytesOfWord 0xFEA06A35#32) = .ok (.stf true 0#4 (.d 4) (.a 6) 0xFE#8) ∧
  decode (Sys2Proof.bytesOfWord 0x026091C1#32) = .ok (.qsub 3#4 2#4 1#4) ∧
  decode (Sys2Proof.bytesOfWord 0x0002C22B#32) = .ok (.iter ⟨false, 0#4⟩ (.a 4) 1#4) ∧
  decode (Sys2Proof.bytesOfWord 0x28010951#32) = .ok (.vcmp false 0#3 2#4 2#4 1#4 2#4) ∧
  decode (Sys2Proof.bytesOfWord 0x50003261#32) = .ok (.mma 5#4 false 0#4 3#4 2#3) ∧
  decode (Sys2Proof.bytesOfWord 0x0198C629#32) = .ok (.exit ⟨false, 0#4⟩) ∧
  decode [0#8, 0#8] = .illegal

/-- Every step keeps memory in its canonical form. For every state whose memory is in canonical form (bytes, full/empty bits and poison marks by strictly rising address, none listed that an unlisted one reads as), the state that a step answers has its memory in canonical form; and so has the state that any instruction or event answers. (R3, R120, R125) -/
def Obligations.MemoryStaysCanonical : Prop :=
  (∀ (i : Instr) (s t : State), s.mem.wf = true → exec i s = .next t → t.mem.wf = true) ∧
  (∀ (s t : State), s.mem.wf = true → step s = .next t → t.mem.wf = true)

/-- At reset no partition is defined, nothing runs, and every word of every memory is zero and empty. After cold start there is no strand, launch, copy or call, no event is set and no queue or session is open; every partition is Undefined with LEASE 16, every way mask is 0xFFFF, every byte of memory is zero, every word empty and not poisoned, memory is in canonical form, and the device is ready with its rails on. That HEARTBEAT, the package number and the model's own counters start at zero is the model's choice (log 1). (R391, R120, R363, R311, R316) -/
def Obligations.ResetState : Prop :=
  State.reset.strands = [] ∧ State.reset.launches = [] ∧ State.reset.copies = [] ∧ State.reset.coords = [] ∧ State.reset.masters = [] ∧
  State.reset.routers = [] ∧ State.reset.queues = [] ∧ State.reset.sessions = [] ∧ State.reset.pending = [] ∧ State.reset.pushes = [] ∧
  (∀ p : Fin 16, (State.reset.part p).state = .undefined ∧ (State.reset.part p).lease = 16) ∧ (∀ n, wayMask State.reset n = 0xFFFF#64) ∧
  (∀ a : Nat, State.reset.mem.byte a = 0#8 ∧ State.reset.mem.keptFull a = false ∧ State.reset.mem.poisoned a = false) ∧
  State.reset.mem.wf = true ∧ State.reset.always.ready = true ∧ State.reset.always.railsOff = false ∧
  State.reset.tick = 0 ∧ State.reset.pkg = 0#10 ∧ State.reset.free = 0 ∧
  Sys2Proof.core.reset = State.reset ∧ Sys2Proof.core.step = step

end
end

