-- ==== Sys2Proof/Laws/Memory.lean ====
section
/-! SUPPORT. Tables and memory: a read after a write, the canonical form, and what a write leaves alone. -/

namespace Sys2Proof.Laws
open Sys2Proof Sys2Proof.Machine

section
variable {α : Type} [DecidableEq α] {d : α}

theorem tab_above_iff {n : Nat} {t : Tab α} : Tab.above n t = true ↔ ∀ e ∈ t, n < e.1 := by simp [Tab.above]

theorem tab_wf_cons {k : Nat} {v : α} {t : Tab α} : Tab.wf d ((k, v) :: t) = true ↔ v ≠ d ∧ (∀ e ∈ t, k < e.1) ∧ Tab.wf d t = true := by
  simp [Tab.wf, and_assoc, tab_above_iff]

theorem tab_get_above : ∀ {t : Tab α} {m : Nat}, (∀ e ∈ t, m < e.1) → Tab.get d t m = d
  | [], _, _ => rfl
  | (k, v) :: t, m, h => by
    have : k ≠ m := Nat.ne_of_gt (h (k, v) (List.mem_cons_self ..))
    simp only [Tab.get, this, if_false]
    exact tab_get_above fun e he => h e (List.mem_cons_of_mem _ he)

theorem tab_mem_put : ∀ {t : Tab α} {n : Nat} {v : α} {e : Nat × α}, e ∈ Tab.put d t n v → e = (n, v) ∨ e ∈ t
  | [], n, v, e, h => by
    simp only [Tab.put] at h
    split at h <;> simp_all
  | (k, w) :: t, n, v, e, h => by
    simp only [Tab.put] at h
    split at h
    · split at h
      · exact .inr h
      · simpa [List.mem_cons] using h
    · split at h
      · split at h
        · exact .inr (List.mem_cons_of_mem _ h)
        · rcases List.mem_cons.mp h with h | h
          · exact .inl h
          · exact .inr (List.mem_cons_of_mem _ h)
      · rcases List.mem_cons.mp h with h | h
        · exact .inr (h ▸ List.mem_cons_self ..)
        · exact (tab_mem_put h).imp id (List.mem_cons_of_mem _)

/-- A read after a write, in a canonical table. -/
theorem tab_get_put : ∀ {t : Tab α} {n : Nat} {v : α} (m : Nat), Tab.wf d t = true →
    Tab.get d (Tab.put d t n v) m = if m = n then v else Tab.get d t m
  | [], n, v, m, _ => by
    simp only [Tab.put]
    by_cases hm : m = n
    · subst hm; split <;> simp_all [Tab.get]
    · split <;> simp [Tab.get, hm, Ne.symm hm]
  | (k, w) :: t, n, v, m, h => by
    obtain ⟨h1, h2, h3⟩ := tab_wf_cons.mp h
    have ih := tab_get_put (n := n) (v := v) m h3
    simp only [Tab.put]
    by_cases hm : m = n
    · subst hm
      simp only [if_true] at ih ⊢
      split
      · rename_i hn
        split
        · rename_i hv
          have : k ≠ m := by omega
          simp only [Tab.get, this, if_false, hv]
          exact tab_get_above fun e he => by have := h2 e he; omega
        · simp [Tab.get]
      · split
        · rename_i hk; subst hk
          split
          · rename_i hv; rw [hv]; exact tab_get_above h2
          · simp [Tab.get]
        · rename_i hk; simp only [Tab.get, Ne.symm hk, if_false, ih]
    · simp only [hm, if_false] at ih ⊢
      split
      · split
        · rfl
        · simp only [Tab.get, Ne.symm hm, if_false]
      · split
        · rename_i hk; subst hk
          split <;> simp only [Tab.get, Ne.symm hm, if_false]
        · simp only [Tab.get, ih]

/-- A write keeps the canonical form. -/
theorem tab_put_wf : ∀ {t : Tab α} {n : Nat} {v : α}, Tab.wf d t = true → Tab.wf d (Tab.put d t n v) = true
  | [], n, v, _ => by simp only [Tab.put]; split <;> simp_all [Tab.wf, Tab.above]
  | (k, w) :: t, n, v, h => by
    obtain ⟨h1, h2, h3⟩ := tab_wf_cons.mp h
    simp only [Tab.put]
    split
    · rename_i hn
      split
      · exact h
      · rename_i hv
        refine tab_wf_cons.mpr ⟨hv, fun e he => ?_, h⟩
        rcases List.mem_cons.mp he with he | he
        · subst he; exact hn
        · have := h2 e he; omega
    · split
      · rename_i hk; subst hk
        split
        · exact h3
        · rename_i hv; exact tab_wf_cons.mpr ⟨hv, h2, h3⟩
      · refine tab_wf_cons.mpr ⟨h1, fun e he => ?_, tab_put_wf h3⟩
        rcases tab_mem_put he with he | he
        · subst he; show k < n; omega
        · exact h2 e he

/-- Dropping entries keeps the canonical form. -/
theorem tab_drop_wf : ∀ {t : Tab α} (p : Nat → Bool), Tab.wf d t = true → Tab.wf d (Tab.drop p t) = true
  | [], _, _ => rfl
  | (k, v) :: t, p, h => by
    obtain ⟨h1, h2, h3⟩ := tab_wf_cons.mp h
    have ih := tab_drop_wf p h3
    simp only [Tab.drop, List.filter_cons] at *
    split
    · exact tab_wf_cons.mpr ⟨h1, fun e he => h2 e (List.mem_filter.mp he).1, ih⟩
    · exact ih

/-- What reads a dropped key. -/
theorem tab_get_drop : ∀ {t : Tab α} (p : Nat → Bool) (m : Nat), Tab.wf d t = true →
    Tab.get d (Tab.drop p t) m = if p m then d else Tab.get d t m
  | [], _, _, _ => by simp [Tab.drop, Tab.get]
  | (k, v) :: t, p, m, h => by
    obtain ⟨h1, h2, h3⟩ := tab_wf_cons.mp h
    have ih := tab_get_drop p m h3
    simp only [Tab.drop, List.filter_cons] at *
    by_cases hk : k = m
    · subst hk
      by_cases hp : p k
      · simp only [hp, Bool.not_true, Bool.false_eq_true, if_false, if_true, ih]
      · simp [hp, Tab.get]
    · by_cases hp : p k
      · simp only [hp, Bool.not_true, Bool.false_eq_true, if_false, ih, Tab.get, hk]
      · simp only [hp, Bool.not_false, if_true, Tab.get, hk, if_false, ih]
end

theorem mem_wf_iff {m : Mem} : m.wf = true ↔ Tab.wf 0#8 m.bytes = true ∧ Tab.wf false m.full = true ∧ Tab.wf false m.poison = true := by
  simp [Mem.wf, and_assoc]

theorem setByte_wf {m : Mem} {a : Nat} {b : Byte} (h : m.wf = true) : (m.setByte a b).wf = true := by
  simp only [mem_wf_iff] at *; exact ⟨tab_put_wf h.1, h.2⟩
theorem setFull_wf {m : Mem} {a : Nat} {b : Bool} (h : m.wf = true) : (m.setFull a b).wf = true := by
  simp only [mem_wf_iff] at *; exact ⟨h.1, tab_put_wf h.2.1, h.2.2⟩
theorem setPoison_wf {m : Mem} {a : Nat} {b : Bool} (h : m.wf = true) : (m.setPoison a b).wf = true := by
  simp only [mem_wf_iff] at *; exact ⟨h.1, h.2.1, tab_put_wf h.2.2⟩
theorem write_wf : ∀ {n : Nat} {m : Mem} {a v : Nat}, m.wf = true → (m.write a n v).wf = true
  | 0, _, _, _, h => h
  | n + 1, m, a, v, h => write_wf (n := n) (m := m.setByte a (BitVec.ofNat 8 v)) (setByte_wf h)
theorem writeBytes_wf : ∀ {bs : List Byte} {m : Mem} {a : Nat}, m.wf = true → (m.writeBytes a bs).wf = true
  | [], _, _, h => h
  | b :: bs, m, a, h => writeBytes_wf (bs := bs) (m := m.setByte a b) (setByte_wf h)
theorem clear_wf {m : Mem} (p : Nat → Bool) (h : m.wf = true) : (m.clear p).wf = true := by
  rw [mem_wf_iff] at *; exact ⟨tab_drop_wf p h.1, tab_drop_wf (fun w => p (4 * w)) h.2.1, tab_drop_wf (fun w => p (4 * w)) h.2.2⟩

theorem byte_setByte {m : Mem} {a : Nat} {b : Byte} (h : m.wf = true) (x : Nat) : (m.setByte a b).byte x = if x = a then b else m.byte x :=
  tab_get_put x (mem_wf_iff.mp h).1
@[simp] theorem byte_setFull (m : Mem) (a : Nat) (b : Bool) (x : Nat) : (m.setFull a b).byte x = m.byte x := rfl
@[simp] theorem poisoned_setFull (m : Mem) (a : Nat) (b : Bool) (x : Nat) : (m.setFull a b).poisoned x = m.poisoned x := rfl
theorem keptFull_setFull {m : Mem} {a : Nat} {b : Bool} (h : m.wf = true) (x : Nat) :
    (m.setFull a b).keptFull x = if x / 4 = a / 4 then b else m.keptFull x := tab_get_put _ (mem_wf_iff.mp h).2.1

@[simp] theorem write_full : ∀ (n : Nat) (m : Mem) (a v : Nat), (m.write a n v).full = m.full
  | 0, _, _, _ => rfl
  | n + 1, m, a, v => by simp only [Mem.write, write_full n]; rfl
@[simp] theorem write_poison : ∀ (n : Nat) (m : Mem) (a v : Nat), (m.write a n v).poison = m.poison
  | 0, _, _, _ => rfl
  | n + 1, m, a, v => by simp only [Mem.write, write_poison n]; rfl
@[simp] theorem write_keptFull (n : Nat) (m : Mem) (a v x : Nat) : (m.write a n v).keptFull x = m.keptFull x := by simp [Mem.keptFull]
@[simp] theorem write_poisoned (n : Nat) (m : Mem) (a v x : Nat) : (m.write a n v).poisoned x = m.poisoned x := by simp [Mem.poisoned]

/-- A write leaves every byte outside it alone. -/
theorem byte_write_other : ∀ {n : Nat} {m : Mem} {a v x : Nat}, m.wf = true → (x < a ∨ a + n ≤ x) → (m.write a n v).byte x = m.byte x
  | 0, _, _, _, _, _, _ => rfl
  | n + 1, m, a, v, x, h, hx => by
    simp only [Mem.write]
    rw [byte_write_other (setByte_wf h) (by omega), byte_setByte h, if_neg (by omega)]

/-- A byte of a value written. -/
theorem byte_write : ∀ {n : Nat} {m : Mem} {a v : Nat} (i : Nat), m.wf = true → i < n → (m.write a n v).byte (a + i) = BitVec.ofNat 8 (v / 256 ^ i)
  | n + 1, m, a, v, 0, h, _ => by
    simp only [Mem.write, Nat.add_zero]
    rw [byte_write_other (setByte_wf h) (by omega), byte_setByte h, if_pos rfl, Nat.pow_zero, Nat.div_one]
  | n + 1, m, a, v, i + 1, h, hi => by
    simp only [Mem.write]
    rw [show a + (i + 1) = a + 1 + i by omega, byte_write i (setByte_wf h) (by omega), Nat.div_div_eq_div_mul, Nat.pow_succ, Nat.mul_comm]

theorem read_congr : ∀ {n : Nat} {m m' : Mem} {a : Nat}, (∀ i, i < n → m'.byte (a + i) = m.byte (a + i)) → m'.read a n = m.read a n
  | 0, _, _, _, _ => rfl
  | n + 1, m, m', a, h => by
    have h0 := h 0 (by omega)
    have ih := read_congr (n := n) (m := m) (m' := m') (a := a + 1) fun i hi => by
      have := h (i + 1) (by omega)
      rwa [show a + (i + 1) = a + 1 + i by omega] at this
    simp only [Nat.add_zero] at h0
    simp only [Mem.read, h0, ih]

/-- A read of the bytes just written gives the value. -/
theorem read_write : ∀ {n : Nat} {m : Mem} {a v : Nat}, m.wf = true → (m.write a n v).read a n = v % 256 ^ n
  | 0, _, _, v, _ => by simp [Mem.read, Nat.mod_one]
  | n + 1, m, a, v, h => by
    have h0 : ((m.setByte a (BitVec.ofNat 8 v)).write (a + 1) n (v / 256)).byte a = BitVec.ofNat 8 v := by
      rw [byte_write_other (setByte_wf h) (by omega), byte_setByte h, if_pos rfl]
    simp only [Mem.write, Mem.read, h0, read_write (setByte_wf h), BitVec.toNat_ofNat]
    rw [show 256 ^ (n + 1) = 256 * 256 ^ n by rw [Nat.pow_succ, Nat.mul_comm], Nat.mod_mul]

theorem read_lt : ∀ (n : Nat) (m : Mem) (a : Nat), m.read a n < 256 ^ n
  | 0, _, _ => by simp [Mem.read]
  | n + 1, m, a => by
    have := read_lt n m (a + 1)
    have h2 := (m.byte a).isLt
    simp only [Mem.read]; rw [Nat.pow_succ]; omega

theorem storeMem_plain {m : Mem} {key n v : Nat} (h : (wordKeys key n).filter m.poisoned = []) : storeMem m key n v = m.write key n v := by
  simp [storeMem, h]

end Sys2Proof.Laws
end

