-- ==== Sys2Proof/Laws/Scalar.lean ====
section
/-! SUPPORT. What the shared operations of the scalar families do: reading and writing registers, the frame of R59, predicates. -/

namespace Sys2Proof.Laws
open Sys2Proof Sys2Proof.Machine Sys2Proof.Claims

theorem drop_same (w : LateWrite) (ws : List Window) : ∀ x ∈ dropLate w ws, ∀ y ∈ x.writes, w.same y = false := by
  intro x hx y hy
  simp only [dropLate, List.mem_filter, List.mem_map] at hx
  obtain ⟨⟨u, -, rfl⟩, -⟩ := hx
  simpa using (List.mem_filter.mp hy).2

theorem same_comm (x y : LateWrite) : x.same y = y.same x := by
  cases x <;> cases y <;> simp [LateWrite.same, Bool.beq_comm, eq_comm]

theorem wrote_writeReg {h : Side} {d : Reg} {v : Word} {c : Context} (hr : hasRoom h d c) :
    ∃ e, c.writeReg h 0 0 d v = .ok e ∧ Wrote h d v c e := by
  cases d with
  | a n =>
    refine ⟨_, rfl, ?_⟩
    simp only [Wrote, Context.preds, Context.writeLate, if_true, Context.write, Context.put, Context.cancel]
    refine ⟨by simp, fun m hm => ?_, trivial, trivial, by simp [SameRest], ?_⟩
    · simp [Fin.ext_iff] at hm ⊢; simp [Ne.symm hm]
    · intro w hw x hx
      rw [same_comm]
      simp only [List.mem_append] at hw
      rcases hw with (hw | hw) | hw <;> exact drop_same _ _ _ hw x hx
  | d n =>
    refine ⟨_, rfl, ?_⟩
    simp only [Wrote, Context.preds, Context.writeLate, if_true, Context.write, Context.put, Context.cancel]
    refine ⟨by simp, fun m hm => ?_, trivial, trivial, by simp [SameRest], ?_⟩
    · simp [Fin.ext_iff] at hm ⊢; simp [Ne.symm hm]
    · intro w hw x hx
      rw [same_comm]
      simp only [List.mem_append] at hw
      rcases hw with (hw | hw) | hw <;> exact drop_same _ _ _ hw x hx
  | zero => exact ⟨c, rfl, rfl⟩
  | lit w => exact ⟨c, rfl, rfl⟩
  | queue =>
    have := hr rfl
    cases h <;> simp_all [Context.writeReg, Context.push, Wrote, pushed]

theorem frame_ok {c c1 c2 c3 : Context} {h : Side} {g : Guard} {s1 s2 : Reg} {rd : Bool} {d : Reg} {f : Word → Word → Word → Word × FpFlags}
    {x y z : Word} (h1 : c.read h s1 = .ok (x, c1)) (h2 : c1.read h s2 = .ok (y, c2))
    (h3 : (if rd then c2.read h d else .ok (0#64, c2)) = .ok (z, c3)) (hg : c3.holds g = true) :
    c.frame h g s1 s2 rd d f = (c3.raise (f x y z).2).writeReg h 0 0 d (f x y z).1 := by
  simp [Context.frame, h1, h2, h3, hg]

theorem raise_none (c : Context) : c.raise {} = c := by
  cases c with
  | mk a e v q s =>
    cases s
    have : FpFlags.bits {} = 0#16 := by decide
    simp [Context.raise, Machine.raise, this]
theorem attempt_wrote {s : State} {h : Side} {d : Reg} {v : Word} {c : Context} {r : Attempt Context}
    (hr : hasRoom h d c) (he : r = c.writeReg h 0 0 d v) :
    ∃ t, (Host.Outcome.next (s.attempt r) : Result) = .next t ∧ OnlyContext s t ∧ t.me.note = .done ∧ Wrote h d v c t.me.ctx := by
  obtain ⟨e, h1, h2⟩ := wrote_writeReg (v := v) hr
  refine ⟨_, rfl, ?_⟩
  simp [he, h1, State.attempt, OnlyContext, State.done, h2]

theorem alu_ok {s : State} {h : Side} {g : Guard} {d s1 s2 : Reg} {f f' : Word → Word → Word} {x y : Word} {c1 c2 : Context}
    (h1 : s.me.ctx.read h s1 = .ok (x, c1)) (h2 : c1.read h s2 = .ok (y, c2)) (hg : c2.holds g = true) (hr : hasRoom h d c2)
    {r : Result} (he : r = .next (s.alu h g d s1 s2 f)) (hf : f x y = f' x y) :
    ∃ t, r = .next t ∧ OnlyContext s t ∧ t.me.note = .done ∧
      Wrote h d (f' x y) c2 t.me.ctx := by
  rw [he]
  refine attempt_wrote hr ?_
  rw [frame_ok h1 h2 rfl hg]
  simp [raise_none, hf]

theorem preds_bit (c : Context) (n : Nat) :
    c.preds.getLsbD n = if n < 8 then (c.acc.p ||| 1#8).getLsbD n else c.exe.p.getLsbD (n - 8) := by
  have := @BitVec.getLsbD_append 8 8 n c.exe.p (c.acc.p ||| 1#8)
  exact this.trans (by by_cases h : n < 8 <;> simp [h])

theorem pred_zero (c : Context) : c.pred 0#4 = true := by
  show c.preds.getLsbD 0 = true
  rw [preds_bit]; simp

theorem holds_always (c : Context) : c.holds ⟨false, 0#4⟩ = true := by
  simp [Context.holds, pred_zero]

theorem pred_access (c : Context) (n : BitVec 4) (h : n.toNat < 8) : c.pred n = (c.acc.p ||| 1#8).getLsbD n.toNat := by
  rw [Context.pred, preds_bit]; simp [h]
theorem pred_execute (c : Context) (n : BitVec 4) (h : ¬ n.toNat < 8) : c.pred n = c.exe.p.getLsbD (n.toNat - 8) := by
  rw [Context.pred, preds_bit]; simp [h]

theorem getLsbD_putBit {w : Nat} (a : BitVec w) (k : Nat) (b : Bool) (i : Nat) (hi : i < w) :
    (putBit a k b).getLsbD i = if i = k then b else a.getLsbD i := by
  cases b <;> by_cases h : i = k <;> simp [putBit, h, hi] <;> try omega
  
theorem wrotePred_write (c : Context) (p : BitVec 4) (b : Bool) : WrotePred p b c (c.write (.p p b)) := by
  have hp := p.isLt
  refine ⟨fun q => ?_, ?_, ?_, ?_⟩
  · have hq := q.isLt
    by_cases h0 : q = 0#4
    · simp [h0, pred_zero]
    · by_cases hz : p = 0#4
      · have : q ≠ p := by rw [hz]; exact h0
        simp only [h0, this, if_false]
        simp [Context.write, Context.put, Context.cancel, hz, Context.pred, Context.preds]
      · by_cases h8 : p.toNat < 8
        · simp only [Context.write, Context.put, hz, h8, if_false, if_true]
          by_cases hq8 : q.toNat < 8
          · rw [pred_access _ _ hq8, pred_access _ _ hq8]
            have : q.toNat ≠ 0 := fun e => h0 (BitVec.eq_of_toNat_eq (by simpa using e))
            simp only [BitVec.getLsbD_or, getLsbD_putBit _ _ _ _ hq8, Context.cancel, h0, if_false]
            by_cases e : q = p
            · subst e; simp [this]
            · have e' : q.toNat ≠ p.toNat := fun x => e (BitVec.eq_of_toNat_eq x)
              simp [e, e']
          · rw [pred_execute _ _ hq8, pred_execute _ _ hq8]
            have : q ≠ p := fun e => hq8 (e ▸ h8)
            simp [this, h0, Context.cancel]
        · simp only [Context.write, Context.put, hz, h8, if_false]
          by_cases hq8 : q.toNat < 8
          · rw [pred_access _ _ hq8, pred_access _ _ hq8]
            have : q ≠ p := fun e => h8 (e ▸ hq8)
            simp [this, h0, Context.cancel]
          · rw [pred_execute _ _ hq8, pred_execute _ _ hq8]
            simp only [getLsbD_putBit _ _ _ _ (show q.toNat - 8 < 8 by omega), Context.cancel, h0, if_false]
            by_cases e : q = p
            · subst e; simp
            · have e' : q.toNat - 8 ≠ p.toNat - 8 := fun x => e (BitVec.eq_of_toNat_eq (by omega))
              simp [e, e']
  all_goals
    simp only [Context.write, Context.put, Context.cancel, SameRest]
    split <;> (try split) <;> simp

theorem frameP_ok {s : State} {h : Side} {g : Guard} {s1 s2 : Reg} {p : BitVec 4} {f : Word → Word → Bool × FpFlags}
    {x y : Word} {c1 c2 : Context} (h1 : s.me.ctx.read h s1 = .ok (x, c1)) (h2 : c1.read h s2 = .ok (y, c2)) (hg : c2.holds g = true)
    {r : Result} (he : r = .next (s.attempt (s.me.ctx.frameP h g s1 s2 p f))) :
    ∃ t, r = .next t ∧ OnlyContext s t ∧ t.me.note = .done ∧ WrotePred p (f x y).1 (c2.raise (f x y).2) t.me.ctx := by
  refine ⟨_, he, ?_⟩
  simp [Context.frameP, h1, h2, hg, State.attempt, State.done, OnlyContext, wrotePred_write]

theorem falu_ok {s : State} {g : Guard} {w rd : Bool} {d s1 s2 : Reg} {F : Fmt → Rounding → Nat → Nat → Nat → Nat × FpFlags}
    {f : Fmt → Nat → Nat → Nat → Nat × FpFlags} {x y z : Word} {c1 c2 c3 : Context}
    (h1 : s.me.ctx.read .execute s1 = .ok (x, c1)) (h2 : c1.read .execute s2 = .ok (y, c2))
    (h3 : (if rd then c2.read .execute d else .ok (0#64, c2)) = .ok (z, c3)) (hg : c3.holds g = true) (hr : hasRoom .execute d c3)
    {r : Result} (he : r = .next (s.falu g w rd d s1 s2 F)) (hf : ∀ u a b c, F u (frm s.me.ctx.sys.status) a b c = f u a b c) :
    ∃ t, r = .next t ∧ OnlyContext s t ∧ t.me.note = .done ∧
      Wrote .execute d (BitVec.ofNat 64 (f (fmtOf w) (operandOf w x) (operandOf w y) (operandOf w z)).1)
        (flagged (f (fmtOf w) (operandOf w x) (operandOf w y) (operandOf w z)).2 c3) t.me.ctx := by
  rw [he]
  refine attempt_wrote (c := flagged _ c3) (by intro e; exact hr e) ?_
  rw [frame_ok h1 h2 h3 hg]
  simp only [fpResult, hf]
  rfl

theorem fcmp_ok {s : State} {g : Guard} {w quiet : Bool} {p : BitVec 4} {s1 s2 : Reg} {f : Fp → Fp → Bool} {x y : Word} {c1 c2 : Context}
    (h1 : s.me.ctx.read .execute s1 = .ok (x, c1)) (h2 : c1.read .execute s2 = .ok (y, c2)) (hg : c2.holds g = true)
    {r : Result} (he : r = .next (s.fcmp g w quiet p s1 s2 f)) :
    ∃ t, r = .next t ∧ OnlyContext s t ∧ t.me.note = .done ∧
      WrotePred p (f ((fmtOf w).decode (operandOf w x)) ((fmtOf w).decode (operandOf w y)))
        (flagged { nv := if quiet then ((fmtOf w).decode (operandOf w x)).isSNaN || ((fmtOf w).decode (operandOf w y)).isSNaN
          else ((fmtOf w).decode (operandOf w x)).isNaN || ((fmtOf w).decode (operandOf w y)).isNaN } c2) t.me.ctx :=
  frameP_ok h1 h2 hg he

theorem predWord_bit (h : Side) (c : Context) (n : Nat) (hn : n < 64) : (predWord h c).getLsbD n =
    (decide (n < 16) && ((n == 0) || (decide (n < 8) == (h == .access))) && c.pred (BitVec.ofNat 4 n)) := by
  have m1 : ∀ k : Fin 16, (0x00FF#16).getLsbD k.val = ((k.val == 0) || decide (k.val < 8)) := by decide
  have m2 : ∀ k : Fin 16, (0xFF01#16).getLsbD k.val = ((k.val == 0) || !decide (k.val < 8)) := by decide
  by_cases h16 : n < 16
  · have e : (BitVec.ofNat 4 n).toNat = n := by simp; omega
    have : c.pred (BitVec.ofNat 4 n) = c.preds.getLsbD n := by rw [Context.pred, e]
    rw [this]
    have a1 := m1 ⟨n, h16⟩
    have a2 := m2 ⟨n, h16⟩
    simp only at a1 a2
    cases h <;> simp only [predWord, BitVec.getLsbD_setWidth, BitVec.getLsbD_and, a1, a2, h16, hn] <;>
      cases decide (n < 8) <;> cases (n == 0) <;> cases c.preds.getLsbD n <;> rfl
  · have e : ∀ w : BitVec 16, (w.setWidth 64).getLsbD n = false := by
      intro w; rw [BitVec.getLsbD_setWidth, BitVec.getLsbD_of_ge w n (by omega)]; simp
    cases h <;> simp [predWord, e, h16]

theorem putPreds_fold (a b : Word) (l : List (BitVec 4)) (c : Context) :
    (∀ q : BitVec 4, (l.foldl (fun c n => if b.getLsbD n.toNat then c.write (.p n (a.getLsbD n.toNat)) else c) c).pred q =
      if q ≠ 0#4 ∧ q ∈ l ∧ b.getLsbD q.toNat = true then a.getLsbD q.toNat else c.pred q) ∧
    (l.foldl (fun c n => if b.getLsbD n.toNat then c.write (.p n (a.getLsbD n.toNat)) else c) c).acc.a = c.acc.a ∧
    (l.foldl (fun c n => if b.getLsbD n.toNat then c.write (.p n (a.getLsbD n.toNat)) else c) c).exe.d = c.exe.d ∧
    SameRest c (l.foldl (fun c n => if b.getLsbD n.toNat then c.write (.p n (a.getLsbD n.toNat)) else c) c) := by
  induction l generalizing c with
  | nil => simp [SameRest]
  | cons n l ih =>
    simp only [List.foldl_cons]
    obtain ⟨i1, i2, i3, i4⟩ := ih (if b.getLsbD n.toNat then c.write (.p n (a.getLsbD n.toNat)) else c)
    by_cases hb : b.getLsbD n.toNat = true
    · simp only [hb, if_true] at i1 i2 i3 i4 ⊢
      obtain ⟨w1, w2, w3, w4⟩ := wrotePred_write c n (a.getLsbD n.toNat)
      refine ⟨fun q => ?_, i2.trans w2, i3.trans w3, ?_⟩
      · rw [i1, w1]
        by_cases e : q = n
        · subst e
          by_cases z : q = 0#4
          · subst z; simp [pred_zero]
          · simp [z, hb]
        · by_cases z : q = 0#4
          · subst z; simp [pred_zero]
          · simp [z, e]
      · simp only [SameRest] at i4 w4 ⊢
        simp_all
    · simp only [hb] at i1 i2 i3 i4 ⊢
      refine ⟨fun q => ?_, i2, i3, i4⟩
      simp only [Bool.false_eq_true, if_false] at i1 ⊢
      rw [i1]
      by_cases e : q = n
      · subst e; simp [hb]
      · simp [e]

theorem ownPreds_mem (h : Side) (q : BitVec 4) (z : q ≠ 0#4) : q ∈ ownPreds h ↔ (q.toNat < 8 ↔ h = .access) := by
  revert q; cases h <;> decide

end Sys2Proof.Laws
end

