-- ==== Sys2Proof/Laws/Access.lean ====
section
/-! SUPPORT. What the parts of a scalar access change: timestamps, spans and recorders are the machine's own, memory and the other strands stay. -/

namespace Sys2Proof.Laws
open Sys2Proof Sys2Proof.Machine Sys2Proof.Claims

/-- Memory, the other strands and the strand in turn are as before, but for its timestamp, which has not fallen, and its count of hits. -/
structure Quiet (s t : State) : Prop where
  mem : t.mem = s.mem
  others : t.others = s.others
  outside : t.outsideWaits = s.outsideWaits
  link : t.host.linkDown = s.host.linkDown
  parts : t.parts = s.parts
  me : ∃ x h, t.me = { s.me with ts := x, hits := h } ∧ s.me.ts ≤ x

theorem Quiet.refl (s : State) : Quiet s s := ⟨rfl, rfl, rfl, rfl, rfl, s.me.ts, s.me.hits, rfl, Nat.le_refl _⟩
theorem Quiet.trans {s t u : State} (h : Quiet s t) (k : Quiet t u) : Quiet s u := by
  obtain ⟨h1, h2, h3, h4, h4', x, n, h5, h6⟩ := h
  obtain ⟨k1, k2, k3, k4, k4', y, m, k5, k6⟩ := k
  refine ⟨k1.trans h1, k2.trans h2, k3.trans h3, k4.trans h4, k4'.trans h4', y, m, ?_, ?_⟩
  · rw [k5, h5]
  · rw [h5] at k6; exact Nat.le_trans h6 k6
theorem quiet_foldl {α : Type} {f : State → α → State} (hf : ∀ s a, Quiet s (f s a)) : ∀ (l : List α) (s : State), Quiet s (l.foldl f s)
  | [], s => Quiet.refl s
  | a :: l, s => (hf s a).trans (quiet_foldl hf l (f s a))
theorem quiet_rfl {s t : State} (h : t.mem = s.mem ∧ t.others = s.others ∧ t.outsideWaits = s.outsideWaits ∧
    t.host.linkDown = s.host.linkDown ∧ t.parts = s.parts ∧ t.me = s.me) : Quiet s t :=
  ⟨h.1, h.2.1, h.2.2.1, h.2.2.2.1, h.2.2.2.2.1, s.me.ts, s.me.hits, h.2.2.2.2.2, Nat.le_refl _⟩

theorem quiet_sawStamp (s : State) (t : Nat) : Quiet s (s.sawStamp t) := quiet_rfl ⟨rfl, rfl, rfl, rfl, rfl, rfl⟩
theorem quiet_setStamp (s : State) (k : Nat) (x : Stamps) : Quiet s (s.setStamp k x) := quiet_rfl ⟨rfl, rfl, rfl, rfl, rfl, rfl⟩
theorem quiet_modifyCore (s : State) (c : Nat) (f : CoreState → CoreState) : Quiet s (s.modifyCore c f) := quiet_rfl ⟨rfl, rfl, rfl, rfl, rfl, rfl⟩
theorem quiet_raiseTs (s : State) (t : Nat) : Quiet s (s.raiseTs t) :=
  ⟨rfl, rfl, rfl, rfl, rfl, _, s.me.hits, rfl, Nat.le_max_left _ _⟩
theorem quiet_hits (s : State) (n : Nat) : Quiet s { s with me := { s.me with hits := n } } :=
  ⟨rfl, rfl, rfl, rfl, rfl, s.me.ts, n, rfl, Nat.le_refl _⟩
theorem quiet_leaveSlice (s : State) (a b : Nat) : Quiet s (s.leaveSlice a b) := quiet_rfl ⟨rfl, rfl, rfl, rfl, rfl, rfl⟩
theorem quiet_enterSlice (s : State) (a b : Nat) : Quiet s (s.enterSlice a b) := by
  unfold State.enterSlice
  dsimp only
  split
  · exact Quiet.refl s
  · exact quiet_foldl (fun _ _ => quiet_setStamp ..) _ _
theorem quiet_leaveSlices (slice : Nat) (l : List L2Line) (s : State) : Quiet s (l.foldl (fun s x => s.leaveSlice slice x.line) s) :=
  quiet_foldl (fun _ _ => quiet_leaveSlice ..) l s
theorem quiet_setL2 (s : State) (x : Tab (List L2Line)) : Quiet s { s with l2 := x } := quiet_rfl ⟨rfl, rfl, rfl, rfl, rfl, rfl⟩
theorem quiet_touchUnder (s : State) (m : BitVec 16) (key : Nat) : Quiet s (s.touchUnder m key) := by
  unfold State.touchUnder
  split
  · dsimp only
    split
    · exact quiet_rfl ⟨rfl, rfl, rfl, rfl, rfl, rfl⟩
    · exact (quiet_leaveSlices ..).trans ((quiet_setL2 ..).trans (quiet_enterSlice ..))
  · exact Quiet.refl s
theorem quiet_touchLine (s : State) (key : Nat) : Quiet s (s.touchLine key) := quiet_touchUnder ..
theorem quiet_countHit (s : State) (b : Bool) : Quiet s (s.countHit b) := by
  unfold State.countHit
  split
  · exact quiet_hits ..
  · split
    · exact (quiet_hits s 0).trans (quiet_raiseTs ..)
    · exact quiet_hits ..
theorem quiet_noteHit (s : State) (k n : Nat) : Quiet s (s.noteHit k n) := by
  unfold State.noteHit
  dsimp only
  split
  · exact Quiet.refl s
  · split
    · exact Quiet.refl s
    · exact quiet_modifyCore ..
theorem quiet_depart (s : State) (c : Nat) (f : Recorder → Recorder) : Quiet s (s.depart c f) := by
  unfold State.depart State.modifyRecorder; exact quiet_modifyCore _ _ _
theorem quiet_noteMiss (s : State) (k n : Nat) (ws : List Nat) : Quiet s (s.noteMiss k n ws) := by
  unfold State.noteMiss
  dsimp only
  repeat' split
  all_goals first | exact Quiet.refl s | exact quiet_depart .. | exact quiet_foldl (fun _ _ => quiet_modifyCore ..) _ _
theorem quiet_evictPushed (s : State) (c : Nat) (f : Span → Bool) : Quiet s (s.evictPushed c f) := by
  unfold State.evictPushed
  refine quiet_foldl (fun s _ => ?_) _ s
  split
  · exact quiet_depart ..
  · exact Quiet.refl s
theorem quiet_stampRead (s : State) (key n : Nat) (p : Bool) : Quiet s (s.stampRead key n p) := by
  unfold State.stampRead
  dsimp only
  split
  · exact (quiet_touchLine s key).trans ((quiet_raiseTs ..).trans (quiet_modifyCore ..))
  · exact (quiet_touchLine s key).trans ((quiet_raiseTs ..).trans (quiet_foldl (fun _ _ => quiet_setStamp ..) _ _))
theorem quiet_stampWrite (s : State) (key n : Nat) : Quiet s (s.stampWrite key n).1 :=
  (quiet_foldl (fun _ _ => quiet_setStamp ..) _ s).trans (quiet_raiseTs ..)
theorem quiet_updateSpan (s : State) (c key n w : Nat) (p : Bool) : Quiet s (s.updateSpan c key n w p) := quiet_modifyCore ..

theorem quiet_foldl_fst {α β : Type} {f : State × β → α → State × β} (hf : ∀ s a, Quiet s.1 (f s a).1) :
    ∀ (l : List α) (s : State × β), Quiet s.1 (l.foldl f s).1
  | [], s => Quiet.refl s.1
  | a :: l, s => (hf s a).trans (quiet_foldl_fst hf l (f s a))

end Sys2Proof.Laws
end

