-- ==== Sys2Proof/Laws/State.lean ====
section
/-! SUPPORT. What each update of State leaves alone and what it sets, one small lemma for each field and update. -/

namespace Sys2Proof.Laws
open Sys2Proof Sys2Proof.Machine

/-! `setMe` changes the strand in turn only. -/

@[simp] theorem setMe_others (s : State) (m : Strand) : (s.setMe m).others = s.others := rfl
@[simp] theorem setMe_mem (s : State) (m : Strand) : (s.setMe m).mem = s.mem := rfl
@[simp] theorem setMe_stamps (s : State) (m : Strand) : (s.setMe m).stamps = s.stamps := rfl
@[simp] theorem setMe_floors (s : State) (m : Strand) : (s.setMe m).floors = s.floors := rfl
@[simp] theorem setMe_marks (s : State) (m : Strand) : (s.setMe m).marks = s.marks := rfl
@[simp] theorem setMe_l2 (s : State) (m : Strand) : (s.setMe m).l2 = s.l2 := rfl
@[simp] theorem setMe_fillMask (s : State) (m : Strand) : (s.setMe m).fillMask = s.fillMask := rfl
@[simp] theorem setMe_clusterTlb (s : State) (m : Strand) : (s.setMe m).clusterTlb = s.clusterTlb := rfl
@[simp] theorem setMe_hostCache (s : State) (m : Strand) : (s.setMe m).hostCache = s.hostCache := rfl
@[simp] theorem setMe_host (s : State) (m : Strand) : (s.setMe m).host = s.host := rfl
@[simp] theorem setMe_pushes (s : State) (m : Strand) : (s.setMe m).pushes = s.pushes := rfl
@[simp] theorem setMe_latest (s : State) (m : Strand) : (s.setMe m).latest = s.latest := rfl
@[simp] theorem setMe_remoteOps (s : State) (m : Strand) : (s.setMe m).remoteOps = s.remoteOps := rfl
@[simp] theorem setMe_outsideWaits (s : State) (m : Strand) : (s.setMe m).outsideWaits = s.outsideWaits := rfl
@[simp] theorem setMe_outsideOffers (s : State) (m : Strand) : (s.setMe m).outsideOffers = s.outsideOffers := rfl
@[simp] theorem setMe_writers (s : State) (m : Strand) : (s.setMe m).writers = s.writers := rfl
@[simp] theorem setMe_cores (s : State) (m : Strand) : (s.setMe m).cores = s.cores := rfl
@[simp] theorem setMe_shorts (s : State) (m : Strand) : (s.setMe m).shorts = s.shorts := rfl
@[simp] theorem setMe_resuming (s : State) (m : Strand) : (s.setMe m).resuming = s.resuming := rfl
@[simp] theorem setMe_segments (s : State) (m : Strand) : (s.setMe m).segments = s.segments := rfl
@[simp] theorem setMe_matrix (s : State) (m : Strand) : (s.setMe m).matrix = s.matrix := rfl
@[simp] theorem setMe_copies (s : State) (m : Strand) : (s.setMe m).copies = s.copies := rfl
@[simp] theorem setMe_counters (s : State) (m : Strand) : (s.setMe m).counters = s.counters := rfl
@[simp] theorem setMe_arrivals (s : State) (m : Strand) : (s.setMe m).arrivals = s.arrivals := rfl
@[simp] theorem setMe_routers (s : State) (m : Strand) : (s.setMe m).routers = s.routers := rfl
@[simp] theorem setMe_routeSeqs (s : State) (m : Strand) : (s.setMe m).routeSeqs = s.routeSeqs := rfl
@[simp] theorem setMe_routeHomes (s : State) (m : Strand) : (s.setMe m).routeHomes = s.routeHomes := rfl
@[simp] theorem setMe_masters (s : State) (m : Strand) : (s.setMe m).masters = s.masters := rfl
@[simp] theorem setMe_collSeqs (s : State) (m : Strand) : (s.setMe m).collSeqs = s.collSeqs := rfl
@[simp] theorem setMe_coords (s : State) (m : Strand) : (s.setMe m).coords = s.coords := rfl
@[simp] theorem setMe_sessions (s : State) (m : Strand) : (s.setMe m).sessions = s.sessions := rfl
@[simp] theorem setMe_portAddrs (s : State) (m : Strand) : (s.setMe m).portAddrs = s.portAddrs := rfl
@[simp] theorem setMe_laneCounts (s : State) (m : Strand) : (s.setMe m).laneCounts = s.laneCounts := rfl
@[simp] theorem setMe_remTimeout (s : State) (m : Strand) : (s.setMe m).remTimeout = s.remTimeout := rfl
@[simp] theorem setMe_remDeny (s : State) (m : Strand) : (s.setMe m).remDeny = s.remDeny := rfl
@[simp] theorem setMe_gens (s : State) (m : Strand) : (s.setMe m).gens = s.gens := rfl
@[simp] theorem setMe_anchors (s : State) (m : Strand) : (s.setMe m).anchors = s.anchors := rfl
@[simp] theorem setMe_savedTiles (s : State) (m : Strand) : (s.setMe m).savedTiles = s.savedTiles := rfl
@[simp] theorem setMe_queues (s : State) (m : Strand) : (s.setMe m).queues = s.queues := rfl
@[simp] theorem setMe_wayMasks (s : State) (m : Strand) : (s.setMe m).wayMasks = s.wayMasks := rfl
@[simp] theorem setMe_hdmBase (s : State) (m : Strand) : (s.setMe m).hdmBase = s.hdmBase := rfl
@[simp] theorem setMe_always (s : State) (m : Strand) : (s.setMe m).always = s.always := rfl
@[simp] theorem setMe_gated (s : State) (m : Strand) : (s.setMe m).gated = s.gated := rfl
@[simp] theorem setMe_ports (s : State) (m : Strand) : (s.setMe m).ports = s.ports := rfl
@[simp] theorem setMe_tickSource (s : State) (m : Strand) : (s.setMe m).tickSource = s.tickSource := rfl
@[simp] theorem setMe_lastTickFlit (s : State) (m : Strand) : (s.setMe m).lastTickFlit = s.lastTickFlit := rfl
@[simp] theorem setMe_hostAnswer (s : State) (m : Strand) : (s.setMe m).hostAnswer = s.hostAnswer := rfl
@[simp] theorem setMe_parts (s : State) (m : Strand) : (s.setMe m).parts = s.parts := rfl
@[simp] theorem setMe_launches (s : State) (m : Strand) : (s.setMe m).launches = s.launches := rfl
@[simp] theorem setMe_revoked (s : State) (m : Strand) : (s.setMe m).revoked = s.revoked := rfl
@[simp] theorem setMe_sags (s : State) (m : Strand) : (s.setMe m).sags = s.sags := rfl
@[simp] theorem setMe_tick (s : State) (m : Strand) : (s.setMe m).tick = s.tick := rfl
@[simp] theorem setMe_mesh (s : State) (m : Strand) : (s.setMe m).mesh = s.mesh := rfl
@[simp] theorem setMe_rw (s : State) (m : Strand) : (s.setMe m).rw = s.rw := rfl
@[simp] theorem setMe_fences (s : State) (m : Strand) : (s.setMe m).fences = s.fences := rfl
@[simp] theorem setMe_pkg (s : State) (m : Strand) : (s.setMe m).pkg = s.pkg := rfl
@[simp] theorem setMe_routes (s : State) (m : Strand) : (s.setMe m).routes = s.routes := rfl
@[simp] theorem setMe_pending (s : State) (m : Strand) : (s.setMe m).pending = s.pending := rfl
@[simp] theorem setMe_turns (s : State) (m : Strand) : (s.setMe m).turns = s.turns := rfl
@[simp] theorem setMe_burst (s : State) (m : Strand) : (s.setMe m).burst = s.burst := rfl
@[simp] theorem setMe_ahead (s : State) (m : Strand) : (s.setMe m).ahead = s.ahead := rfl
@[simp] theorem setMe_free (s : State) (m : Strand) : (s.setMe m).free = s.free := rfl
@[simp] theorem setMe_clock (s : State) (m : Strand) : (s.setMe m).clock = s.clock := rfl

/-! `setCtx` changes the strand in turn only. -/

@[simp] theorem setCtx_others (s : State) (c : Context) : (s.setCtx c).others = s.others := rfl
@[simp] theorem setCtx_mem (s : State) (c : Context) : (s.setCtx c).mem = s.mem := rfl
@[simp] theorem setCtx_stamps (s : State) (c : Context) : (s.setCtx c).stamps = s.stamps := rfl
@[simp] theorem setCtx_floors (s : State) (c : Context) : (s.setCtx c).floors = s.floors := rfl
@[simp] theorem setCtx_marks (s : State) (c : Context) : (s.setCtx c).marks = s.marks := rfl
@[simp] theorem setCtx_l2 (s : State) (c : Context) : (s.setCtx c).l2 = s.l2 := rfl
@[simp] theorem setCtx_fillMask (s : State) (c : Context) : (s.setCtx c).fillMask = s.fillMask := rfl
@[simp] theorem setCtx_clusterTlb (s : State) (c : Context) : (s.setCtx c).clusterTlb = s.clusterTlb := rfl
@[simp] theorem setCtx_hostCache (s : State) (c : Context) : (s.setCtx c).hostCache = s.hostCache := rfl
@[simp] theorem setCtx_host (s : State) (c : Context) : (s.setCtx c).host = s.host := rfl
@[simp] theorem setCtx_pushes (s : State) (c : Context) : (s.setCtx c).pushes = s.pushes := rfl
@[simp] theorem setCtx_latest (s : State) (c : Context) : (s.setCtx c).latest = s.latest := rfl
@[simp] theorem setCtx_remoteOps (s : State) (c : Context) : (s.setCtx c).remoteOps = s.remoteOps := rfl
@[simp] theorem setCtx_outsideWaits (s : State) (c : Context) : (s.setCtx c).outsideWaits = s.outsideWaits := rfl
@[simp] theorem setCtx_outsideOffers (s : State) (c : Context) : (s.setCtx c).outsideOffers = s.outsideOffers := rfl
@[simp] theorem setCtx_writers (s : State) (c : Context) : (s.setCtx c).writers = s.writers := rfl
@[simp] theorem setCtx_cores (s : State) (c : Context) : (s.setCtx c).cores = s.cores := rfl
@[simp] theorem setCtx_shorts (s : State) (c : Context) : (s.setCtx c).shorts = s.shorts := rfl
@[simp] theorem setCtx_resuming (s : State) (c : Context) : (s.setCtx c).resuming = s.resuming := rfl
@[simp] theorem setCtx_segments (s : State) (c : Context) : (s.setCtx c).segments = s.segments := rfl
@[simp] theorem setCtx_matrix (s : State) (c : Context) : (s.setCtx c).matrix = s.matrix := rfl
@[simp] theorem setCtx_copies (s : State) (c : Context) : (s.setCtx c).copies = s.copies := rfl
@[simp] theorem setCtx_counters (s : State) (c : Context) : (s.setCtx c).counters = s.counters := rfl
@[simp] theorem setCtx_arrivals (s : State) (c : Context) : (s.setCtx c).arrivals = s.arrivals := rfl
@[simp] theorem setCtx_routers (s : State) (c : Context) : (s.setCtx c).routers = s.routers := rfl
@[simp] theorem setCtx_routeSeqs (s : State) (c : Context) : (s.setCtx c).routeSeqs = s.routeSeqs := rfl
@[simp] theorem setCtx_routeHomes (s : State) (c : Context) : (s.setCtx c).routeHomes = s.routeHomes := rfl
@[simp] theorem setCtx_masters (s : State) (c : Context) : (s.setCtx c).masters = s.masters := rfl
@[simp] theorem setCtx_collSeqs (s : State) (c : Context) : (s.setCtx c).collSeqs = s.collSeqs := rfl
@[simp] theorem setCtx_coords (s : State) (c : Context) : (s.setCtx c).coords = s.coords := rfl
@[simp] theorem setCtx_sessions (s : State) (c : Context) : (s.setCtx c).sessions = s.sessions := rfl
@[simp] theorem setCtx_portAddrs (s : State) (c : Context) : (s.setCtx c).portAddrs = s.portAddrs := rfl
@[simp] theorem setCtx_laneCounts (s : State) (c : Context) : (s.setCtx c).laneCounts = s.laneCounts := rfl
@[simp] theorem setCtx_remTimeout (s : State) (c : Context) : (s.setCtx c).remTimeout = s.remTimeout := rfl
@[simp] theorem setCtx_remDeny (s : State) (c : Context) : (s.setCtx c).remDeny = s.remDeny := rfl
@[simp] theorem setCtx_gens (s : State) (c : Context) : (s.setCtx c).gens = s.gens := rfl
@[simp] theorem setCtx_anchors (s : State) (c : Context) : (s.setCtx c).anchors = s.anchors := rfl
@[simp] theorem setCtx_savedTiles (s : State) (c : Context) : (s.setCtx c).savedTiles = s.savedTiles := rfl
@[simp] theorem setCtx_queues (s : State) (c : Context) : (s.setCtx c).queues = s.queues := rfl
@[simp] theorem setCtx_wayMasks (s : State) (c : Context) : (s.setCtx c).wayMasks = s.wayMasks := rfl
@[simp] theorem setCtx_hdmBase (s : State) (c : Context) : (s.setCtx c).hdmBase = s.hdmBase := rfl
@[simp] theorem setCtx_always (s : State) (c : Context) : (s.setCtx c).always = s.always := rfl
@[simp] theorem setCtx_gated (s : State) (c : Context) : (s.setCtx c).gated = s.gated := rfl
@[simp] theorem setCtx_ports (s : State) (c : Context) : (s.setCtx c).ports = s.ports := rfl
@[simp] theorem setCtx_tickSource (s : State) (c : Context) : (s.setCtx c).tickSource = s.tickSource := rfl
@[simp] theorem setCtx_lastTickFlit (s : State) (c : Context) : (s.setCtx c).lastTickFlit = s.lastTickFlit := rfl
@[simp] theorem setCtx_hostAnswer (s : State) (c : Context) : (s.setCtx c).hostAnswer = s.hostAnswer := rfl
@[simp] theorem setCtx_parts (s : State) (c : Context) : (s.setCtx c).parts = s.parts := rfl
@[simp] theorem setCtx_launches (s : State) (c : Context) : (s.setCtx c).launches = s.launches := rfl
@[simp] theorem setCtx_revoked (s : State) (c : Context) : (s.setCtx c).revoked = s.revoked := rfl
@[simp] theorem setCtx_sags (s : State) (c : Context) : (s.setCtx c).sags = s.sags := rfl
@[simp] theorem setCtx_tick (s : State) (c : Context) : (s.setCtx c).tick = s.tick := rfl
@[simp] theorem setCtx_mesh (s : State) (c : Context) : (s.setCtx c).mesh = s.mesh := rfl
@[simp] theorem setCtx_rw (s : State) (c : Context) : (s.setCtx c).rw = s.rw := rfl
@[simp] theorem setCtx_fences (s : State) (c : Context) : (s.setCtx c).fences = s.fences := rfl
@[simp] theorem setCtx_pkg (s : State) (c : Context) : (s.setCtx c).pkg = s.pkg := rfl
@[simp] theorem setCtx_routes (s : State) (c : Context) : (s.setCtx c).routes = s.routes := rfl
@[simp] theorem setCtx_pending (s : State) (c : Context) : (s.setCtx c).pending = s.pending := rfl
@[simp] theorem setCtx_turns (s : State) (c : Context) : (s.setCtx c).turns = s.turns := rfl
@[simp] theorem setCtx_burst (s : State) (c : Context) : (s.setCtx c).burst = s.burst := rfl
@[simp] theorem setCtx_ahead (s : State) (c : Context) : (s.setCtx c).ahead = s.ahead := rfl
@[simp] theorem setCtx_free (s : State) (c : Context) : (s.setCtx c).free = s.free := rfl
@[simp] theorem setCtx_clock (s : State) (c : Context) : (s.setCtx c).clock = s.clock := rfl

/-! `done` changes the strand in turn only. -/

@[simp] theorem done_others (s : State) (c : Context) : (s.done c).others = s.others := rfl
@[simp] theorem done_mem (s : State) (c : Context) : (s.done c).mem = s.mem := rfl
@[simp] theorem done_stamps (s : State) (c : Context) : (s.done c).stamps = s.stamps := rfl
@[simp] theorem done_floors (s : State) (c : Context) : (s.done c).floors = s.floors := rfl
@[simp] theorem done_marks (s : State) (c : Context) : (s.done c).marks = s.marks := rfl
@[simp] theorem done_l2 (s : State) (c : Context) : (s.done c).l2 = s.l2 := rfl
@[simp] theorem done_fillMask (s : State) (c : Context) : (s.done c).fillMask = s.fillMask := rfl
@[simp] theorem done_clusterTlb (s : State) (c : Context) : (s.done c).clusterTlb = s.clusterTlb := rfl
@[simp] theorem done_hostCache (s : State) (c : Context) : (s.done c).hostCache = s.hostCache := rfl
@[simp] theorem done_host (s : State) (c : Context) : (s.done c).host = s.host := rfl
@[simp] theorem done_pushes (s : State) (c : Context) : (s.done c).pushes = s.pushes := rfl
@[simp] theorem done_latest (s : State) (c : Context) : (s.done c).latest = s.latest := rfl
@[simp] theorem done_remoteOps (s : State) (c : Context) : (s.done c).remoteOps = s.remoteOps := rfl
@[simp] theorem done_outsideWaits (s : State) (c : Context) : (s.done c).outsideWaits = s.outsideWaits := rfl
@[simp] theorem done_outsideOffers (s : State) (c : Context) : (s.done c).outsideOffers = s.outsideOffers := rfl
@[simp] theorem done_writers (s : State) (c : Context) : (s.done c).writers = s.writers := rfl
@[simp] theorem done_cores (s : State) (c : Context) : (s.done c).cores = s.cores := rfl
@[simp] theorem done_shorts (s : State) (c : Context) : (s.done c).shorts = s.shorts := rfl
@[simp] theorem done_resuming (s : State) (c : Context) : (s.done c).resuming = s.resuming := rfl
@[simp] theorem done_segments (s : State) (c : Context) : (s.done c).segments = s.segments := rfl
@[simp] theorem done_matrix (s : State) (c : Context) : (s.done c).matrix = s.matrix := rfl
@[simp] theorem done_copies (s : State) (c : Context) : (s.done c).copies = s.copies := rfl
@[simp] theorem done_counters (s : State) (c : Context) : (s.done c).counters = s.counters := rfl
@[simp] theorem done_arrivals (s : State) (c : Context) : (s.done c).arrivals = s.arrivals := rfl
@[simp] theorem done_routers (s : State) (c : Context) : (s.done c).routers = s.routers := rfl
@[simp] theorem done_routeSeqs (s : State) (c : Context) : (s.done c).routeSeqs = s.routeSeqs := rfl
@[simp] theorem done_routeHomes (s : State) (c : Context) : (s.done c).routeHomes = s.routeHomes := rfl
@[simp] theorem done_masters (s : State) (c : Context) : (s.done c).masters = s.masters := rfl
@[simp] theorem done_collSeqs (s : State) (c : Context) : (s.done c).collSeqs = s.collSeqs := rfl
@[simp] theorem done_coords (s : State) (c : Context) : (s.done c).coords = s.coords := rfl
@[simp] theorem done_sessions (s : State) (c : Context) : (s.done c).sessions = s.sessions := rfl
@[simp] theorem done_portAddrs (s : State) (c : Context) : (s.done c).portAddrs = s.portAddrs := rfl
@[simp] theorem done_laneCounts (s : State) (c : Context) : (s.done c).laneCounts = s.laneCounts := rfl
@[simp] theorem done_remTimeout (s : State) (c : Context) : (s.done c).remTimeout = s.remTimeout := rfl
@[simp] theorem done_remDeny (s : State) (c : Context) : (s.done c).remDeny = s.remDeny := rfl
@[simp] theorem done_gens (s : State) (c : Context) : (s.done c).gens = s.gens := rfl
@[simp] theorem done_anchors (s : State) (c : Context) : (s.done c).anchors = s.anchors := rfl
@[simp] theorem done_savedTiles (s : State) (c : Context) : (s.done c).savedTiles = s.savedTiles := rfl
@[simp] theorem done_queues (s : State) (c : Context) : (s.done c).queues = s.queues := rfl
@[simp] theorem done_wayMasks (s : State) (c : Context) : (s.done c).wayMasks = s.wayMasks := rfl
@[simp] theorem done_hdmBase (s : State) (c : Context) : (s.done c).hdmBase = s.hdmBase := rfl
@[simp] theorem done_always (s : State) (c : Context) : (s.done c).always = s.always := rfl
@[simp] theorem done_gated (s : State) (c : Context) : (s.done c).gated = s.gated := rfl
@[simp] theorem done_ports (s : State) (c : Context) : (s.done c).ports = s.ports := rfl
@[simp] theorem done_tickSource (s : State) (c : Context) : (s.done c).tickSource = s.tickSource := rfl
@[simp] theorem done_lastTickFlit (s : State) (c : Context) : (s.done c).lastTickFlit = s.lastTickFlit := rfl
@[simp] theorem done_hostAnswer (s : State) (c : Context) : (s.done c).hostAnswer = s.hostAnswer := rfl
@[simp] theorem done_parts (s : State) (c : Context) : (s.done c).parts = s.parts := rfl
@[simp] theorem done_launches (s : State) (c : Context) : (s.done c).launches = s.launches := rfl
@[simp] theorem done_revoked (s : State) (c : Context) : (s.done c).revoked = s.revoked := rfl
@[simp] theorem done_sags (s : State) (c : Context) : (s.done c).sags = s.sags := rfl
@[simp] theorem done_tick (s : State) (c : Context) : (s.done c).tick = s.tick := rfl
@[simp] theorem done_mesh (s : State) (c : Context) : (s.done c).mesh = s.mesh := rfl
@[simp] theorem done_rw (s : State) (c : Context) : (s.done c).rw = s.rw := rfl
@[simp] theorem done_fences (s : State) (c : Context) : (s.done c).fences = s.fences := rfl
@[simp] theorem done_pkg (s : State) (c : Context) : (s.done c).pkg = s.pkg := rfl
@[simp] theorem done_routes (s : State) (c : Context) : (s.done c).routes = s.routes := rfl
@[simp] theorem done_pending (s : State) (c : Context) : (s.done c).pending = s.pending := rfl
@[simp] theorem done_turns (s : State) (c : Context) : (s.done c).turns = s.turns := rfl
@[simp] theorem done_burst (s : State) (c : Context) : (s.done c).burst = s.burst := rfl
@[simp] theorem done_ahead (s : State) (c : Context) : (s.done c).ahead = s.ahead := rfl
@[simp] theorem done_free (s : State) (c : Context) : (s.done c).free = s.free := rfl
@[simp] theorem done_clock (s : State) (c : Context) : (s.done c).clock = s.clock := rfl

/-! `setNote` changes the strand in turn only. -/

@[simp] theorem setNote_others (s : State) (n : Note) : (s.setNote n).others = s.others := rfl
@[simp] theorem setNote_mem (s : State) (n : Note) : (s.setNote n).mem = s.mem := rfl
@[simp] theorem setNote_stamps (s : State) (n : Note) : (s.setNote n).stamps = s.stamps := rfl
@[simp] theorem setNote_floors (s : State) (n : Note) : (s.setNote n).floors = s.floors := rfl
@[simp] theorem setNote_marks (s : State) (n : Note) : (s.setNote n).marks = s.marks := rfl
@[simp] theorem setNote_l2 (s : State) (n : Note) : (s.setNote n).l2 = s.l2 := rfl
@[simp] theorem setNote_fillMask (s : State) (n : Note) : (s.setNote n).fillMask = s.fillMask := rfl
@[simp] theorem setNote_clusterTlb (s : State) (n : Note) : (s.setNote n).clusterTlb = s.clusterTlb := rfl
@[simp] theorem setNote_hostCache (s : State) (n : Note) : (s.setNote n).hostCache = s.hostCache := rfl
@[simp] theorem setNote_host (s : State) (n : Note) : (s.setNote n).host = s.host := rfl
@[simp] theorem setNote_pushes (s : State) (n : Note) : (s.setNote n).pushes = s.pushes := rfl
@[simp] theorem setNote_latest (s : State) (n : Note) : (s.setNote n).latest = s.latest := rfl
@[simp] theorem setNote_remoteOps (s : State) (n : Note) : (s.setNote n).remoteOps = s.remoteOps := rfl
@[simp] theorem setNote_outsideWaits (s : State) (n : Note) : (s.setNote n).outsideWaits = s.outsideWaits := rfl
@[simp] theorem setNote_outsideOffers (s : State) (n : Note) : (s.setNote n).outsideOffers = s.outsideOffers := rfl
@[simp] theorem setNote_writers (s : State) (n : Note) : (s.setNote n).writers = s.writers := rfl
@[simp] theorem setNote_cores (s : State) (n : Note) : (s.setNote n).cores = s.cores := rfl
@[simp] theorem setNote_shorts (s : State) (n : Note) : (s.setNote n).shorts = s.shorts := rfl
@[simp] theorem setNote_resuming (s : State) (n : Note) : (s.setNote n).resuming = s.resuming := rfl
@[simp] theorem setNote_segments (s : State) (n : Note) : (s.setNote n).segments = s.segments := rfl
@[simp] theorem setNote_matrix (s : State) (n : Note) : (s.setNote n).matrix = s.matrix := rfl
@[simp] theorem setNote_copies (s : State) (n : Note) : (s.setNote n).copies = s.copies := rfl
@[simp] theorem setNote_counters (s : State) (n : Note) : (s.setNote n).counters = s.counters := rfl
@[simp] theorem setNote_arrivals (s : State) (n : Note) : (s.setNote n).arrivals = s.arrivals := rfl
@[simp] theorem setNote_routers (s : State) (n : Note) : (s.setNote n).routers = s.routers := rfl
@[simp] theorem setNote_routeSeqs (s : State) (n : Note) : (s.setNote n).routeSeqs = s.routeSeqs := rfl
@[simp] theorem setNote_routeHomes (s : State) (n : Note) : (s.setNote n).routeHomes = s.routeHomes := rfl
@[simp] theorem setNote_masters (s : State) (n : Note) : (s.setNote n).masters = s.masters := rfl
@[simp] theorem setNote_collSeqs (s : State) (n : Note) : (s.setNote n).collSeqs = s.collSeqs := rfl
@[simp] theorem setNote_coords (s : State) (n : Note) : (s.setNote n).coords = s.coords := rfl
@[simp] theorem setNote_sessions (s : State) (n : Note) : (s.setNote n).sessions = s.sessions := rfl
@[simp] theorem setNote_portAddrs (s : State) (n : Note) : (s.setNote n).portAddrs = s.portAddrs := rfl
@[simp] theorem setNote_laneCounts (s : State) (n : Note) : (s.setNote n).laneCounts = s.laneCounts := rfl
@[simp] theorem setNote_remTimeout (s : State) (n : Note) : (s.setNote n).remTimeout = s.remTimeout := rfl
@[simp] theorem setNote_remDeny (s : State) (n : Note) : (s.setNote n).remDeny = s.remDeny := rfl
@[simp] theorem setNote_gens (s : State) (n : Note) : (s.setNote n).gens = s.gens := rfl
@[simp] theorem setNote_anchors (s : State) (n : Note) : (s.setNote n).anchors = s.anchors := rfl
@[simp] theorem setNote_savedTiles (s : State) (n : Note) : (s.setNote n).savedTiles = s.savedTiles := rfl
@[simp] theorem setNote_queues (s : State) (n : Note) : (s.setNote n).queues = s.queues := rfl
@[simp] theorem setNote_wayMasks (s : State) (n : Note) : (s.setNote n).wayMasks = s.wayMasks := rfl
@[simp] theorem setNote_hdmBase (s : State) (n : Note) : (s.setNote n).hdmBase = s.hdmBase := rfl
@[simp] theorem setNote_always (s : State) (n : Note) : (s.setNote n).always = s.always := rfl
@[simp] theorem setNote_gated (s : State) (n : Note) : (s.setNote n).gated = s.gated := rfl
@[simp] theorem setNote_ports (s : State) (n : Note) : (s.setNote n).ports = s.ports := rfl
@[simp] theorem setNote_tickSource (s : State) (n : Note) : (s.setNote n).tickSource = s.tickSource := rfl
@[simp] theorem setNote_lastTickFlit (s : State) (n : Note) : (s.setNote n).lastTickFlit = s.lastTickFlit := rfl
@[simp] theorem setNote_hostAnswer (s : State) (n : Note) : (s.setNote n).hostAnswer = s.hostAnswer := rfl
@[simp] theorem setNote_parts (s : State) (n : Note) : (s.setNote n).parts = s.parts := rfl
@[simp] theorem setNote_launches (s : State) (n : Note) : (s.setNote n).launches = s.launches := rfl
@[simp] theorem setNote_revoked (s : State) (n : Note) : (s.setNote n).revoked = s.revoked := rfl
@[simp] theorem setNote_sags (s : State) (n : Note) : (s.setNote n).sags = s.sags := rfl
@[simp] theorem setNote_tick (s : State) (n : Note) : (s.setNote n).tick = s.tick := rfl
@[simp] theorem setNote_mesh (s : State) (n : Note) : (s.setNote n).mesh = s.mesh := rfl
@[simp] theorem setNote_rw (s : State) (n : Note) : (s.setNote n).rw = s.rw := rfl
@[simp] theorem setNote_fences (s : State) (n : Note) : (s.setNote n).fences = s.fences := rfl
@[simp] theorem setNote_pkg (s : State) (n : Note) : (s.setNote n).pkg = s.pkg := rfl
@[simp] theorem setNote_routes (s : State) (n : Note) : (s.setNote n).routes = s.routes := rfl
@[simp] theorem setNote_pending (s : State) (n : Note) : (s.setNote n).pending = s.pending := rfl
@[simp] theorem setNote_turns (s : State) (n : Note) : (s.setNote n).turns = s.turns := rfl
@[simp] theorem setNote_burst (s : State) (n : Note) : (s.setNote n).burst = s.burst := rfl
@[simp] theorem setNote_ahead (s : State) (n : Note) : (s.setNote n).ahead = s.ahead := rfl
@[simp] theorem setNote_free (s : State) (n : Note) : (s.setNote n).free = s.free := rfl
@[simp] theorem setNote_clock (s : State) (n : Note) : (s.setNote n).clock = s.clock := rfl

/-! `hold` changes the strand in turn only. -/

@[simp] theorem hold_others (s : State) (q : QueueName) : (s.hold q).others = s.others := rfl
@[simp] theorem hold_mem (s : State) (q : QueueName) : (s.hold q).mem = s.mem := rfl
@[simp] theorem hold_stamps (s : State) (q : QueueName) : (s.hold q).stamps = s.stamps := rfl
@[simp] theorem hold_floors (s : State) (q : QueueName) : (s.hold q).floors = s.floors := rfl
@[simp] theorem hold_marks (s : State) (q : QueueName) : (s.hold q).marks = s.marks := rfl
@[simp] theorem hold_l2 (s : State) (q : QueueName) : (s.hold q).l2 = s.l2 := rfl
@[simp] theorem hold_fillMask (s : State) (q : QueueName) : (s.hold q).fillMask = s.fillMask := rfl
@[simp] theorem hold_clusterTlb (s : State) (q : QueueName) : (s.hold q).clusterTlb = s.clusterTlb := rfl
@[simp] theorem hold_hostCache (s : State) (q : QueueName) : (s.hold q).hostCache = s.hostCache := rfl
@[simp] theorem hold_host (s : State) (q : QueueName) : (s.hold q).host = s.host := rfl
@[simp] theorem hold_pushes (s : State) (q : QueueName) : (s.hold q).pushes = s.pushes := rfl
@[simp] theorem hold_latest (s : State) (q : QueueName) : (s.hold q).latest = s.latest := rfl
@[simp] theorem hold_remoteOps (s : State) (q : QueueName) : (s.hold q).remoteOps = s.remoteOps := rfl
@[simp] theorem hold_outsideWaits (s : State) (q : QueueName) : (s.hold q).outsideWaits = s.outsideWaits := rfl
@[simp] theorem hold_outsideOffers (s : State) (q : QueueName) : (s.hold q).outsideOffers = s.outsideOffers := rfl
@[simp] theorem hold_writers (s : State) (q : QueueName) : (s.hold q).writers = s.writers := rfl
@[simp] theorem hold_cores (s : State) (q : QueueName) : (s.hold q).cores = s.cores := rfl
@[simp] theorem hold_shorts (s : State) (q : QueueName) : (s.hold q).shorts = s.shorts := rfl
@[simp] theorem hold_resuming (s : State) (q : QueueName) : (s.hold q).resuming = s.resuming := rfl
@[simp] theorem hold_segments (s : State) (q : QueueName) : (s.hold q).segments = s.segments := rfl
@[simp] theorem hold_matrix (s : State) (q : QueueName) : (s.hold q).matrix = s.matrix := rfl
@[simp] theorem hold_copies (s : State) (q : QueueName) : (s.hold q).copies = s.copies := rfl
@[simp] theorem hold_counters (s : State) (q : QueueName) : (s.hold q).counters = s.counters := rfl
@[simp] theorem hold_arrivals (s : State) (q : QueueName) : (s.hold q).arrivals = s.arrivals := rfl
@[simp] theorem hold_routers (s : State) (q : QueueName) : (s.hold q).routers = s.routers := rfl
@[simp] theorem hold_routeSeqs (s : State) (q : QueueName) : (s.hold q).routeSeqs = s.routeSeqs := rfl
@[simp] theorem hold_routeHomes (s : State) (q : QueueName) : (s.hold q).routeHomes = s.routeHomes := rfl
@[simp] theorem hold_masters (s : State) (q : QueueName) : (s.hold q).masters = s.masters := rfl
@[simp] theorem hold_collSeqs (s : State) (q : QueueName) : (s.hold q).collSeqs = s.collSeqs := rfl
@[simp] theorem hold_coords (s : State) (q : QueueName) : (s.hold q).coords = s.coords := rfl
@[simp] theorem hold_sessions (s : State) (q : QueueName) : (s.hold q).sessions = s.sessions := rfl
@[simp] theorem hold_portAddrs (s : State) (q : QueueName) : (s.hold q).portAddrs = s.portAddrs := rfl
@[simp] theorem hold_laneCounts (s : State) (q : QueueName) : (s.hold q).laneCounts = s.laneCounts := rfl
@[simp] theorem hold_remTimeout (s : State) (q : QueueName) : (s.hold q).remTimeout = s.remTimeout := rfl
@[simp] theorem hold_remDeny (s : State) (q : QueueName) : (s.hold q).remDeny = s.remDeny := rfl
@[simp] theorem hold_gens (s : State) (q : QueueName) : (s.hold q).gens = s.gens := rfl
@[simp] theorem hold_anchors (s : State) (q : QueueName) : (s.hold q).anchors = s.anchors := rfl
@[simp] theorem hold_savedTiles (s : State) (q : QueueName) : (s.hold q).savedTiles = s.savedTiles := rfl
@[simp] theorem hold_queues (s : State) (q : QueueName) : (s.hold q).queues = s.queues := rfl
@[simp] theorem hold_wayMasks (s : State) (q : QueueName) : (s.hold q).wayMasks = s.wayMasks := rfl
@[simp] theorem hold_hdmBase (s : State) (q : QueueName) : (s.hold q).hdmBase = s.hdmBase := rfl
@[simp] theorem hold_always (s : State) (q : QueueName) : (s.hold q).always = s.always := rfl
@[simp] theorem hold_gated (s : State) (q : QueueName) : (s.hold q).gated = s.gated := rfl
@[simp] theorem hold_ports (s : State) (q : QueueName) : (s.hold q).ports = s.ports := rfl
@[simp] theorem hold_tickSource (s : State) (q : QueueName) : (s.hold q).tickSource = s.tickSource := rfl
@[simp] theorem hold_lastTickFlit (s : State) (q : QueueName) : (s.hold q).lastTickFlit = s.lastTickFlit := rfl
@[simp] theorem hold_hostAnswer (s : State) (q : QueueName) : (s.hold q).hostAnswer = s.hostAnswer := rfl
@[simp] theorem hold_parts (s : State) (q : QueueName) : (s.hold q).parts = s.parts := rfl
@[simp] theorem hold_launches (s : State) (q : QueueName) : (s.hold q).launches = s.launches := rfl
@[simp] theorem hold_revoked (s : State) (q : QueueName) : (s.hold q).revoked = s.revoked := rfl
@[simp] theorem hold_sags (s : State) (q : QueueName) : (s.hold q).sags = s.sags := rfl
@[simp] theorem hold_tick (s : State) (q : QueueName) : (s.hold q).tick = s.tick := rfl
@[simp] theorem hold_mesh (s : State) (q : QueueName) : (s.hold q).mesh = s.mesh := rfl
@[simp] theorem hold_rw (s : State) (q : QueueName) : (s.hold q).rw = s.rw := rfl
@[simp] theorem hold_fences (s : State) (q : QueueName) : (s.hold q).fences = s.fences := rfl
@[simp] theorem hold_pkg (s : State) (q : QueueName) : (s.hold q).pkg = s.pkg := rfl
@[simp] theorem hold_routes (s : State) (q : QueueName) : (s.hold q).routes = s.routes := rfl
@[simp] theorem hold_pending (s : State) (q : QueueName) : (s.hold q).pending = s.pending := rfl
@[simp] theorem hold_turns (s : State) (q : QueueName) : (s.hold q).turns = s.turns := rfl
@[simp] theorem hold_burst (s : State) (q : QueueName) : (s.hold q).burst = s.burst := rfl
@[simp] theorem hold_ahead (s : State) (q : QueueName) : (s.hold q).ahead = s.ahead := rfl
@[simp] theorem hold_free (s : State) (q : QueueName) : (s.hold q).free = s.free := rfl
@[simp] theorem hold_clock (s : State) (q : QueueName) : (s.hold q).clock = s.clock := rfl

/-! `waitOther` changes the strand in turn only. -/

@[simp] theorem waitOther_others (s : State) : (s.waitOther).others = s.others := rfl
@[simp] theorem waitOther_mem (s : State) : (s.waitOther).mem = s.mem := rfl
@[simp] theorem waitOther_stamps (s : State) : (s.waitOther).stamps = s.stamps := rfl
@[simp] theorem waitOther_floors (s : State) : (s.waitOther).floors = s.floors := rfl
@[simp] theorem waitOther_marks (s : State) : (s.waitOther).marks = s.marks := rfl
@[simp] theorem waitOther_l2 (s : State) : (s.waitOther).l2 = s.l2 := rfl
@[simp] theorem waitOther_fillMask (s : State) : (s.waitOther).fillMask = s.fillMask := rfl
@[simp] theorem waitOther_clusterTlb (s : State) : (s.waitOther).clusterTlb = s.clusterTlb := rfl
@[simp] theorem waitOther_hostCache (s : State) : (s.waitOther).hostCache = s.hostCache := rfl
@[simp] theorem waitOther_host (s : State) : (s.waitOther).host = s.host := rfl
@[simp] theorem waitOther_pushes (s : State) : (s.waitOther).pushes = s.pushes := rfl
@[simp] theorem waitOther_latest (s : State) : (s.waitOther).latest = s.latest := rfl
@[simp] theorem waitOther_remoteOps (s : State) : (s.waitOther).remoteOps = s.remoteOps := rfl
@[simp] theorem waitOther_outsideWaits (s : State) : (s.waitOther).outsideWaits = s.outsideWaits := rfl
@[simp] theorem waitOther_outsideOffers (s : State) : (s.waitOther).outsideOffers = s.outsideOffers := rfl
@[simp] theorem waitOther_writers (s : State) : (s.waitOther).writers = s.writers := rfl
@[simp] theorem waitOther_cores (s : State) : (s.waitOther).cores = s.cores := rfl
@[simp] theorem waitOther_shorts (s : State) : (s.waitOther).shorts = s.shorts := rfl
@[simp] theorem waitOther_resuming (s : State) : (s.waitOther).resuming = s.resuming := rfl
@[simp] theorem waitOther_segments (s : State) : (s.waitOther).segments = s.segments := rfl
@[simp] theorem waitOther_matrix (s : State) : (s.waitOther).matrix = s.matrix := rfl
@[simp] theorem waitOther_copies (s : State) : (s.waitOther).copies = s.copies := rfl
@[simp] theorem waitOther_counters (s : State) : (s.waitOther).counters = s.counters := rfl
@[simp] theorem waitOther_arrivals (s : State) : (s.waitOther).arrivals = s.arrivals := rfl
@[simp] theorem waitOther_routers (s : State) : (s.waitOther).routers = s.routers := rfl
@[simp] theorem waitOther_routeSeqs (s : State) : (s.waitOther).routeSeqs = s.routeSeqs := rfl
@[simp] theorem waitOther_routeHomes (s : State) : (s.waitOther).routeHomes = s.routeHomes := rfl
@[simp] theorem waitOther_masters (s : State) : (s.waitOther).masters = s.masters := rfl
@[simp] theorem waitOther_collSeqs (s : State) : (s.waitOther).collSeqs = s.collSeqs := rfl
@[simp] theorem waitOther_coords (s : State) : (s.waitOther).coords = s.coords := rfl
@[simp] theorem waitOther_sessions (s : State) : (s.waitOther).sessions = s.sessions := rfl
@[simp] theorem waitOther_portAddrs (s : State) : (s.waitOther).portAddrs = s.portAddrs := rfl
@[simp] theorem waitOther_laneCounts (s : State) : (s.waitOther).laneCounts = s.laneCounts := rfl
@[simp] theorem waitOther_remTimeout (s : State) : (s.waitOther).remTimeout = s.remTimeout := rfl
@[simp] theorem waitOther_remDeny (s : State) : (s.waitOther).remDeny = s.remDeny := rfl
@[simp] theorem waitOther_gens (s : State) : (s.waitOther).gens = s.gens := rfl
@[simp] theorem waitOther_anchors (s : State) : (s.waitOther).anchors = s.anchors := rfl
@[simp] theorem waitOther_savedTiles (s : State) : (s.waitOther).savedTiles = s.savedTiles := rfl
@[simp] theorem waitOther_queues (s : State) : (s.waitOther).queues = s.queues := rfl
@[simp] theorem waitOther_wayMasks (s : State) : (s.waitOther).wayMasks = s.wayMasks := rfl
@[simp] theorem waitOther_hdmBase (s : State) : (s.waitOther).hdmBase = s.hdmBase := rfl
@[simp] theorem waitOther_always (s : State) : (s.waitOther).always = s.always := rfl
@[simp] theorem waitOther_gated (s : State) : (s.waitOther).gated = s.gated := rfl
@[simp] theorem waitOther_ports (s : State) : (s.waitOther).ports = s.ports := rfl
@[simp] theorem waitOther_tickSource (s : State) : (s.waitOther).tickSource = s.tickSource := rfl
@[simp] theorem waitOther_lastTickFlit (s : State) : (s.waitOther).lastTickFlit = s.lastTickFlit := rfl
@[simp] theorem waitOther_hostAnswer (s : State) : (s.waitOther).hostAnswer = s.hostAnswer := rfl
@[simp] theorem waitOther_parts (s : State) : (s.waitOther).parts = s.parts := rfl
@[simp] theorem waitOther_launches (s : State) : (s.waitOther).launches = s.launches := rfl
@[simp] theorem waitOther_revoked (s : State) : (s.waitOther).revoked = s.revoked := rfl
@[simp] theorem waitOther_sags (s : State) : (s.waitOther).sags = s.sags := rfl
@[simp] theorem waitOther_tick (s : State) : (s.waitOther).tick = s.tick := rfl
@[simp] theorem waitOther_mesh (s : State) : (s.waitOther).mesh = s.mesh := rfl
@[simp] theorem waitOther_rw (s : State) : (s.waitOther).rw = s.rw := rfl
@[simp] theorem waitOther_fences (s : State) : (s.waitOther).fences = s.fences := rfl
@[simp] theorem waitOther_pkg (s : State) : (s.waitOther).pkg = s.pkg := rfl
@[simp] theorem waitOther_routes (s : State) : (s.waitOther).routes = s.routes := rfl
@[simp] theorem waitOther_pending (s : State) : (s.waitOther).pending = s.pending := rfl
@[simp] theorem waitOther_turns (s : State) : (s.waitOther).turns = s.turns := rfl
@[simp] theorem waitOther_burst (s : State) : (s.waitOther).burst = s.burst := rfl
@[simp] theorem waitOther_ahead (s : State) : (s.waitOther).ahead = s.ahead := rfl
@[simp] theorem waitOther_free (s : State) : (s.waitOther).free = s.free := rfl
@[simp] theorem waitOther_clock (s : State) : (s.waitOther).clock = s.clock := rfl

/-! `block` changes the strand in turn only. -/

@[simp] theorem block_others (s : State) : (s.block).others = s.others := rfl
@[simp] theorem block_mem (s : State) : (s.block).mem = s.mem := rfl
@[simp] theorem block_stamps (s : State) : (s.block).stamps = s.stamps := rfl
@[simp] theorem block_floors (s : State) : (s.block).floors = s.floors := rfl
@[simp] theorem block_marks (s : State) : (s.block).marks = s.marks := rfl
@[simp] theorem block_l2 (s : State) : (s.block).l2 = s.l2 := rfl
@[simp] theorem block_fillMask (s : State) : (s.block).fillMask = s.fillMask := rfl
@[simp] theorem block_clusterTlb (s : State) : (s.block).clusterTlb = s.clusterTlb := rfl
@[simp] theorem block_hostCache (s : State) : (s.block).hostCache = s.hostCache := rfl
@[simp] theorem block_host (s : State) : (s.block).host = s.host := rfl
@[simp] theorem block_pushes (s : State) : (s.block).pushes = s.pushes := rfl
@[simp] theorem block_latest (s : State) : (s.block).latest = s.latest := rfl
@[simp] theorem block_remoteOps (s : State) : (s.block).remoteOps = s.remoteOps := rfl
@[simp] theorem block_outsideWaits (s : State) : (s.block).outsideWaits = s.outsideWaits := rfl
@[simp] theorem block_outsideOffers (s : State) : (s.block).outsideOffers = s.outsideOffers := rfl
@[simp] theorem block_writers (s : State) : (s.block).writers = s.writers := rfl
@[simp] theorem block_cores (s : State) : (s.block).cores = s.cores := rfl
@[simp] theorem block_shorts (s : State) : (s.block).shorts = s.shorts := rfl
@[simp] theorem block_resuming (s : State) : (s.block).resuming = s.resuming := rfl
@[simp] theorem block_segments (s : State) : (s.block).segments = s.segments := rfl
@[simp] theorem block_matrix (s : State) : (s.block).matrix = s.matrix := rfl
@[simp] theorem block_copies (s : State) : (s.block).copies = s.copies := rfl
@[simp] theorem block_counters (s : State) : (s.block).counters = s.counters := rfl
@[simp] theorem block_arrivals (s : State) : (s.block).arrivals = s.arrivals := rfl
@[simp] theorem block_routers (s : State) : (s.block).routers = s.routers := rfl
@[simp] theorem block_routeSeqs (s : State) : (s.block).routeSeqs = s.routeSeqs := rfl
@[simp] theorem block_routeHomes (s : State) : (s.block).routeHomes = s.routeHomes := rfl
@[simp] theorem block_masters (s : State) : (s.block).masters = s.masters := rfl
@[simp] theorem block_collSeqs (s : State) : (s.block).collSeqs = s.collSeqs := rfl
@[simp] theorem block_coords (s : State) : (s.block).coords = s.coords := rfl
@[simp] theorem block_sessions (s : State) : (s.block).sessions = s.sessions := rfl
@[simp] theorem block_portAddrs (s : State) : (s.block).portAddrs = s.portAddrs := rfl
@[simp] theorem block_laneCounts (s : State) : (s.block).laneCounts = s.laneCounts := rfl
@[simp] theorem block_remTimeout (s : State) : (s.block).remTimeout = s.remTimeout := rfl
@[simp] theorem block_remDeny (s : State) : (s.block).remDeny = s.remDeny := rfl
@[simp] theorem block_gens (s : State) : (s.block).gens = s.gens := rfl
@[simp] theorem block_anchors (s : State) : (s.block).anchors = s.anchors := rfl
@[simp] theorem block_savedTiles (s : State) : (s.block).savedTiles = s.savedTiles := rfl
@[simp] theorem block_queues (s : State) : (s.block).queues = s.queues := rfl
@[simp] theorem block_wayMasks (s : State) : (s.block).wayMasks = s.wayMasks := rfl
@[simp] theorem block_hdmBase (s : State) : (s.block).hdmBase = s.hdmBase := rfl
@[simp] theorem block_always (s : State) : (s.block).always = s.always := rfl
@[simp] theorem block_gated (s : State) : (s.block).gated = s.gated := rfl
@[simp] theorem block_ports (s : State) : (s.block).ports = s.ports := rfl
@[simp] theorem block_tickSource (s : State) : (s.block).tickSource = s.tickSource := rfl
@[simp] theorem block_lastTickFlit (s : State) : (s.block).lastTickFlit = s.lastTickFlit := rfl
@[simp] theorem block_hostAnswer (s : State) : (s.block).hostAnswer = s.hostAnswer := rfl
@[simp] theorem block_parts (s : State) : (s.block).parts = s.parts := rfl
@[simp] theorem block_launches (s : State) : (s.block).launches = s.launches := rfl
@[simp] theorem block_revoked (s : State) : (s.block).revoked = s.revoked := rfl
@[simp] theorem block_sags (s : State) : (s.block).sags = s.sags := rfl
@[simp] theorem block_tick (s : State) : (s.block).tick = s.tick := rfl
@[simp] theorem block_mesh (s : State) : (s.block).mesh = s.mesh := rfl
@[simp] theorem block_rw (s : State) : (s.block).rw = s.rw := rfl
@[simp] theorem block_fences (s : State) : (s.block).fences = s.fences := rfl
@[simp] theorem block_pkg (s : State) : (s.block).pkg = s.pkg := rfl
@[simp] theorem block_routes (s : State) : (s.block).routes = s.routes := rfl
@[simp] theorem block_pending (s : State) : (s.block).pending = s.pending := rfl
@[simp] theorem block_turns (s : State) : (s.block).turns = s.turns := rfl
@[simp] theorem block_burst (s : State) : (s.block).burst = s.burst := rfl
@[simp] theorem block_ahead (s : State) : (s.block).ahead = s.ahead := rfl
@[simp] theorem block_free (s : State) : (s.block).free = s.free := rfl
@[simp] theorem block_clock (s : State) : (s.block).clock = s.clock := rfl

/-! `park` changes the strand in turn only. -/

@[simp] theorem park_others (s : State) (w : Wait) : (s.park w).others = s.others := rfl
@[simp] theorem park_mem (s : State) (w : Wait) : (s.park w).mem = s.mem := rfl
@[simp] theorem park_stamps (s : State) (w : Wait) : (s.park w).stamps = s.stamps := rfl
@[simp] theorem park_floors (s : State) (w : Wait) : (s.park w).floors = s.floors := rfl
@[simp] theorem park_marks (s : State) (w : Wait) : (s.park w).marks = s.marks := rfl
@[simp] theorem park_l2 (s : State) (w : Wait) : (s.park w).l2 = s.l2 := rfl
@[simp] theorem park_fillMask (s : State) (w : Wait) : (s.park w).fillMask = s.fillMask := rfl
@[simp] theorem park_clusterTlb (s : State) (w : Wait) : (s.park w).clusterTlb = s.clusterTlb := rfl
@[simp] theorem park_hostCache (s : State) (w : Wait) : (s.park w).hostCache = s.hostCache := rfl
@[simp] theorem park_host (s : State) (w : Wait) : (s.park w).host = s.host := rfl
@[simp] theorem park_pushes (s : State) (w : Wait) : (s.park w).pushes = s.pushes := rfl
@[simp] theorem park_latest (s : State) (w : Wait) : (s.park w).latest = s.latest := rfl
@[simp] theorem park_remoteOps (s : State) (w : Wait) : (s.park w).remoteOps = s.remoteOps := rfl
@[simp] theorem park_outsideWaits (s : State) (w : Wait) : (s.park w).outsideWaits = s.outsideWaits := rfl
@[simp] theorem park_outsideOffers (s : State) (w : Wait) : (s.park w).outsideOffers = s.outsideOffers := rfl
@[simp] theorem park_writers (s : State) (w : Wait) : (s.park w).writers = s.writers := rfl
@[simp] theorem park_cores (s : State) (w : Wait) : (s.park w).cores = s.cores := rfl
@[simp] theorem park_shorts (s : State) (w : Wait) : (s.park w).shorts = s.shorts := rfl
@[simp] theorem park_resuming (s : State) (w : Wait) : (s.park w).resuming = s.resuming := rfl
@[simp] theorem park_segments (s : State) (w : Wait) : (s.park w).segments = s.segments := rfl
@[simp] theorem park_matrix (s : State) (w : Wait) : (s.park w).matrix = s.matrix := rfl
@[simp] theorem park_copies (s : State) (w : Wait) : (s.park w).copies = s.copies := rfl
@[simp] theorem park_counters (s : State) (w : Wait) : (s.park w).counters = s.counters := rfl
@[simp] theorem park_arrivals (s : State) (w : Wait) : (s.park w).arrivals = s.arrivals := rfl
@[simp] theorem park_routers (s : State) (w : Wait) : (s.park w).routers = s.routers := rfl
@[simp] theorem park_routeSeqs (s : State) (w : Wait) : (s.park w).routeSeqs = s.routeSeqs := rfl
@[simp] theorem park_routeHomes (s : State) (w : Wait) : (s.park w).routeHomes = s.routeHomes := rfl
@[simp] theorem park_masters (s : State) (w : Wait) : (s.park w).masters = s.masters := rfl
@[simp] theorem park_collSeqs (s : State) (w : Wait) : (s.park w).collSeqs = s.collSeqs := rfl
@[simp] theorem park_coords (s : State) (w : Wait) : (s.park w).coords = s.coords := rfl
@[simp] theorem park_sessions (s : State) (w : Wait) : (s.park w).sessions = s.sessions := rfl
@[simp] theorem park_portAddrs (s : State) (w : Wait) : (s.park w).portAddrs = s.portAddrs := rfl
@[simp] theorem park_laneCounts (s : State) (w : Wait) : (s.park w).laneCounts = s.laneCounts := rfl
@[simp] theorem park_remTimeout (s : State) (w : Wait) : (s.park w).remTimeout = s.remTimeout := rfl
@[simp] theorem park_remDeny (s : State) (w : Wait) : (s.park w).remDeny = s.remDeny := rfl
@[simp] theorem park_gens (s : State) (w : Wait) : (s.park w).gens = s.gens := rfl
@[simp] theorem park_anchors (s : State) (w : Wait) : (s.park w).anchors = s.anchors := rfl
@[simp] theorem park_savedTiles (s : State) (w : Wait) : (s.park w).savedTiles = s.savedTiles := rfl
@[simp] theorem park_queues (s : State) (w : Wait) : (s.park w).queues = s.queues := rfl
@[simp] theorem park_wayMasks (s : State) (w : Wait) : (s.park w).wayMasks = s.wayMasks := rfl
@[simp] theorem park_hdmBase (s : State) (w : Wait) : (s.park w).hdmBase = s.hdmBase := rfl
@[simp] theorem park_always (s : State) (w : Wait) : (s.park w).always = s.always := rfl
@[simp] theorem park_gated (s : State) (w : Wait) : (s.park w).gated = s.gated := rfl
@[simp] theorem park_ports (s : State) (w : Wait) : (s.park w).ports = s.ports := rfl
@[simp] theorem park_tickSource (s : State) (w : Wait) : (s.park w).tickSource = s.tickSource := rfl
@[simp] theorem park_lastTickFlit (s : State) (w : Wait) : (s.park w).lastTickFlit = s.lastTickFlit := rfl
@[simp] theorem park_hostAnswer (s : State) (w : Wait) : (s.park w).hostAnswer = s.hostAnswer := rfl
@[simp] theorem park_parts (s : State) (w : Wait) : (s.park w).parts = s.parts := rfl
@[simp] theorem park_launches (s : State) (w : Wait) : (s.park w).launches = s.launches := rfl
@[simp] theorem park_revoked (s : State) (w : Wait) : (s.park w).revoked = s.revoked := rfl
@[simp] theorem park_sags (s : State) (w : Wait) : (s.park w).sags = s.sags := rfl
@[simp] theorem park_tick (s : State) (w : Wait) : (s.park w).tick = s.tick := rfl
@[simp] theorem park_mesh (s : State) (w : Wait) : (s.park w).mesh = s.mesh := rfl
@[simp] theorem park_rw (s : State) (w : Wait) : (s.park w).rw = s.rw := rfl
@[simp] theorem park_fences (s : State) (w : Wait) : (s.park w).fences = s.fences := rfl
@[simp] theorem park_pkg (s : State) (w : Wait) : (s.park w).pkg = s.pkg := rfl
@[simp] theorem park_routes (s : State) (w : Wait) : (s.park w).routes = s.routes := rfl
@[simp] theorem park_pending (s : State) (w : Wait) : (s.park w).pending = s.pending := rfl
@[simp] theorem park_turns (s : State) (w : Wait) : (s.park w).turns = s.turns := rfl
@[simp] theorem park_burst (s : State) (w : Wait) : (s.park w).burst = s.burst := rfl
@[simp] theorem park_ahead (s : State) (w : Wait) : (s.park w).ahead = s.ahead := rfl
@[simp] theorem park_free (s : State) (w : Wait) : (s.park w).free = s.free := rfl
@[simp] theorem park_clock (s : State) (w : Wait) : (s.park w).clock = s.clock := rfl

/-! `issuing` changes the strand in turn only. -/

@[simp] theorem issuing_others (s : State) (i : Issue) : (s.issuing i).others = s.others := rfl
@[simp] theorem issuing_mem (s : State) (i : Issue) : (s.issuing i).mem = s.mem := rfl
@[simp] theorem issuing_stamps (s : State) (i : Issue) : (s.issuing i).stamps = s.stamps := rfl
@[simp] theorem issuing_floors (s : State) (i : Issue) : (s.issuing i).floors = s.floors := rfl
@[simp] theorem issuing_marks (s : State) (i : Issue) : (s.issuing i).marks = s.marks := rfl
@[simp] theorem issuing_l2 (s : State) (i : Issue) : (s.issuing i).l2 = s.l2 := rfl
@[simp] theorem issuing_fillMask (s : State) (i : Issue) : (s.issuing i).fillMask = s.fillMask := rfl
@[simp] theorem issuing_clusterTlb (s : State) (i : Issue) : (s.issuing i).clusterTlb = s.clusterTlb := rfl
@[simp] theorem issuing_hostCache (s : State) (i : Issue) : (s.issuing i).hostCache = s.hostCache := rfl
@[simp] theorem issuing_host (s : State) (i : Issue) : (s.issuing i).host = s.host := rfl
@[simp] theorem issuing_pushes (s : State) (i : Issue) : (s.issuing i).pushes = s.pushes := rfl
@[simp] theorem issuing_latest (s : State) (i : Issue) : (s.issuing i).latest = s.latest := rfl
@[simp] theorem issuing_remoteOps (s : State) (i : Issue) : (s.issuing i).remoteOps = s.remoteOps := rfl
@[simp] theorem issuing_outsideWaits (s : State) (i : Issue) : (s.issuing i).outsideWaits = s.outsideWaits := rfl
@[simp] theorem issuing_outsideOffers (s : State) (i : Issue) : (s.issuing i).outsideOffers = s.outsideOffers := rfl
@[simp] theorem issuing_writers (s : State) (i : Issue) : (s.issuing i).writers = s.writers := rfl
@[simp] theorem issuing_cores (s : State) (i : Issue) : (s.issuing i).cores = s.cores := rfl
@[simp] theorem issuing_shorts (s : State) (i : Issue) : (s.issuing i).shorts = s.shorts := rfl
@[simp] theorem issuing_resuming (s : State) (i : Issue) : (s.issuing i).resuming = s.resuming := rfl
@[simp] theorem issuing_segments (s : State) (i : Issue) : (s.issuing i).segments = s.segments := rfl
@[simp] theorem issuing_matrix (s : State) (i : Issue) : (s.issuing i).matrix = s.matrix := rfl
@[simp] theorem issuing_copies (s : State) (i : Issue) : (s.issuing i).copies = s.copies := rfl
@[simp] theorem issuing_counters (s : State) (i : Issue) : (s.issuing i).counters = s.counters := rfl
@[simp] theorem issuing_arrivals (s : State) (i : Issue) : (s.issuing i).arrivals = s.arrivals := rfl
@[simp] theorem issuing_routers (s : State) (i : Issue) : (s.issuing i).routers = s.routers := rfl
@[simp] theorem issuing_routeSeqs (s : State) (i : Issue) : (s.issuing i).routeSeqs = s.routeSeqs := rfl
@[simp] theorem issuing_routeHomes (s : State) (i : Issue) : (s.issuing i).routeHomes = s.routeHomes := rfl
@[simp] theorem issuing_masters (s : State) (i : Issue) : (s.issuing i).masters = s.masters := rfl
@[simp] theorem issuing_collSeqs (s : State) (i : Issue) : (s.issuing i).collSeqs = s.collSeqs := rfl
@[simp] theorem issuing_coords (s : State) (i : Issue) : (s.issuing i).coords = s.coords := rfl
@[simp] theorem issuing_sessions (s : State) (i : Issue) : (s.issuing i).sessions = s.sessions := rfl
@[simp] theorem issuing_portAddrs (s : State) (i : Issue) : (s.issuing i).portAddrs = s.portAddrs := rfl
@[simp] theorem issuing_laneCounts (s : State) (i : Issue) : (s.issuing i).laneCounts = s.laneCounts := rfl
@[simp] theorem issuing_remTimeout (s : State) (i : Issue) : (s.issuing i).remTimeout = s.remTimeout := rfl
@[simp] theorem issuing_remDeny (s : State) (i : Issue) : (s.issuing i).remDeny = s.remDeny := rfl
@[simp] theorem issuing_gens (s : State) (i : Issue) : (s.issuing i).gens = s.gens := rfl
@[simp] theorem issuing_anchors (s : State) (i : Issue) : (s.issuing i).anchors = s.anchors := rfl
@[simp] theorem issuing_savedTiles (s : State) (i : Issue) : (s.issuing i).savedTiles = s.savedTiles := rfl
@[simp] theorem issuing_queues (s : State) (i : Issue) : (s.issuing i).queues = s.queues := rfl
@[simp] theorem issuing_wayMasks (s : State) (i : Issue) : (s.issuing i).wayMasks = s.wayMasks := rfl
@[simp] theorem issuing_hdmBase (s : State) (i : Issue) : (s.issuing i).hdmBase = s.hdmBase := rfl
@[simp] theorem issuing_always (s : State) (i : Issue) : (s.issuing i).always = s.always := rfl
@[simp] theorem issuing_gated (s : State) (i : Issue) : (s.issuing i).gated = s.gated := rfl
@[simp] theorem issuing_ports (s : State) (i : Issue) : (s.issuing i).ports = s.ports := rfl
@[simp] theorem issuing_tickSource (s : State) (i : Issue) : (s.issuing i).tickSource = s.tickSource := rfl
@[simp] theorem issuing_lastTickFlit (s : State) (i : Issue) : (s.issuing i).lastTickFlit = s.lastTickFlit := rfl
@[simp] theorem issuing_hostAnswer (s : State) (i : Issue) : (s.issuing i).hostAnswer = s.hostAnswer := rfl
@[simp] theorem issuing_parts (s : State) (i : Issue) : (s.issuing i).parts = s.parts := rfl
@[simp] theorem issuing_launches (s : State) (i : Issue) : (s.issuing i).launches = s.launches := rfl
@[simp] theorem issuing_revoked (s : State) (i : Issue) : (s.issuing i).revoked = s.revoked := rfl
@[simp] theorem issuing_sags (s : State) (i : Issue) : (s.issuing i).sags = s.sags := rfl
@[simp] theorem issuing_tick (s : State) (i : Issue) : (s.issuing i).tick = s.tick := rfl
@[simp] theorem issuing_mesh (s : State) (i : Issue) : (s.issuing i).mesh = s.mesh := rfl
@[simp] theorem issuing_rw (s : State) (i : Issue) : (s.issuing i).rw = s.rw := rfl
@[simp] theorem issuing_fences (s : State) (i : Issue) : (s.issuing i).fences = s.fences := rfl
@[simp] theorem issuing_pkg (s : State) (i : Issue) : (s.issuing i).pkg = s.pkg := rfl
@[simp] theorem issuing_routes (s : State) (i : Issue) : (s.issuing i).routes = s.routes := rfl
@[simp] theorem issuing_pending (s : State) (i : Issue) : (s.issuing i).pending = s.pending := rfl
@[simp] theorem issuing_turns (s : State) (i : Issue) : (s.issuing i).turns = s.turns := rfl
@[simp] theorem issuing_burst (s : State) (i : Issue) : (s.issuing i).burst = s.burst := rfl
@[simp] theorem issuing_ahead (s : State) (i : Issue) : (s.issuing i).ahead = s.ahead := rfl
@[simp] theorem issuing_free (s : State) (i : Issue) : (s.issuing i).free = s.free := rfl
@[simp] theorem issuing_clock (s : State) (i : Issue) : (s.issuing i).clock = s.clock := rfl

/-! What they make of the strand in turn. -/

@[simp] theorem setMe_me (s : State) (m : Strand) : (s.setMe m).me = m := rfl
@[simp] theorem setCtx_me_sid (s : State) (c : Context) : (s.setCtx c).me.sid = s.me.sid := rfl
@[simp] theorem setCtx_me_ctx (s : State) (c : Context) : (s.setCtx c).me.ctx = c := rfl
@[simp] theorem setCtx_me_pc (s : State) (c : Context) : (s.setCtx c).me.pc = s.me.pc := rfl
@[simp] theorem setCtx_me_issue (s : State) (c : Context) : (s.setCtx c).me.issue = s.me.issue := rfl
@[simp] theorem setCtx_me_pos (s : State) (c : Context) : (s.setCtx c).me.pos = s.me.pos := rfl
@[simp] theorem setCtx_me_ts (s : State) (c : Context) : (s.setCtx c).me.ts = s.me.ts := rfl
@[simp] theorem setCtx_me_hits (s : State) (c : Context) : (s.setCtx c).me.hits = s.me.hits := rfl
@[simp] theorem setCtx_me_missed (s : State) (c : Context) : (s.setCtx c).me.missed = s.me.missed := rfl
@[simp] theorem setCtx_me_groups (s : State) (c : Context) : (s.setCtx c).me.groups = s.me.groups := rfl
@[simp] theorem setCtx_me_frame (s : State) (c : Context) : (s.setCtx c).me.frame = s.me.frame := rfl
@[simp] theorem setCtx_me_core (s : State) (c : Context) : (s.setCtx c).me.core = s.me.core := rfl
@[simp] theorem setCtx_me_slot (s : State) (c : Context) : (s.setCtx c).me.slot = s.me.slot := rfl
@[simp] theorem setCtx_me_wait (s : State) (c : Context) : (s.setCtx c).me.wait = s.me.wait := rfl
@[simp] theorem setCtx_me_deferred (s : State) (c : Context) : (s.setCtx c).me.deferred = s.me.deferred := rfl
@[simp] theorem setCtx_me_owed (s : State) (c : Context) : (s.setCtx c).me.owed = s.me.owed := rfl
@[simp] theorem setCtx_me_undo (s : State) (c : Context) : (s.setCtx c).me.undo = s.me.undo := rfl
@[simp] theorem setCtx_me_note (s : State) (c : Context) : (s.setCtx c).me.note = s.me.note := rfl
@[simp] theorem setCtx_me_parts (s : State) (c : Context) : (s.setCtx c).me.parts = s.me.parts := rfl
@[simp] theorem setCtx_me_going (s : State) (c : Context) : (s.setCtx c).me.going = s.me.going := rfl
@[simp] theorem setCtx_me_heldLag (s : State) (c : Context) : (s.setCtx c).me.heldLag = s.me.heldLag := rfl
@[simp] theorem setCtx_me_heldLead (s : State) (c : Context) : (s.setCtx c).me.heldLead = s.me.heldLead := rfl
@[simp] theorem setCtx_me_inbox (s : State) (c : Context) : (s.setCtx c).me.inbox = s.me.inbox := rfl
@[simp] theorem setCtx_me_launch (s : State) (c : Context) : (s.setCtx c).me.launch = s.me.launch := rfl
@[simp] theorem setCtx_me_rank (s : State) (c : Context) : (s.setCtx c).me.rank = s.me.rank := rfl
@[simp] theorem setCtx_me_count (s : State) (c : Context) : (s.setCtx c).me.count = s.me.count := rfl
@[simp] theorem setCtx_me_prio (s : State) (c : Context) : (s.setCtx c).me.prio = s.me.prio := rfl
@[simp] theorem setCtx_me_since (s : State) (c : Context) : (s.setCtx c).me.since = s.me.since := rfl
@[simp] theorem setCtx_me_queued (s : State) (c : Context) : (s.setCtx c).me.queued = s.me.queued := rfl
@[simp] theorem setCtx_me_preempt (s : State) (c : Context) : (s.setCtx c).me.preempt = s.me.preempt := rfl
@[simp] theorem setCtx_me_yieldSet (s : State) (c : Context) : (s.setCtx c).me.yieldSet = s.me.yieldSet := rfl
@[simp] theorem setCtx_me_stay (s : State) (c : Context) : (s.setCtx c).me.stay = s.me.stay := rfl
@[simp] theorem setCtx_me_target (s : State) (c : Context) : (s.setCtx c).me.target = s.me.target := rfl
@[simp] theorem setCtx_me_refusal (s : State) (c : Context) : (s.setCtx c).me.refusal = s.me.refusal := rfl
@[simp] theorem setCtx_me_leaving (s : State) (c : Context) : (s.setCtx c).me.leaving = s.me.leaving := rfl
@[simp] theorem setCtx_me_unreported (s : State) (c : Context) : (s.setCtx c).me.unreported = s.me.unreported := rfl
@[simp] theorem setCtx_me_image (s : State) (c : Context) : (s.setCtx c).me.image = s.me.image := rfl
@[simp] theorem setCtx_me_imageOldest (s : State) (c : Context) : (s.setCtx c).me.imageOldest = s.me.imageOldest := rfl
@[simp] theorem setCtx_me_batchNext (s : State) (c : Context) : (s.setCtx c).me.batchNext = s.me.batchNext := rfl
@[simp] theorem setCtx_me_batchOldest (s : State) (c : Context) : (s.setCtx c).me.batchOldest = s.me.batchOldest := rfl
@[simp] theorem setCtx_me_batchUsed (s : State) (c : Context) : (s.setCtx c).me.batchUsed = s.me.batchUsed := rfl
@[simp] theorem setCtx_me_batchErr (s : State) (c : Context) : (s.setCtx c).me.batchErr = s.me.batchErr := rfl
@[simp] theorem setCtx_me_batchStamps (s : State) (c : Context) : (s.setCtx c).me.batchStamps = s.me.batchStamps := rfl
@[simp] theorem setCtx_me_fencePast (s : State) (c : Context) : (s.setCtx c).me.fencePast = s.me.fencePast := rfl
@[simp] theorem setCtx_me_regionMet (s : State) (c : Context) : (s.setCtx c).me.regionMet = s.me.regionMet := rfl
@[simp] theorem setCtx_me_pendingTrap (s : State) (c : Context) : (s.setCtx c).me.pendingTrap = s.me.pendingTrap := rfl
@[simp] theorem done_me_sid (s : State) (c : Context) : (s.done c).me.sid = s.me.sid := rfl
@[simp] theorem done_me_ctx (s : State) (c : Context) : (s.done c).me.ctx = c := rfl
@[simp] theorem done_me_pc (s : State) (c : Context) : (s.done c).me.pc = s.me.pc := rfl
@[simp] theorem done_me_issue (s : State) (c : Context) : (s.done c).me.issue = s.me.issue := rfl
@[simp] theorem done_me_pos (s : State) (c : Context) : (s.done c).me.pos = s.me.pos := rfl
@[simp] theorem done_me_ts (s : State) (c : Context) : (s.done c).me.ts = s.me.ts := rfl
@[simp] theorem done_me_hits (s : State) (c : Context) : (s.done c).me.hits = s.me.hits := rfl
@[simp] theorem done_me_missed (s : State) (c : Context) : (s.done c).me.missed = s.me.missed := rfl
@[simp] theorem done_me_groups (s : State) (c : Context) : (s.done c).me.groups = s.me.groups := rfl
@[simp] theorem done_me_frame (s : State) (c : Context) : (s.done c).me.frame = s.me.frame := rfl
@[simp] theorem done_me_core (s : State) (c : Context) : (s.done c).me.core = s.me.core := rfl
@[simp] theorem done_me_slot (s : State) (c : Context) : (s.done c).me.slot = s.me.slot := rfl
@[simp] theorem done_me_wait (s : State) (c : Context) : (s.done c).me.wait = s.me.wait := rfl
@[simp] theorem done_me_deferred (s : State) (c : Context) : (s.done c).me.deferred = s.me.deferred := rfl
@[simp] theorem done_me_owed (s : State) (c : Context) : (s.done c).me.owed = s.me.owed := rfl
@[simp] theorem done_me_undo (s : State) (c : Context) : (s.done c).me.undo = s.me.undo := rfl
@[simp] theorem done_me_note (s : State) (c : Context) : (s.done c).me.note = .done := rfl
@[simp] theorem done_me_parts (s : State) (c : Context) : (s.done c).me.parts = s.me.parts := rfl
@[simp] theorem done_me_going (s : State) (c : Context) : (s.done c).me.going = s.me.going := rfl
@[simp] theorem done_me_heldLag (s : State) (c : Context) : (s.done c).me.heldLag = s.me.heldLag := rfl
@[simp] theorem done_me_heldLead (s : State) (c : Context) : (s.done c).me.heldLead = s.me.heldLead := rfl
@[simp] theorem done_me_inbox (s : State) (c : Context) : (s.done c).me.inbox = s.me.inbox := rfl
@[simp] theorem done_me_launch (s : State) (c : Context) : (s.done c).me.launch = s.me.launch := rfl
@[simp] theorem done_me_rank (s : State) (c : Context) : (s.done c).me.rank = s.me.rank := rfl
@[simp] theorem done_me_count (s : State) (c : Context) : (s.done c).me.count = s.me.count := rfl
@[simp] theorem done_me_prio (s : State) (c : Context) : (s.done c).me.prio = s.me.prio := rfl
@[simp] theorem done_me_since (s : State) (c : Context) : (s.done c).me.since = s.me.since := rfl
@[simp] theorem done_me_queued (s : State) (c : Context) : (s.done c).me.queued = s.me.queued := rfl
@[simp] theorem done_me_preempt (s : State) (c : Context) : (s.done c).me.preempt = s.me.preempt := rfl
@[simp] theorem done_me_yieldSet (s : State) (c : Context) : (s.done c).me.yieldSet = s.me.yieldSet := rfl
@[simp] theorem done_me_stay (s : State) (c : Context) : (s.done c).me.stay = s.me.stay := rfl
@[simp] theorem done_me_target (s : State) (c : Context) : (s.done c).me.target = s.me.target := rfl
@[simp] theorem done_me_refusal (s : State) (c : Context) : (s.done c).me.refusal = s.me.refusal := rfl
@[simp] theorem done_me_leaving (s : State) (c : Context) : (s.done c).me.leaving = s.me.leaving := rfl
@[simp] theorem done_me_unreported (s : State) (c : Context) : (s.done c).me.unreported = s.me.unreported := rfl
@[simp] theorem done_me_image (s : State) (c : Context) : (s.done c).me.image = s.me.image := rfl
@[simp] theorem done_me_imageOldest (s : State) (c : Context) : (s.done c).me.imageOldest = s.me.imageOldest := rfl
@[simp] theorem done_me_batchNext (s : State) (c : Context) : (s.done c).me.batchNext = s.me.batchNext := rfl
@[simp] theorem done_me_batchOldest (s : State) (c : Context) : (s.done c).me.batchOldest = s.me.batchOldest := rfl
@[simp] theorem done_me_batchUsed (s : State) (c : Context) : (s.done c).me.batchUsed = s.me.batchUsed := rfl
@[simp] theorem done_me_batchErr (s : State) (c : Context) : (s.done c).me.batchErr = s.me.batchErr := rfl
@[simp] theorem done_me_batchStamps (s : State) (c : Context) : (s.done c).me.batchStamps = s.me.batchStamps := rfl
@[simp] theorem done_me_fencePast (s : State) (c : Context) : (s.done c).me.fencePast = s.me.fencePast := rfl
@[simp] theorem done_me_regionMet (s : State) (c : Context) : (s.done c).me.regionMet = s.me.regionMet := rfl
@[simp] theorem done_me_pendingTrap (s : State) (c : Context) : (s.done c).me.pendingTrap = s.me.pendingTrap := rfl
@[simp] theorem setNote_me_sid (s : State) (n : Note) : (s.setNote n).me.sid = s.me.sid := rfl
@[simp] theorem setNote_me_ctx (s : State) (n : Note) : (s.setNote n).me.ctx = s.me.ctx := rfl
@[simp] theorem setNote_me_pc (s : State) (n : Note) : (s.setNote n).me.pc = s.me.pc := rfl
@[simp] theorem setNote_me_issue (s : State) (n : Note) : (s.setNote n).me.issue = s.me.issue := rfl
@[simp] theorem setNote_me_pos (s : State) (n : Note) : (s.setNote n).me.pos = s.me.pos := rfl
@[simp] theorem setNote_me_ts (s : State) (n : Note) : (s.setNote n).me.ts = s.me.ts := rfl
@[simp] theorem setNote_me_hits (s : State) (n : Note) : (s.setNote n).me.hits = s.me.hits := rfl
@[simp] theorem setNote_me_missed (s : State) (n : Note) : (s.setNote n).me.missed = s.me.missed := rfl
@[simp] theorem setNote_me_groups (s : State) (n : Note) : (s.setNote n).me.groups = s.me.groups := rfl
@[simp] theorem setNote_me_frame (s : State) (n : Note) : (s.setNote n).me.frame = s.me.frame := rfl
@[simp] theorem setNote_me_core (s : State) (n : Note) : (s.setNote n).me.core = s.me.core := rfl
@[simp] theorem setNote_me_slot (s : State) (n : Note) : (s.setNote n).me.slot = s.me.slot := rfl
@[simp] theorem setNote_me_wait (s : State) (n : Note) : (s.setNote n).me.wait = s.me.wait := rfl
@[simp] theorem setNote_me_deferred (s : State) (n : Note) : (s.setNote n).me.deferred = s.me.deferred := rfl
@[simp] theorem setNote_me_owed (s : State) (n : Note) : (s.setNote n).me.owed = s.me.owed := rfl
@[simp] theorem setNote_me_undo (s : State) (n : Note) : (s.setNote n).me.undo = s.me.undo := rfl
@[simp] theorem setNote_me_note (s : State) (n : Note) : (s.setNote n).me.note = n := rfl
@[simp] theorem setNote_me_parts (s : State) (n : Note) : (s.setNote n).me.parts = s.me.parts := rfl
@[simp] theorem setNote_me_going (s : State) (n : Note) : (s.setNote n).me.going = s.me.going := rfl
@[simp] theorem setNote_me_heldLag (s : State) (n : Note) : (s.setNote n).me.heldLag = s.me.heldLag := rfl
@[simp] theorem setNote_me_heldLead (s : State) (n : Note) : (s.setNote n).me.heldLead = s.me.heldLead := rfl
@[simp] theorem setNote_me_inbox (s : State) (n : Note) : (s.setNote n).me.inbox = s.me.inbox := rfl
@[simp] theorem setNote_me_launch (s : State) (n : Note) : (s.setNote n).me.launch = s.me.launch := rfl
@[simp] theorem setNote_me_rank (s : State) (n : Note) : (s.setNote n).me.rank = s.me.rank := rfl
@[simp] theorem setNote_me_count (s : State) (n : Note) : (s.setNote n).me.count = s.me.count := rfl
@[simp] theorem setNote_me_prio (s : State) (n : Note) : (s.setNote n).me.prio = s.me.prio := rfl
@[simp] theorem setNote_me_since (s : State) (n : Note) : (s.setNote n).me.since = s.me.since := rfl
@[simp] theorem setNote_me_queued (s : State) (n : Note) : (s.setNote n).me.queued = s.me.queued := rfl
@[simp] theorem setNote_me_preempt (s : State) (n : Note) : (s.setNote n).me.preempt = s.me.preempt := rfl
@[simp] theorem setNote_me_yieldSet (s : State) (n : Note) : (s.setNote n).me.yieldSet = s.me.yieldSet := rfl
@[simp] theorem setNote_me_stay (s : State) (n : Note) : (s.setNote n).me.stay = s.me.stay := rfl
@[simp] theorem setNote_me_target (s : State) (n : Note) : (s.setNote n).me.target = s.me.target := rfl
@[simp] theorem setNote_me_refusal (s : State) (n : Note) : (s.setNote n).me.refusal = s.me.refusal := rfl
@[simp] theorem setNote_me_leaving (s : State) (n : Note) : (s.setNote n).me.leaving = s.me.leaving := rfl
@[simp] theorem setNote_me_unreported (s : State) (n : Note) : (s.setNote n).me.unreported = s.me.unreported := rfl
@[simp] theorem setNote_me_image (s : State) (n : Note) : (s.setNote n).me.image = s.me.image := rfl
@[simp] theorem setNote_me_imageOldest (s : State) (n : Note) : (s.setNote n).me.imageOldest = s.me.imageOldest := rfl
@[simp] theorem setNote_me_batchNext (s : State) (n : Note) : (s.setNote n).me.batchNext = s.me.batchNext := rfl
@[simp] theorem setNote_me_batchOldest (s : State) (n : Note) : (s.setNote n).me.batchOldest = s.me.batchOldest := rfl
@[simp] theorem setNote_me_batchUsed (s : State) (n : Note) : (s.setNote n).me.batchUsed = s.me.batchUsed := rfl
@[simp] theorem setNote_me_batchErr (s : State) (n : Note) : (s.setNote n).me.batchErr = s.me.batchErr := rfl
@[simp] theorem setNote_me_batchStamps (s : State) (n : Note) : (s.setNote n).me.batchStamps = s.me.batchStamps := rfl
@[simp] theorem setNote_me_fencePast (s : State) (n : Note) : (s.setNote n).me.fencePast = s.me.fencePast := rfl
@[simp] theorem setNote_me_regionMet (s : State) (n : Note) : (s.setNote n).me.regionMet = s.me.regionMet := rfl
@[simp] theorem setNote_me_pendingTrap (s : State) (n : Note) : (s.setNote n).me.pendingTrap = s.me.pendingTrap := rfl
@[simp] theorem issuing_me_sid (s : State) (i : Issue) : (s.issuing i).me.sid = s.me.sid := rfl
@[simp] theorem issuing_me_ctx (s : State) (i : Issue) : (s.issuing i).me.ctx = s.me.ctx := rfl
@[simp] theorem issuing_me_pc (s : State) (i : Issue) : (s.issuing i).me.pc = s.me.pc := rfl
@[simp] theorem issuing_me_issue (s : State) (i : Issue) : (s.issuing i).me.issue = i := rfl
@[simp] theorem issuing_me_pos (s : State) (i : Issue) : (s.issuing i).me.pos = s.me.pos := rfl
@[simp] theorem issuing_me_ts (s : State) (i : Issue) : (s.issuing i).me.ts = s.me.ts := rfl
@[simp] theorem issuing_me_hits (s : State) (i : Issue) : (s.issuing i).me.hits = s.me.hits := rfl
@[simp] theorem issuing_me_missed (s : State) (i : Issue) : (s.issuing i).me.missed = s.me.missed := rfl
@[simp] theorem issuing_me_groups (s : State) (i : Issue) : (s.issuing i).me.groups = s.me.groups := rfl
@[simp] theorem issuing_me_frame (s : State) (i : Issue) : (s.issuing i).me.frame = s.me.frame := rfl
@[simp] theorem issuing_me_core (s : State) (i : Issue) : (s.issuing i).me.core = s.me.core := rfl
@[simp] theorem issuing_me_slot (s : State) (i : Issue) : (s.issuing i).me.slot = s.me.slot := rfl
@[simp] theorem issuing_me_wait (s : State) (i : Issue) : (s.issuing i).me.wait = s.me.wait := rfl
@[simp] theorem issuing_me_deferred (s : State) (i : Issue) : (s.issuing i).me.deferred = s.me.deferred := rfl
@[simp] theorem issuing_me_owed (s : State) (i : Issue) : (s.issuing i).me.owed = s.me.owed := rfl
@[simp] theorem issuing_me_undo (s : State) (i : Issue) : (s.issuing i).me.undo = s.me.undo := rfl
@[simp] theorem issuing_me_note (s : State) (i : Issue) : (s.issuing i).me.note = s.me.note := rfl
@[simp] theorem issuing_me_parts (s : State) (i : Issue) : (s.issuing i).me.parts = s.me.parts := rfl
@[simp] theorem issuing_me_going (s : State) (i : Issue) : (s.issuing i).me.going = s.me.going := rfl
@[simp] theorem issuing_me_heldLag (s : State) (i : Issue) : (s.issuing i).me.heldLag = s.me.heldLag := rfl
@[simp] theorem issuing_me_heldLead (s : State) (i : Issue) : (s.issuing i).me.heldLead = s.me.heldLead := rfl
@[simp] theorem issuing_me_inbox (s : State) (i : Issue) : (s.issuing i).me.inbox = s.me.inbox := rfl
@[simp] theorem issuing_me_launch (s : State) (i : Issue) : (s.issuing i).me.launch = s.me.launch := rfl
@[simp] theorem issuing_me_rank (s : State) (i : Issue) : (s.issuing i).me.rank = s.me.rank := rfl
@[simp] theorem issuing_me_count (s : State) (i : Issue) : (s.issuing i).me.count = s.me.count := rfl
@[simp] theorem issuing_me_prio (s : State) (i : Issue) : (s.issuing i).me.prio = s.me.prio := rfl
@[simp] theorem issuing_me_since (s : State) (i : Issue) : (s.issuing i).me.since = s.me.since := rfl
@[simp] theorem issuing_me_queued (s : State) (i : Issue) : (s.issuing i).me.queued = s.me.queued := rfl
@[simp] theorem issuing_me_preempt (s : State) (i : Issue) : (s.issuing i).me.preempt = s.me.preempt := rfl
@[simp] theorem issuing_me_yieldSet (s : State) (i : Issue) : (s.issuing i).me.yieldSet = s.me.yieldSet := rfl
@[simp] theorem issuing_me_stay (s : State) (i : Issue) : (s.issuing i).me.stay = s.me.stay := rfl
@[simp] theorem issuing_me_target (s : State) (i : Issue) : (s.issuing i).me.target = s.me.target := rfl
@[simp] theorem issuing_me_refusal (s : State) (i : Issue) : (s.issuing i).me.refusal = s.me.refusal := rfl
@[simp] theorem issuing_me_leaving (s : State) (i : Issue) : (s.issuing i).me.leaving = s.me.leaving := rfl
@[simp] theorem issuing_me_unreported (s : State) (i : Issue) : (s.issuing i).me.unreported = s.me.unreported := rfl
@[simp] theorem issuing_me_image (s : State) (i : Issue) : (s.issuing i).me.image = s.me.image := rfl
@[simp] theorem issuing_me_imageOldest (s : State) (i : Issue) : (s.issuing i).me.imageOldest = s.me.imageOldest := rfl
@[simp] theorem issuing_me_batchNext (s : State) (i : Issue) : (s.issuing i).me.batchNext = s.me.batchNext := rfl
@[simp] theorem issuing_me_batchOldest (s : State) (i : Issue) : (s.issuing i).me.batchOldest = s.me.batchOldest := rfl
@[simp] theorem issuing_me_batchUsed (s : State) (i : Issue) : (s.issuing i).me.batchUsed = s.me.batchUsed := rfl
@[simp] theorem issuing_me_batchErr (s : State) (i : Issue) : (s.issuing i).me.batchErr = s.me.batchErr := rfl
@[simp] theorem issuing_me_batchStamps (s : State) (i : Issue) : (s.issuing i).me.batchStamps = s.me.batchStamps := rfl
@[simp] theorem issuing_me_fencePast (s : State) (i : Issue) : (s.issuing i).me.fencePast = s.me.fencePast := rfl
@[simp] theorem issuing_me_regionMet (s : State) (i : Issue) : (s.issuing i).me.regionMet = s.me.regionMet := rfl
@[simp] theorem issuing_me_pendingTrap (s : State) (i : Issue) : (s.issuing i).me.pendingTrap = s.me.pendingTrap := rfl
@[simp] theorem hold_me_note (s : State) (q : QueueName) : (s.hold q).me.note = .held q := rfl
@[simp] theorem waitOther_me_note (s : State)  : (s.waitOther).me.note = .waits := rfl
@[simp] theorem block_me_note (s : State)  : (s.block).me.note = .blocked := rfl
@[simp] theorem park_me_note (s : State) (w : Wait) : (s.park w).me.note = .parked := rfl
@[simp] theorem park_me_wait (s : State) (w : Wait) : (s.park w).me.wait = some w := rfl
@[simp] theorem park_me_frame (s : State) (w : Wait) : (s.park w).me.frame = .parked := rfl
@[simp] theorem park_me_undo (s : State) (w : Wait) : (s.park w).me.undo = s.me.undo := rfl

/-! `rollback` moves the program counter, or puts the held item back. -/

@[simp] theorem rollback_sid (m : Strand) : m.rollback.sid = m.sid := by unfold Strand.rollback; split <;> rfl
@[simp] theorem rollback_ctx (m : Strand) : m.rollback.ctx = m.ctx := by unfold Strand.rollback; split <;> rfl
@[simp] theorem rollback_issue (m : Strand) : m.rollback.issue = m.issue := by unfold Strand.rollback; split <;> rfl
@[simp] theorem rollback_ts (m : Strand) : m.rollback.ts = m.ts := by unfold Strand.rollback; split <;> rfl
@[simp] theorem rollback_hits (m : Strand) : m.rollback.hits = m.hits := by unfold Strand.rollback; split <;> rfl
@[simp] theorem rollback_missed (m : Strand) : m.rollback.missed = m.missed := by unfold Strand.rollback; split <;> rfl
@[simp] theorem rollback_groups (m : Strand) : m.rollback.groups = m.groups := by unfold Strand.rollback; split <;> rfl
@[simp] theorem rollback_frame (m : Strand) : m.rollback.frame = m.frame := by unfold Strand.rollback; split <;> rfl
@[simp] theorem rollback_core (m : Strand) : m.rollback.core = m.core := by unfold Strand.rollback; split <;> rfl
@[simp] theorem rollback_slot (m : Strand) : m.rollback.slot = m.slot := by unfold Strand.rollback; split <;> rfl
@[simp] theorem rollback_wait (m : Strand) : m.rollback.wait = m.wait := by unfold Strand.rollback; split <;> rfl
@[simp] theorem rollback_owed (m : Strand) : m.rollback.owed = m.owed := by unfold Strand.rollback; split <;> rfl
@[simp] theorem rollback_note (m : Strand) : m.rollback.note = m.note := by unfold Strand.rollback; split <;> rfl
@[simp] theorem rollback_parts (m : Strand) : m.rollback.parts = m.parts := by unfold Strand.rollback; split <;> rfl
@[simp] theorem rollback_going (m : Strand) : m.rollback.going = m.going := by unfold Strand.rollback; split <;> rfl
@[simp] theorem rollback_heldLag (m : Strand) : m.rollback.heldLag = m.heldLag := by unfold Strand.rollback; split <;> rfl
@[simp] theorem rollback_heldLead (m : Strand) : m.rollback.heldLead = m.heldLead := by unfold Strand.rollback; split <;> rfl
@[simp] theorem rollback_inbox (m : Strand) : m.rollback.inbox = m.inbox := by unfold Strand.rollback; split <;> rfl
@[simp] theorem rollback_launch (m : Strand) : m.rollback.launch = m.launch := by unfold Strand.rollback; split <;> rfl
@[simp] theorem rollback_rank (m : Strand) : m.rollback.rank = m.rank := by unfold Strand.rollback; split <;> rfl
@[simp] theorem rollback_count (m : Strand) : m.rollback.count = m.count := by unfold Strand.rollback; split <;> rfl
@[simp] theorem rollback_prio (m : Strand) : m.rollback.prio = m.prio := by unfold Strand.rollback; split <;> rfl
@[simp] theorem rollback_since (m : Strand) : m.rollback.since = m.since := by unfold Strand.rollback; split <;> rfl
@[simp] theorem rollback_queued (m : Strand) : m.rollback.queued = m.queued := by unfold Strand.rollback; split <;> rfl
@[simp] theorem rollback_preempt (m : Strand) : m.rollback.preempt = m.preempt := by unfold Strand.rollback; split <;> rfl
@[simp] theorem rollback_yieldSet (m : Strand) : m.rollback.yieldSet = m.yieldSet := by unfold Strand.rollback; split <;> rfl
@[simp] theorem rollback_stay (m : Strand) : m.rollback.stay = m.stay := by unfold Strand.rollback; split <;> rfl
@[simp] theorem rollback_target (m : Strand) : m.rollback.target = m.target := by unfold Strand.rollback; split <;> rfl
@[simp] theorem rollback_refusal (m : Strand) : m.rollback.refusal = m.refusal := by unfold Strand.rollback; split <;> rfl
@[simp] theorem rollback_leaving (m : Strand) : m.rollback.leaving = m.leaving := by unfold Strand.rollback; split <;> rfl
@[simp] theorem rollback_unreported (m : Strand) : m.rollback.unreported = m.unreported := by unfold Strand.rollback; split <;> rfl
@[simp] theorem rollback_image (m : Strand) : m.rollback.image = m.image := by unfold Strand.rollback; split <;> rfl
@[simp] theorem rollback_imageOldest (m : Strand) : m.rollback.imageOldest = m.imageOldest := by unfold Strand.rollback; split <;> rfl
@[simp] theorem rollback_batchNext (m : Strand) : m.rollback.batchNext = m.batchNext := by unfold Strand.rollback; split <;> rfl
@[simp] theorem rollback_batchOldest (m : Strand) : m.rollback.batchOldest = m.batchOldest := by unfold Strand.rollback; split <;> rfl
@[simp] theorem rollback_batchUsed (m : Strand) : m.rollback.batchUsed = m.batchUsed := by unfold Strand.rollback; split <;> rfl
@[simp] theorem rollback_batchErr (m : Strand) : m.rollback.batchErr = m.batchErr := by unfold Strand.rollback; split <;> rfl
@[simp] theorem rollback_batchStamps (m : Strand) : m.rollback.batchStamps = m.batchStamps := by unfold Strand.rollback; split <;> rfl
@[simp] theorem rollback_fencePast (m : Strand) : m.rollback.fencePast = m.fencePast := by unfold Strand.rollback; split <;> rfl
@[simp] theorem rollback_regionMet (m : Strand) : m.rollback.regionMet = m.regionMet := by unfold Strand.rollback; split <;> rfl
@[simp] theorem rollback_pendingTrap (m : Strand) : m.rollback.pendingTrap = m.pendingTrap := by unfold Strand.rollback; split <;> rfl
@[simp] theorem hold_me_sid (s : State) (q : QueueName) : (s.hold q).me.sid = s.me.sid := rollback_sid s.me
@[simp] theorem hold_me_ctx (s : State) (q : QueueName) : (s.hold q).me.ctx = s.me.ctx := rollback_ctx s.me
@[simp] theorem hold_me_issue (s : State) (q : QueueName) : (s.hold q).me.issue = s.me.issue := rollback_issue s.me
@[simp] theorem hold_me_ts (s : State) (q : QueueName) : (s.hold q).me.ts = s.me.ts := rollback_ts s.me
@[simp] theorem hold_me_hits (s : State) (q : QueueName) : (s.hold q).me.hits = s.me.hits := rollback_hits s.me
@[simp] theorem hold_me_missed (s : State) (q : QueueName) : (s.hold q).me.missed = s.me.missed := rollback_missed s.me
@[simp] theorem hold_me_groups (s : State) (q : QueueName) : (s.hold q).me.groups = s.me.groups := rollback_groups s.me
@[simp] theorem hold_me_core (s : State) (q : QueueName) : (s.hold q).me.core = s.me.core := rollback_core s.me
@[simp] theorem hold_me_slot (s : State) (q : QueueName) : (s.hold q).me.slot = s.me.slot := rollback_slot s.me
@[simp] theorem hold_me_owed (s : State) (q : QueueName) : (s.hold q).me.owed = s.me.owed := rollback_owed s.me
@[simp] theorem hold_me_parts (s : State) (q : QueueName) : (s.hold q).me.parts = s.me.parts := rollback_parts s.me
@[simp] theorem hold_me_going (s : State) (q : QueueName) : (s.hold q).me.going = s.me.going := rollback_going s.me
@[simp] theorem hold_me_heldLag (s : State) (q : QueueName) : (s.hold q).me.heldLag = s.me.heldLag := rollback_heldLag s.me
@[simp] theorem hold_me_heldLead (s : State) (q : QueueName) : (s.hold q).me.heldLead = s.me.heldLead := rollback_heldLead s.me
@[simp] theorem hold_me_inbox (s : State) (q : QueueName) : (s.hold q).me.inbox = s.me.inbox := rollback_inbox s.me
@[simp] theorem hold_me_launch (s : State) (q : QueueName) : (s.hold q).me.launch = s.me.launch := rollback_launch s.me
@[simp] theorem hold_me_rank (s : State) (q : QueueName) : (s.hold q).me.rank = s.me.rank := rollback_rank s.me
@[simp] theorem hold_me_count (s : State) (q : QueueName) : (s.hold q).me.count = s.me.count := rollback_count s.me
@[simp] theorem hold_me_prio (s : State) (q : QueueName) : (s.hold q).me.prio = s.me.prio := rollback_prio s.me
@[simp] theorem hold_me_since (s : State) (q : QueueName) : (s.hold q).me.since = s.me.since := rollback_since s.me
@[simp] theorem hold_me_queued (s : State) (q : QueueName) : (s.hold q).me.queued = s.me.queued := rollback_queued s.me
@[simp] theorem hold_me_preempt (s : State) (q : QueueName) : (s.hold q).me.preempt = s.me.preempt := rollback_preempt s.me
@[simp] theorem hold_me_yieldSet (s : State) (q : QueueName) : (s.hold q).me.yieldSet = s.me.yieldSet := rollback_yieldSet s.me
@[simp] theorem hold_me_stay (s : State) (q : QueueName) : (s.hold q).me.stay = s.me.stay := rollback_stay s.me
@[simp] theorem hold_me_target (s : State) (q : QueueName) : (s.hold q).me.target = s.me.target := rollback_target s.me
@[simp] theorem hold_me_refusal (s : State) (q : QueueName) : (s.hold q).me.refusal = s.me.refusal := rollback_refusal s.me
@[simp] theorem hold_me_leaving (s : State) (q : QueueName) : (s.hold q).me.leaving = s.me.leaving := rollback_leaving s.me
@[simp] theorem hold_me_unreported (s : State) (q : QueueName) : (s.hold q).me.unreported = s.me.unreported := rollback_unreported s.me
@[simp] theorem hold_me_image (s : State) (q : QueueName) : (s.hold q).me.image = s.me.image := rollback_image s.me
@[simp] theorem hold_me_imageOldest (s : State) (q : QueueName) : (s.hold q).me.imageOldest = s.me.imageOldest := rollback_imageOldest s.me
@[simp] theorem hold_me_batchNext (s : State) (q : QueueName) : (s.hold q).me.batchNext = s.me.batchNext := rollback_batchNext s.me
@[simp] theorem hold_me_batchOldest (s : State) (q : QueueName) : (s.hold q).me.batchOldest = s.me.batchOldest := rollback_batchOldest s.me
@[simp] theorem hold_me_batchUsed (s : State) (q : QueueName) : (s.hold q).me.batchUsed = s.me.batchUsed := rollback_batchUsed s.me
@[simp] theorem hold_me_batchErr (s : State) (q : QueueName) : (s.hold q).me.batchErr = s.me.batchErr := rollback_batchErr s.me
@[simp] theorem hold_me_batchStamps (s : State) (q : QueueName) : (s.hold q).me.batchStamps = s.me.batchStamps := rollback_batchStamps s.me
@[simp] theorem hold_me_fencePast (s : State) (q : QueueName) : (s.hold q).me.fencePast = s.me.fencePast := rollback_fencePast s.me
@[simp] theorem hold_me_regionMet (s : State) (q : QueueName) : (s.hold q).me.regionMet = s.me.regionMet := rollback_regionMet s.me
@[simp] theorem hold_me_pendingTrap (s : State) (q : QueueName) : (s.hold q).me.pendingTrap = s.me.pendingTrap := rollback_pendingTrap s.me
@[simp] theorem waitOther_me_sid (s : State)  : (s.waitOther).me.sid = s.me.sid := rollback_sid s.me
@[simp] theorem waitOther_me_ctx (s : State)  : (s.waitOther).me.ctx = s.me.ctx := rollback_ctx s.me
@[simp] theorem waitOther_me_issue (s : State)  : (s.waitOther).me.issue = s.me.issue := rollback_issue s.me
@[simp] theorem waitOther_me_ts (s : State)  : (s.waitOther).me.ts = s.me.ts := rollback_ts s.me
@[simp] theorem waitOther_me_hits (s : State)  : (s.waitOther).me.hits = s.me.hits := rollback_hits s.me
@[simp] theorem waitOther_me_missed (s : State)  : (s.waitOther).me.missed = s.me.missed := rollback_missed s.me
@[simp] theorem waitOther_me_groups (s : State)  : (s.waitOther).me.groups = s.me.groups := rollback_groups s.me
@[simp] theorem waitOther_me_core (s : State)  : (s.waitOther).me.core = s.me.core := rollback_core s.me
@[simp] theorem waitOther_me_slot (s : State)  : (s.waitOther).me.slot = s.me.slot := rollback_slot s.me
@[simp] theorem waitOther_me_owed (s : State)  : (s.waitOther).me.owed = s.me.owed := rollback_owed s.me
@[simp] theorem waitOther_me_parts (s : State)  : (s.waitOther).me.parts = s.me.parts := rollback_parts s.me
@[simp] theorem waitOther_me_going (s : State)  : (s.waitOther).me.going = s.me.going := rollback_going s.me
@[simp] theorem waitOther_me_heldLag (s : State)  : (s.waitOther).me.heldLag = s.me.heldLag := rollback_heldLag s.me
@[simp] theorem waitOther_me_heldLead (s : State)  : (s.waitOther).me.heldLead = s.me.heldLead := rollback_heldLead s.me
@[simp] theorem waitOther_me_inbox (s : State)  : (s.waitOther).me.inbox = s.me.inbox := rollback_inbox s.me
@[simp] theorem waitOther_me_launch (s : State)  : (s.waitOther).me.launch = s.me.launch := rollback_launch s.me
@[simp] theorem waitOther_me_rank (s : State)  : (s.waitOther).me.rank = s.me.rank := rollback_rank s.me
@[simp] theorem waitOther_me_count (s : State)  : (s.waitOther).me.count = s.me.count := rollback_count s.me
@[simp] theorem waitOther_me_prio (s : State)  : (s.waitOther).me.prio = s.me.prio := rollback_prio s.me
@[simp] theorem waitOther_me_since (s : State)  : (s.waitOther).me.since = s.me.since := rollback_since s.me
@[simp] theorem waitOther_me_queued (s : State)  : (s.waitOther).me.queued = s.me.queued := rollback_queued s.me
@[simp] theorem waitOther_me_preempt (s : State)  : (s.waitOther).me.preempt = s.me.preempt := rollback_preempt s.me
@[simp] theorem waitOther_me_yieldSet (s : State)  : (s.waitOther).me.yieldSet = s.me.yieldSet := rollback_yieldSet s.me
@[simp] theorem waitOther_me_stay (s : State)  : (s.waitOther).me.stay = s.me.stay := rollback_stay s.me
@[simp] theorem waitOther_me_target (s : State)  : (s.waitOther).me.target = s.me.target := rollback_target s.me
@[simp] theorem waitOther_me_refusal (s : State)  : (s.waitOther).me.refusal = s.me.refusal := rollback_refusal s.me
@[simp] theorem waitOther_me_leaving (s : State)  : (s.waitOther).me.leaving = s.me.leaving := rollback_leaving s.me
@[simp] theorem waitOther_me_unreported (s : State)  : (s.waitOther).me.unreported = s.me.unreported := rollback_unreported s.me
@[simp] theorem waitOther_me_image (s : State)  : (s.waitOther).me.image = s.me.image := rollback_image s.me
@[simp] theorem waitOther_me_imageOldest (s : State)  : (s.waitOther).me.imageOldest = s.me.imageOldest := rollback_imageOldest s.me
@[simp] theorem waitOther_me_batchNext (s : State)  : (s.waitOther).me.batchNext = s.me.batchNext := rollback_batchNext s.me
@[simp] theorem waitOther_me_batchOldest (s : State)  : (s.waitOther).me.batchOldest = s.me.batchOldest := rollback_batchOldest s.me
@[simp] theorem waitOther_me_batchUsed (s : State)  : (s.waitOther).me.batchUsed = s.me.batchUsed := rollback_batchUsed s.me
@[simp] theorem waitOther_me_batchErr (s : State)  : (s.waitOther).me.batchErr = s.me.batchErr := rollback_batchErr s.me
@[simp] theorem waitOther_me_batchStamps (s : State)  : (s.waitOther).me.batchStamps = s.me.batchStamps := rollback_batchStamps s.me
@[simp] theorem waitOther_me_fencePast (s : State)  : (s.waitOther).me.fencePast = s.me.fencePast := rollback_fencePast s.me
@[simp] theorem waitOther_me_regionMet (s : State)  : (s.waitOther).me.regionMet = s.me.regionMet := rollback_regionMet s.me
@[simp] theorem waitOther_me_pendingTrap (s : State)  : (s.waitOther).me.pendingTrap = s.me.pendingTrap := rollback_pendingTrap s.me
@[simp] theorem block_me_sid (s : State)  : (s.block).me.sid = s.me.sid := rollback_sid s.me
@[simp] theorem block_me_ctx (s : State)  : (s.block).me.ctx = s.me.ctx := rollback_ctx s.me
@[simp] theorem block_me_issue (s : State)  : (s.block).me.issue = s.me.issue := rollback_issue s.me
@[simp] theorem block_me_ts (s : State)  : (s.block).me.ts = s.me.ts := rollback_ts s.me
@[simp] theorem block_me_hits (s : State)  : (s.block).me.hits = s.me.hits := rollback_hits s.me
@[simp] theorem block_me_missed (s : State)  : (s.block).me.missed = s.me.missed := rollback_missed s.me
@[simp] theorem block_me_groups (s : State)  : (s.block).me.groups = s.me.groups := rollback_groups s.me
@[simp] theorem block_me_core (s : State)  : (s.block).me.core = s.me.core := rollback_core s.me
@[simp] theorem block_me_slot (s : State)  : (s.block).me.slot = s.me.slot := rollback_slot s.me
@[simp] theorem block_me_owed (s : State)  : (s.block).me.owed = s.me.owed := rollback_owed s.me
@[simp] theorem block_me_parts (s : State)  : (s.block).me.parts = s.me.parts := rollback_parts s.me
@[simp] theorem block_me_going (s : State)  : (s.block).me.going = s.me.going := rollback_going s.me
@[simp] theorem block_me_heldLag (s : State)  : (s.block).me.heldLag = s.me.heldLag := rollback_heldLag s.me
@[simp] theorem block_me_heldLead (s : State)  : (s.block).me.heldLead = s.me.heldLead := rollback_heldLead s.me
@[simp] theorem block_me_inbox (s : State)  : (s.block).me.inbox = s.me.inbox := rollback_inbox s.me
@[simp] theorem block_me_launch (s : State)  : (s.block).me.launch = s.me.launch := rollback_launch s.me
@[simp] theorem block_me_rank (s : State)  : (s.block).me.rank = s.me.rank := rollback_rank s.me
@[simp] theorem block_me_count (s : State)  : (s.block).me.count = s.me.count := rollback_count s.me
@[simp] theorem block_me_prio (s : State)  : (s.block).me.prio = s.me.prio := rollback_prio s.me
@[simp] theorem block_me_since (s : State)  : (s.block).me.since = s.me.since := rollback_since s.me
@[simp] theorem block_me_queued (s : State)  : (s.block).me.queued = s.me.queued := rollback_queued s.me
@[simp] theorem block_me_preempt (s : State)  : (s.block).me.preempt = s.me.preempt := rollback_preempt s.me
@[simp] theorem block_me_yieldSet (s : State)  : (s.block).me.yieldSet = s.me.yieldSet := rollback_yieldSet s.me
@[simp] theorem block_me_stay (s : State)  : (s.block).me.stay = s.me.stay := rollback_stay s.me
@[simp] theorem block_me_target (s : State)  : (s.block).me.target = s.me.target := rollback_target s.me
@[simp] theorem block_me_refusal (s : State)  : (s.block).me.refusal = s.me.refusal := rollback_refusal s.me
@[simp] theorem block_me_leaving (s : State)  : (s.block).me.leaving = s.me.leaving := rollback_leaving s.me
@[simp] theorem block_me_unreported (s : State)  : (s.block).me.unreported = s.me.unreported := rollback_unreported s.me
@[simp] theorem block_me_image (s : State)  : (s.block).me.image = s.me.image := rollback_image s.me
@[simp] theorem block_me_imageOldest (s : State)  : (s.block).me.imageOldest = s.me.imageOldest := rollback_imageOldest s.me
@[simp] theorem block_me_batchNext (s : State)  : (s.block).me.batchNext = s.me.batchNext := rollback_batchNext s.me
@[simp] theorem block_me_batchOldest (s : State)  : (s.block).me.batchOldest = s.me.batchOldest := rollback_batchOldest s.me
@[simp] theorem block_me_batchUsed (s : State)  : (s.block).me.batchUsed = s.me.batchUsed := rollback_batchUsed s.me
@[simp] theorem block_me_batchErr (s : State)  : (s.block).me.batchErr = s.me.batchErr := rollback_batchErr s.me
@[simp] theorem block_me_batchStamps (s : State)  : (s.block).me.batchStamps = s.me.batchStamps := rollback_batchStamps s.me
@[simp] theorem block_me_fencePast (s : State)  : (s.block).me.fencePast = s.me.fencePast := rollback_fencePast s.me
@[simp] theorem block_me_regionMet (s : State)  : (s.block).me.regionMet = s.me.regionMet := rollback_regionMet s.me
@[simp] theorem block_me_pendingTrap (s : State)  : (s.block).me.pendingTrap = s.me.pendingTrap := rollback_pendingTrap s.me
@[simp] theorem park_me_sid (s : State) (w : Wait) : (s.park w).me.sid = s.me.sid := rollback_sid s.me
@[simp] theorem park_me_ctx (s : State) (w : Wait) : (s.park w).me.ctx = s.me.ctx := rollback_ctx s.me
@[simp] theorem park_me_issue (s : State) (w : Wait) : (s.park w).me.issue = s.me.issue := rollback_issue s.me
@[simp] theorem park_me_ts (s : State) (w : Wait) : (s.park w).me.ts = s.me.ts := rollback_ts s.me
@[simp] theorem park_me_hits (s : State) (w : Wait) : (s.park w).me.hits = s.me.hits := rollback_hits s.me
@[simp] theorem park_me_missed (s : State) (w : Wait) : (s.park w).me.missed = s.me.missed := rollback_missed s.me
@[simp] theorem park_me_groups (s : State) (w : Wait) : (s.park w).me.groups = s.me.groups := rollback_groups s.me
@[simp] theorem park_me_core (s : State) (w : Wait) : (s.park w).me.core = s.me.core := rollback_core s.me
@[simp] theorem park_me_slot (s : State) (w : Wait) : (s.park w).me.slot = s.me.slot := rollback_slot s.me
@[simp] theorem park_me_owed (s : State) (w : Wait) : (s.park w).me.owed = s.me.owed := rollback_owed s.me
@[simp] theorem park_me_parts (s : State) (w : Wait) : (s.park w).me.parts = s.me.parts := rollback_parts s.me
@[simp] theorem park_me_going (s : State) (w : Wait) : (s.park w).me.going = s.me.going := rollback_going s.me
@[simp] theorem park_me_heldLag (s : State) (w : Wait) : (s.park w).me.heldLag = s.me.heldLag := rollback_heldLag s.me
@[simp] theorem park_me_heldLead (s : State) (w : Wait) : (s.park w).me.heldLead = s.me.heldLead := rollback_heldLead s.me
@[simp] theorem park_me_inbox (s : State) (w : Wait) : (s.park w).me.inbox = s.me.inbox := rollback_inbox s.me
@[simp] theorem park_me_launch (s : State) (w : Wait) : (s.park w).me.launch = s.me.launch := rollback_launch s.me
@[simp] theorem park_me_rank (s : State) (w : Wait) : (s.park w).me.rank = s.me.rank := rollback_rank s.me
@[simp] theorem park_me_count (s : State) (w : Wait) : (s.park w).me.count = s.me.count := rollback_count s.me
@[simp] theorem park_me_prio (s : State) (w : Wait) : (s.park w).me.prio = s.me.prio := rollback_prio s.me
@[simp] theorem park_me_since (s : State) (w : Wait) : (s.park w).me.since = s.me.since := rollback_since s.me
@[simp] theorem park_me_queued (s : State) (w : Wait) : (s.park w).me.queued = s.me.queued := rollback_queued s.me
@[simp] theorem park_me_preempt (s : State) (w : Wait) : (s.park w).me.preempt = s.me.preempt := rollback_preempt s.me
@[simp] theorem park_me_yieldSet (s : State) (w : Wait) : (s.park w).me.yieldSet = s.me.yieldSet := rollback_yieldSet s.me
@[simp] theorem park_me_stay (s : State) (w : Wait) : (s.park w).me.stay = s.me.stay := rollback_stay s.me
@[simp] theorem park_me_target (s : State) (w : Wait) : (s.park w).me.target = s.me.target := rollback_target s.me
@[simp] theorem park_me_refusal (s : State) (w : Wait) : (s.park w).me.refusal = s.me.refusal := rollback_refusal s.me
@[simp] theorem park_me_leaving (s : State) (w : Wait) : (s.park w).me.leaving = s.me.leaving := rollback_leaving s.me
@[simp] theorem park_me_unreported (s : State) (w : Wait) : (s.park w).me.unreported = s.me.unreported := rollback_unreported s.me
@[simp] theorem park_me_image (s : State) (w : Wait) : (s.park w).me.image = s.me.image := rollback_image s.me
@[simp] theorem park_me_imageOldest (s : State) (w : Wait) : (s.park w).me.imageOldest = s.me.imageOldest := rollback_imageOldest s.me
@[simp] theorem park_me_batchNext (s : State) (w : Wait) : (s.park w).me.batchNext = s.me.batchNext := rollback_batchNext s.me
@[simp] theorem park_me_batchOldest (s : State) (w : Wait) : (s.park w).me.batchOldest = s.me.batchOldest := rollback_batchOldest s.me
@[simp] theorem park_me_batchUsed (s : State) (w : Wait) : (s.park w).me.batchUsed = s.me.batchUsed := rollback_batchUsed s.me
@[simp] theorem park_me_batchErr (s : State) (w : Wait) : (s.park w).me.batchErr = s.me.batchErr := rollback_batchErr s.me
@[simp] theorem park_me_batchStamps (s : State) (w : Wait) : (s.park w).me.batchStamps = s.me.batchStamps := rollback_batchStamps s.me
@[simp] theorem park_me_fencePast (s : State) (w : Wait) : (s.park w).me.fencePast = s.me.fencePast := rollback_fencePast s.me
@[simp] theorem park_me_regionMet (s : State) (w : Wait) : (s.park w).me.regionMet = s.me.regionMet := rollback_regionMet s.me
@[simp] theorem park_me_pendingTrap (s : State) (w : Wait) : (s.park w).me.pendingTrap = s.me.pendingTrap := rollback_pendingTrap s.me

/-! The tables of cores, masters and routing engines: an update changes one table. -/

@[simp] theorem setCore_me (s : State) (c : Nat) (v : CoreState) : (s.setCore c v).me = s.me := rfl
@[simp] theorem setCore_others (s : State) (c : Nat) (v : CoreState) : (s.setCore c v).others = s.others := rfl
@[simp] theorem setCore_mem (s : State) (c : Nat) (v : CoreState) : (s.setCore c v).mem = s.mem := rfl
@[simp] theorem setCore_stamps (s : State) (c : Nat) (v : CoreState) : (s.setCore c v).stamps = s.stamps := rfl
@[simp] theorem setCore_floors (s : State) (c : Nat) (v : CoreState) : (s.setCore c v).floors = s.floors := rfl
@[simp] theorem setCore_marks (s : State) (c : Nat) (v : CoreState) : (s.setCore c v).marks = s.marks := rfl
@[simp] theorem setCore_l2 (s : State) (c : Nat) (v : CoreState) : (s.setCore c v).l2 = s.l2 := rfl
@[simp] theorem setCore_fillMask (s : State) (c : Nat) (v : CoreState) : (s.setCore c v).fillMask = s.fillMask := rfl
@[simp] theorem setCore_clusterTlb (s : State) (c : Nat) (v : CoreState) : (s.setCore c v).clusterTlb = s.clusterTlb := rfl
@[simp] theorem setCore_hostCache (s : State) (c : Nat) (v : CoreState) : (s.setCore c v).hostCache = s.hostCache := rfl
@[simp] theorem setCore_host (s : State) (c : Nat) (v : CoreState) : (s.setCore c v).host = s.host := rfl
@[simp] theorem setCore_pushes (s : State) (c : Nat) (v : CoreState) : (s.setCore c v).pushes = s.pushes := rfl
@[simp] theorem setCore_latest (s : State) (c : Nat) (v : CoreState) : (s.setCore c v).latest = s.latest := rfl
@[simp] theorem setCore_remoteOps (s : State) (c : Nat) (v : CoreState) : (s.setCore c v).remoteOps = s.remoteOps := rfl
@[simp] theorem setCore_outsideWaits (s : State) (c : Nat) (v : CoreState) : (s.setCore c v).outsideWaits = s.outsideWaits := rfl
@[simp] theorem setCore_outsideOffers (s : State) (c : Nat) (v : CoreState) : (s.setCore c v).outsideOffers = s.outsideOffers := rfl
@[simp] theorem setCore_writers (s : State) (c : Nat) (v : CoreState) : (s.setCore c v).writers = s.writers := rfl
@[simp] theorem setCore_shorts (s : State) (c : Nat) (v : CoreState) : (s.setCore c v).shorts = s.shorts := rfl
@[simp] theorem setCore_resuming (s : State) (c : Nat) (v : CoreState) : (s.setCore c v).resuming = s.resuming := rfl
@[simp] theorem setCore_segments (s : State) (c : Nat) (v : CoreState) : (s.setCore c v).segments = s.segments := rfl
@[simp] theorem setCore_matrix (s : State) (c : Nat) (v : CoreState) : (s.setCore c v).matrix = s.matrix := rfl
@[simp] theorem setCore_copies (s : State) (c : Nat) (v : CoreState) : (s.setCore c v).copies = s.copies := rfl
@[simp] theorem setCore_counters (s : State) (c : Nat) (v : CoreState) : (s.setCore c v).counters = s.counters := rfl
@[simp] theorem setCore_arrivals (s : State) (c : Nat) (v : CoreState) : (s.setCore c v).arrivals = s.arrivals := rfl
@[simp] theorem setCore_routers (s : State) (c : Nat) (v : CoreState) : (s.setCore c v).routers = s.routers := rfl
@[simp] theorem setCore_routeSeqs (s : State) (c : Nat) (v : CoreState) : (s.setCore c v).routeSeqs = s.routeSeqs := rfl
@[simp] theorem setCore_routeHomes (s : State) (c : Nat) (v : CoreState) : (s.setCore c v).routeHomes = s.routeHomes := rfl
@[simp] theorem setCore_masters (s : State) (c : Nat) (v : CoreState) : (s.setCore c v).masters = s.masters := rfl
@[simp] theorem setCore_collSeqs (s : State) (c : Nat) (v : CoreState) : (s.setCore c v).collSeqs = s.collSeqs := rfl
@[simp] theorem setCore_coords (s : State) (c : Nat) (v : CoreState) : (s.setCore c v).coords = s.coords := rfl
@[simp] theorem setCore_sessions (s : State) (c : Nat) (v : CoreState) : (s.setCore c v).sessions = s.sessions := rfl
@[simp] theorem setCore_portAddrs (s : State) (c : Nat) (v : CoreState) : (s.setCore c v).portAddrs = s.portAddrs := rfl
@[simp] theorem setCore_laneCounts (s : State) (c : Nat) (v : CoreState) : (s.setCore c v).laneCounts = s.laneCounts := rfl
@[simp] theorem setCore_remTimeout (s : State) (c : Nat) (v : CoreState) : (s.setCore c v).remTimeout = s.remTimeout := rfl
@[simp] theorem setCore_remDeny (s : State) (c : Nat) (v : CoreState) : (s.setCore c v).remDeny = s.remDeny := rfl
@[simp] theorem setCore_gens (s : State) (c : Nat) (v : CoreState) : (s.setCore c v).gens = s.gens := rfl
@[simp] theorem setCore_anchors (s : State) (c : Nat) (v : CoreState) : (s.setCore c v).anchors = s.anchors := rfl
@[simp] theorem setCore_savedTiles (s : State) (c : Nat) (v : CoreState) : (s.setCore c v).savedTiles = s.savedTiles := rfl
@[simp] theorem setCore_queues (s : State) (c : Nat) (v : CoreState) : (s.setCore c v).queues = s.queues := rfl
@[simp] theorem setCore_wayMasks (s : State) (c : Nat) (v : CoreState) : (s.setCore c v).wayMasks = s.wayMasks := rfl
@[simp] theorem setCore_hdmBase (s : State) (c : Nat) (v : CoreState) : (s.setCore c v).hdmBase = s.hdmBase := rfl
@[simp] theorem setCore_always (s : State) (c : Nat) (v : CoreState) : (s.setCore c v).always = s.always := rfl
@[simp] theorem setCore_gated (s : State) (c : Nat) (v : CoreState) : (s.setCore c v).gated = s.gated := rfl
@[simp] theorem setCore_ports (s : State) (c : Nat) (v : CoreState) : (s.setCore c v).ports = s.ports := rfl
@[simp] theorem setCore_tickSource (s : State) (c : Nat) (v : CoreState) : (s.setCore c v).tickSource = s.tickSource := rfl
@[simp] theorem setCore_lastTickFlit (s : State) (c : Nat) (v : CoreState) : (s.setCore c v).lastTickFlit = s.lastTickFlit := rfl
@[simp] theorem setCore_hostAnswer (s : State) (c : Nat) (v : CoreState) : (s.setCore c v).hostAnswer = s.hostAnswer := rfl
@[simp] theorem setCore_parts (s : State) (c : Nat) (v : CoreState) : (s.setCore c v).parts = s.parts := rfl
@[simp] theorem setCore_launches (s : State) (c : Nat) (v : CoreState) : (s.setCore c v).launches = s.launches := rfl
@[simp] theorem setCore_revoked (s : State) (c : Nat) (v : CoreState) : (s.setCore c v).revoked = s.revoked := rfl
@[simp] theorem setCore_sags (s : State) (c : Nat) (v : CoreState) : (s.setCore c v).sags = s.sags := rfl
@[simp] theorem setCore_tick (s : State) (c : Nat) (v : CoreState) : (s.setCore c v).tick = s.tick := rfl
@[simp] theorem setCore_mesh (s : State) (c : Nat) (v : CoreState) : (s.setCore c v).mesh = s.mesh := rfl
@[simp] theorem setCore_rw (s : State) (c : Nat) (v : CoreState) : (s.setCore c v).rw = s.rw := rfl
@[simp] theorem setCore_fences (s : State) (c : Nat) (v : CoreState) : (s.setCore c v).fences = s.fences := rfl
@[simp] theorem setCore_pkg (s : State) (c : Nat) (v : CoreState) : (s.setCore c v).pkg = s.pkg := rfl
@[simp] theorem setCore_routes (s : State) (c : Nat) (v : CoreState) : (s.setCore c v).routes = s.routes := rfl
@[simp] theorem setCore_pending (s : State) (c : Nat) (v : CoreState) : (s.setCore c v).pending = s.pending := rfl
@[simp] theorem setCore_turns (s : State) (c : Nat) (v : CoreState) : (s.setCore c v).turns = s.turns := rfl
@[simp] theorem setCore_burst (s : State) (c : Nat) (v : CoreState) : (s.setCore c v).burst = s.burst := rfl
@[simp] theorem setCore_ahead (s : State) (c : Nat) (v : CoreState) : (s.setCore c v).ahead = s.ahead := rfl
@[simp] theorem setCore_free (s : State) (c : Nat) (v : CoreState) : (s.setCore c v).free = s.free := rfl
@[simp] theorem setCore_clock (s : State) (c : Nat) (v : CoreState) : (s.setCore c v).clock = s.clock := rfl
@[simp] theorem setMaster_me (s : State) (k : Nat) (m : CollMaster) : (s.setMaster k m).me = s.me := rfl
@[simp] theorem setMaster_others (s : State) (k : Nat) (m : CollMaster) : (s.setMaster k m).others = s.others := rfl
@[simp] theorem setMaster_mem (s : State) (k : Nat) (m : CollMaster) : (s.setMaster k m).mem = s.mem := rfl
@[simp] theorem setMaster_stamps (s : State) (k : Nat) (m : CollMaster) : (s.setMaster k m).stamps = s.stamps := rfl
@[simp] theorem setMaster_floors (s : State) (k : Nat) (m : CollMaster) : (s.setMaster k m).floors = s.floors := rfl
@[simp] theorem setMaster_marks (s : State) (k : Nat) (m : CollMaster) : (s.setMaster k m).marks = s.marks := rfl
@[simp] theorem setMaster_l2 (s : State) (k : Nat) (m : CollMaster) : (s.setMaster k m).l2 = s.l2 := rfl
@[simp] theorem setMaster_fillMask (s : State) (k : Nat) (m : CollMaster) : (s.setMaster k m).fillMask = s.fillMask := rfl
@[simp] theorem setMaster_clusterTlb (s : State) (k : Nat) (m : CollMaster) : (s.setMaster k m).clusterTlb = s.clusterTlb := rfl
@[simp] theorem setMaster_hostCache (s : State) (k : Nat) (m : CollMaster) : (s.setMaster k m).hostCache = s.hostCache := rfl
@[simp] theorem setMaster_host (s : State) (k : Nat) (m : CollMaster) : (s.setMaster k m).host = s.host := rfl
@[simp] theorem setMaster_pushes (s : State) (k : Nat) (m : CollMaster) : (s.setMaster k m).pushes = s.pushes := rfl
@[simp] theorem setMaster_latest (s : State) (k : Nat) (m : CollMaster) : (s.setMaster k m).latest = s.latest := rfl
@[simp] theorem setMaster_remoteOps (s : State) (k : Nat) (m : CollMaster) : (s.setMaster k m).remoteOps = s.remoteOps := rfl
@[simp] theorem setMaster_outsideWaits (s : State) (k : Nat) (m : CollMaster) : (s.setMaster k m).outsideWaits = s.outsideWaits := rfl
@[simp] theorem setMaster_outsideOffers (s : State) (k : Nat) (m : CollMaster) : (s.setMaster k m).outsideOffers = s.outsideOffers := rfl
@[simp] theorem setMaster_writers (s : State) (k : Nat) (m : CollMaster) : (s.setMaster k m).writers = s.writers := rfl
@[simp] theorem setMaster_cores (s : State) (k : Nat) (m : CollMaster) : (s.setMaster k m).cores = s.cores := rfl
@[simp] theorem setMaster_shorts (s : State) (k : Nat) (m : CollMaster) : (s.setMaster k m).shorts = s.shorts := rfl
@[simp] theorem setMaster_resuming (s : State) (k : Nat) (m : CollMaster) : (s.setMaster k m).resuming = s.resuming := rfl
@[simp] theorem setMaster_segments (s : State) (k : Nat) (m : CollMaster) : (s.setMaster k m).segments = s.segments := rfl
@[simp] theorem setMaster_matrix (s : State) (k : Nat) (m : CollMaster) : (s.setMaster k m).matrix = s.matrix := rfl
@[simp] theorem setMaster_copies (s : State) (k : Nat) (m : CollMaster) : (s.setMaster k m).copies = s.copies := rfl
@[simp] theorem setMaster_counters (s : State) (k : Nat) (m : CollMaster) : (s.setMaster k m).counters = s.counters := rfl
@[simp] theorem setMaster_arrivals (s : State) (k : Nat) (m : CollMaster) : (s.setMaster k m).arrivals = s.arrivals := rfl
@[simp] theorem setMaster_routers (s : State) (k : Nat) (m : CollMaster) : (s.setMaster k m).routers = s.routers := rfl
@[simp] theorem setMaster_routeSeqs (s : State) (k : Nat) (m : CollMaster) : (s.setMaster k m).routeSeqs = s.routeSeqs := rfl
@[simp] theorem setMaster_routeHomes (s : State) (k : Nat) (m : CollMaster) : (s.setMaster k m).routeHomes = s.routeHomes := rfl
@[simp] theorem setMaster_collSeqs (s : State) (k : Nat) (m : CollMaster) : (s.setMaster k m).collSeqs = s.collSeqs := rfl
@[simp] theorem setMaster_coords (s : State) (k : Nat) (m : CollMaster) : (s.setMaster k m).coords = s.coords := rfl
@[simp] theorem setMaster_sessions (s : State) (k : Nat) (m : CollMaster) : (s.setMaster k m).sessions = s.sessions := rfl
@[simp] theorem setMaster_portAddrs (s : State) (k : Nat) (m : CollMaster) : (s.setMaster k m).portAddrs = s.portAddrs := rfl
@[simp] theorem setMaster_laneCounts (s : State) (k : Nat) (m : CollMaster) : (s.setMaster k m).laneCounts = s.laneCounts := rfl
@[simp] theorem setMaster_remTimeout (s : State) (k : Nat) (m : CollMaster) : (s.setMaster k m).remTimeout = s.remTimeout := rfl
@[simp] theorem setMaster_remDeny (s : State) (k : Nat) (m : CollMaster) : (s.setMaster k m).remDeny = s.remDeny := rfl
@[simp] theorem setMaster_gens (s : State) (k : Nat) (m : CollMaster) : (s.setMaster k m).gens = s.gens := rfl
@[simp] theorem setMaster_anchors (s : State) (k : Nat) (m : CollMaster) : (s.setMaster k m).anchors = s.anchors := rfl
@[simp] theorem setMaster_savedTiles (s : State) (k : Nat) (m : CollMaster) : (s.setMaster k m).savedTiles = s.savedTiles := rfl
@[simp] theorem setMaster_queues (s : State) (k : Nat) (m : CollMaster) : (s.setMaster k m).queues = s.queues := rfl
@[simp] theorem setMaster_wayMasks (s : State) (k : Nat) (m : CollMaster) : (s.setMaster k m).wayMasks = s.wayMasks := rfl
@[simp] theorem setMaster_hdmBase (s : State) (k : Nat) (m : CollMaster) : (s.setMaster k m).hdmBase = s.hdmBase := rfl
@[simp] theorem setMaster_always (s : State) (k : Nat) (m : CollMaster) : (s.setMaster k m).always = s.always := rfl
@[simp] theorem setMaster_gated (s : State) (k : Nat) (m : CollMaster) : (s.setMaster k m).gated = s.gated := rfl
@[simp] theorem setMaster_ports (s : State) (k : Nat) (m : CollMaster) : (s.setMaster k m).ports = s.ports := rfl
@[simp] theorem setMaster_tickSource (s : State) (k : Nat) (m : CollMaster) : (s.setMaster k m).tickSource = s.tickSource := rfl
@[simp] theorem setMaster_lastTickFlit (s : State) (k : Nat) (m : CollMaster) : (s.setMaster k m).lastTickFlit = s.lastTickFlit := rfl
@[simp] theorem setMaster_hostAnswer (s : State) (k : Nat) (m : CollMaster) : (s.setMaster k m).hostAnswer = s.hostAnswer := rfl
@[simp] theorem setMaster_parts (s : State) (k : Nat) (m : CollMaster) : (s.setMaster k m).parts = s.parts := rfl
@[simp] theorem setMaster_launches (s : State) (k : Nat) (m : CollMaster) : (s.setMaster k m).launches = s.launches := rfl
@[simp] theorem setMaster_revoked (s : State) (k : Nat) (m : CollMaster) : (s.setMaster k m).revoked = s.revoked := rfl
@[simp] theorem setMaster_sags (s : State) (k : Nat) (m : CollMaster) : (s.setMaster k m).sags = s.sags := rfl
@[simp] theorem setMaster_tick (s : State) (k : Nat) (m : CollMaster) : (s.setMaster k m).tick = s.tick := rfl
@[simp] theorem setMaster_mesh (s : State) (k : Nat) (m : CollMaster) : (s.setMaster k m).mesh = s.mesh := rfl
@[simp] theorem setMaster_rw (s : State) (k : Nat) (m : CollMaster) : (s.setMaster k m).rw = s.rw := rfl
@[simp] theorem setMaster_fences (s : State) (k : Nat) (m : CollMaster) : (s.setMaster k m).fences = s.fences := rfl
@[simp] theorem setMaster_pkg (s : State) (k : Nat) (m : CollMaster) : (s.setMaster k m).pkg = s.pkg := rfl
@[simp] theorem setMaster_routes (s : State) (k : Nat) (m : CollMaster) : (s.setMaster k m).routes = s.routes := rfl
@[simp] theorem setMaster_pending (s : State) (k : Nat) (m : CollMaster) : (s.setMaster k m).pending = s.pending := rfl
@[simp] theorem setMaster_turns (s : State) (k : Nat) (m : CollMaster) : (s.setMaster k m).turns = s.turns := rfl
@[simp] theorem setMaster_burst (s : State) (k : Nat) (m : CollMaster) : (s.setMaster k m).burst = s.burst := rfl
@[simp] theorem setMaster_ahead (s : State) (k : Nat) (m : CollMaster) : (s.setMaster k m).ahead = s.ahead := rfl
@[simp] theorem setMaster_free (s : State) (k : Nat) (m : CollMaster) : (s.setMaster k m).free = s.free := rfl
@[simp] theorem setMaster_clock (s : State) (k : Nat) (m : CollMaster) : (s.setMaster k m).clock = s.clock := rfl
@[simp] theorem setRouter_me (s : State) (d : Nat) (r : RouteEngine) : (s.setRouter d r).me = s.me := rfl
@[simp] theorem setRouter_others (s : State) (d : Nat) (r : RouteEngine) : (s.setRouter d r).others = s.others := rfl
@[simp] theorem setRouter_mem (s : State) (d : Nat) (r : RouteEngine) : (s.setRouter d r).mem = s.mem := rfl
@[simp] theorem setRouter_stamps (s : State) (d : Nat) (r : RouteEngine) : (s.setRouter d r).stamps = s.stamps := rfl
@[simp] theorem setRouter_floors (s : State) (d : Nat) (r : RouteEngine) : (s.setRouter d r).floors = s.floors := rfl
@[simp] theorem setRouter_marks (s : State) (d : Nat) (r : RouteEngine) : (s.setRouter d r).marks = s.marks := rfl
@[simp] theorem setRouter_l2 (s : State) (d : Nat) (r : RouteEngine) : (s.setRouter d r).l2 = s.l2 := rfl
@[simp] theorem setRouter_fillMask (s : State) (d : Nat) (r : RouteEngine) : (s.setRouter d r).fillMask = s.fillMask := rfl
@[simp] theorem setRouter_clusterTlb (s : State) (d : Nat) (r : RouteEngine) : (s.setRouter d r).clusterTlb = s.clusterTlb := rfl
@[simp] theorem setRouter_hostCache (s : State) (d : Nat) (r : RouteEngine) : (s.setRouter d r).hostCache = s.hostCache := rfl
@[simp] theorem setRouter_host (s : State) (d : Nat) (r : RouteEngine) : (s.setRouter d r).host = s.host := rfl
@[simp] theorem setRouter_pushes (s : State) (d : Nat) (r : RouteEngine) : (s.setRouter d r).pushes = s.pushes := rfl
@[simp] theorem setRouter_latest (s : State) (d : Nat) (r : RouteEngine) : (s.setRouter d r).latest = s.latest := rfl
@[simp] theorem setRouter_remoteOps (s : State) (d : Nat) (r : RouteEngine) : (s.setRouter d r).remoteOps = s.remoteOps := rfl
@[simp] theorem setRouter_outsideWaits (s : State) (d : Nat) (r : RouteEngine) : (s.setRouter d r).outsideWaits = s.outsideWaits := rfl
@[simp] theorem setRouter_outsideOffers (s : State) (d : Nat) (r : RouteEngine) : (s.setRouter d r).outsideOffers = s.outsideOffers := rfl
@[simp] theorem setRouter_writers (s : State) (d : Nat) (r : RouteEngine) : (s.setRouter d r).writers = s.writers := rfl
@[simp] theorem setRouter_cores (s : State) (d : Nat) (r : RouteEngine) : (s.setRouter d r).cores = s.cores := rfl
@[simp] theorem setRouter_shorts (s : State) (d : Nat) (r : RouteEngine) : (s.setRouter d r).shorts = s.shorts := rfl
@[simp] theorem setRouter_resuming (s : State) (d : Nat) (r : RouteEngine) : (s.setRouter d r).resuming = s.resuming := rfl
@[simp] theorem setRouter_segments (s : State) (d : Nat) (r : RouteEngine) : (s.setRouter d r).segments = s.segments := rfl
@[simp] theorem setRouter_matrix (s : State) (d : Nat) (r : RouteEngine) : (s.setRouter d r).matrix = s.matrix := rfl
@[simp] theorem setRouter_copies (s : State) (d : Nat) (r : RouteEngine) : (s.setRouter d r).copies = s.copies := rfl
@[simp] theorem setRouter_counters (s : State) (d : Nat) (r : RouteEngine) : (s.setRouter d r).counters = s.counters := rfl
@[simp] theorem setRouter_arrivals (s : State) (d : Nat) (r : RouteEngine) : (s.setRouter d r).arrivals = s.arrivals := rfl
@[simp] theorem setRouter_routeSeqs (s : State) (d : Nat) (r : RouteEngine) : (s.setRouter d r).routeSeqs = s.routeSeqs := rfl
@[simp] theorem setRouter_routeHomes (s : State) (d : Nat) (r : RouteEngine) : (s.setRouter d r).routeHomes = s.routeHomes := rfl
@[simp] theorem setRouter_masters (s : State) (d : Nat) (r : RouteEngine) : (s.setRouter d r).masters = s.masters := rfl
@[simp] theorem setRouter_collSeqs (s : State) (d : Nat) (r : RouteEngine) : (s.setRouter d r).collSeqs = s.collSeqs := rfl
@[simp] theorem setRouter_coords (s : State) (d : Nat) (r : RouteEngine) : (s.setRouter d r).coords = s.coords := rfl
@[simp] theorem setRouter_sessions (s : State) (d : Nat) (r : RouteEngine) : (s.setRouter d r).sessions = s.sessions := rfl
@[simp] theorem setRouter_portAddrs (s : State) (d : Nat) (r : RouteEngine) : (s.setRouter d r).portAddrs = s.portAddrs := rfl
@[simp] theorem setRouter_laneCounts (s : State) (d : Nat) (r : RouteEngine) : (s.setRouter d r).laneCounts = s.laneCounts := rfl
@[simp] theorem setRouter_remTimeout (s : State) (d : Nat) (r : RouteEngine) : (s.setRouter d r).remTimeout = s.remTimeout := rfl
@[simp] theorem setRouter_remDeny (s : State) (d : Nat) (r : RouteEngine) : (s.setRouter d r).remDeny = s.remDeny := rfl
@[simp] theorem setRouter_gens (s : State) (d : Nat) (r : RouteEngine) : (s.setRouter d r).gens = s.gens := rfl
@[simp] theorem setRouter_anchors (s : State) (d : Nat) (r : RouteEngine) : (s.setRouter d r).anchors = s.anchors := rfl
@[simp] theorem setRouter_savedTiles (s : State) (d : Nat) (r : RouteEngine) : (s.setRouter d r).savedTiles = s.savedTiles := rfl
@[simp] theorem setRouter_queues (s : State) (d : Nat) (r : RouteEngine) : (s.setRouter d r).queues = s.queues := rfl
@[simp] theorem setRouter_wayMasks (s : State) (d : Nat) (r : RouteEngine) : (s.setRouter d r).wayMasks = s.wayMasks := rfl
@[simp] theorem setRouter_hdmBase (s : State) (d : Nat) (r : RouteEngine) : (s.setRouter d r).hdmBase = s.hdmBase := rfl
@[simp] theorem setRouter_always (s : State) (d : Nat) (r : RouteEngine) : (s.setRouter d r).always = s.always := rfl
@[simp] theorem setRouter_gated (s : State) (d : Nat) (r : RouteEngine) : (s.setRouter d r).gated = s.gated := rfl
@[simp] theorem setRouter_ports (s : State) (d : Nat) (r : RouteEngine) : (s.setRouter d r).ports = s.ports := rfl
@[simp] theorem setRouter_tickSource (s : State) (d : Nat) (r : RouteEngine) : (s.setRouter d r).tickSource = s.tickSource := rfl
@[simp] theorem setRouter_lastTickFlit (s : State) (d : Nat) (r : RouteEngine) : (s.setRouter d r).lastTickFlit = s.lastTickFlit := rfl
@[simp] theorem setRouter_hostAnswer (s : State) (d : Nat) (r : RouteEngine) : (s.setRouter d r).hostAnswer = s.hostAnswer := rfl
@[simp] theorem setRouter_parts (s : State) (d : Nat) (r : RouteEngine) : (s.setRouter d r).parts = s.parts := rfl
@[simp] theorem setRouter_launches (s : State) (d : Nat) (r : RouteEngine) : (s.setRouter d r).launches = s.launches := rfl
@[simp] theorem setRouter_revoked (s : State) (d : Nat) (r : RouteEngine) : (s.setRouter d r).revoked = s.revoked := rfl
@[simp] theorem setRouter_sags (s : State) (d : Nat) (r : RouteEngine) : (s.setRouter d r).sags = s.sags := rfl
@[simp] theorem setRouter_tick (s : State) (d : Nat) (r : RouteEngine) : (s.setRouter d r).tick = s.tick := rfl
@[simp] theorem setRouter_mesh (s : State) (d : Nat) (r : RouteEngine) : (s.setRouter d r).mesh = s.mesh := rfl
@[simp] theorem setRouter_rw (s : State) (d : Nat) (r : RouteEngine) : (s.setRouter d r).rw = s.rw := rfl
@[simp] theorem setRouter_fences (s : State) (d : Nat) (r : RouteEngine) : (s.setRouter d r).fences = s.fences := rfl
@[simp] theorem setRouter_pkg (s : State) (d : Nat) (r : RouteEngine) : (s.setRouter d r).pkg = s.pkg := rfl
@[simp] theorem setRouter_routes (s : State) (d : Nat) (r : RouteEngine) : (s.setRouter d r).routes = s.routes := rfl
@[simp] theorem setRouter_pending (s : State) (d : Nat) (r : RouteEngine) : (s.setRouter d r).pending = s.pending := rfl
@[simp] theorem setRouter_turns (s : State) (d : Nat) (r : RouteEngine) : (s.setRouter d r).turns = s.turns := rfl
@[simp] theorem setRouter_burst (s : State) (d : Nat) (r : RouteEngine) : (s.setRouter d r).burst = s.burst := rfl
@[simp] theorem setRouter_ahead (s : State) (d : Nat) (r : RouteEngine) : (s.setRouter d r).ahead = s.ahead := rfl
@[simp] theorem setRouter_free (s : State) (d : Nat) (r : RouteEngine) : (s.setRouter d r).free = s.free := rfl
@[simp] theorem setRouter_clock (s : State) (d : Nat) (r : RouteEngine) : (s.setRouter d r).clock = s.clock := rfl

/-- What is written with another value than that of an unlisted key is read back, and every other key reads as before. -/
theorem tab_get_put_ne {α : Type} [DecidableEq α] {d : α} : ∀ {t : Tab α} {n : Nat} {v : α} (m : Nat), v ≠ d →
    Tab.get d (Tab.put d t n v) m = if m = n then v else Tab.get d t m
  | [], n, v, m, h => by
    simp only [Tab.put, if_neg h, Tab.get]
    by_cases e : m = n
    · simp [e]
    · rw [if_neg (fun x => e x.symm), if_neg e]
  | (k, w) :: t, n, v, m, h => by
    have ih := tab_get_put_ne (d := d) (t := t) (n := n) (v := v) m h
    simp only [Tab.put, if_neg h]
    split
    · simp only [Tab.get]
      by_cases e : m = n
      · simp [e]
      · rw [if_neg (fun x => e x.symm), if_neg e]
    · split
      · subst n; simp only [Tab.get]
        by_cases e : k = m
        · simp [e]
        · rw [if_neg e, if_neg e, if_neg fun x => e x.symm]
      · rename_i h1 h2
        simp only [Tab.get, ih]
        by_cases e : k = m
        · subst m; simp [show ¬ k = n from fun x => h2 x.symm]
        · simp [e]

/-- Every key but the written one reads as before. -/
theorem tab_get_put_other {α : Type} [DecidableEq α] {d : α} : ∀ {t : Tab α} {n : Nat} {v : α} {m : Nat}, m ≠ n →
    Tab.get d (Tab.put d t n v) m = Tab.get d t m
  | [], n, v, m, h => by
    simp only [Tab.put]; split <;> simp [Tab.get, h.symm]
  | (k, w) :: t, n, v, m, h => by
    have ih := tab_get_put_other (d := d) (t := t) (v := v) h
    simp only [Tab.put]
    split
    · split <;> simp [Tab.get, h.symm]
    · split
      · subst n; split <;> simp [Tab.get, h.symm]
      · simp [Tab.get, ih]

theorem core_setCore_other (s : State) {c k : Nat} (v : CoreState) (h : k ≠ c) : (s.setCore c v).core k = s.core k :=
  tab_get_put_other h
theorem master_setMaster_other (s : State) {k j : Nat} (m : CollMaster) (h : j ≠ k) : (s.setMaster k m).master j = s.master j :=
  tab_get_put_other h
theorem router_setRouter_other (s : State) {d j : Nat} (r : RouteEngine) (h : j ≠ d) : (s.setRouter d r).router j = s.router j :=
  tab_get_put_other h
theorem core_setCore (s : State) (c : Nat) {v : CoreState} (h : v ≠ {}) : (s.setCore c v).core c = v := by
  simp [State.core, State.setCore, tab_get_put_ne c h]
theorem master_setMaster (s : State) (k : Nat) {m : CollMaster} (h : m ≠ {}) : (s.setMaster k m).master k = m := by
  simp [State.master, State.setMaster, tab_get_put_ne k h]
theorem router_setRouter (s : State) (d : Nat) {r : RouteEngine} (h : r ≠ {}) : (s.setRouter d r).router d = r := by
  simp [State.router, State.setRouter, tab_get_put_ne d h]

/-! ## The strand in turn among the strands -/

theorem strand_me {s : State} (h : s.me.sid ≠ Strand.absent.sid) : s.strand? s.me.sid = some s.me := by
  simp [State.strand?, State.strands, h]
@[simp] theorem focus_me (s : State) : s.focus s.me.sid = s := by simp [State.focus]
@[simp] theorem modify_me (s : State) (f : Strand → Strand) : s.modify s.me.sid f = { s with me := f s.me } := by simp [State.modify]

/-! ## A fetch leaves the strand in turn alone -/

theorem foldl_me {α : Type} {f : State → α → State} (h : ∀ s a, (f s a).me = s.me) : ∀ (l : List α) (s : State), (l.foldl f s).me = s.me
  | [], _ => rfl
  | a :: l, s => (foldl_me h l (f s a)).trans (h s a)

theorem setStamp_me (s : State) (k : Nat) (x : Stamps) : (s.setStamp k x).me = s.me := rfl
theorem leaveSlice_me (s : State) (a b : Nat) : (s.leaveSlice a b).me = s.me := rfl

theorem enterSlice_me (s : State) (a b : Nat) : (s.enterSlice a b).me = s.me := by
  unfold State.enterSlice; dsimp only; split
  · rfl
  · exact foldl_me (fun _ _ => setStamp_me ..) _ _

theorem leaveSlices_me (slice : Nat) (l : List L2Line) (s : State) : (l.foldl (fun s x => s.leaveSlice slice x.line) s).me = s.me :=
  foldl_me (fun _ _ => leaveSlice_me ..) l s

theorem setL2_me (s : State) (x : Tab (List L2Line)) : ({ s with l2 := x } : State).me = s.me := rfl

theorem touchUnder_me (s : State) (m : BitVec 16) (k : Nat) : (s.touchUnder m k).me = s.me := by
  unfold State.touchUnder; split
  · dsimp only; split
    · rfl
    · exact (enterSlice_me ..).trans ((setL2_me ..).trans (leaveSlices_me ..))
  · rfl

theorem stampUnder_me (s : State) (m : BitVec 16) (k : Nat) : (s.stampUnder m k).1.me = s.me := touchUnder_me s m k

theorem hardwareStamp_me (s : State) (k n : Nat) : (s.hardwareStamp k n).me = s.me := foldl_me (fun s k => stampUnder_me s _ k) _ _

theorem bump32_me (s : State) (a : Nat) : (s.bump32 a).me = s.me := hardwareStamp_me ..

theorem countDie_me (s : State) (p : Fin 16) (d n : Nat) : (s.countDie p d n).me = s.me := by
  unfold State.countDie; split
  · rfl
  · exact bump32_me ..

theorem buffer_me (s : State) (c : Nat) (e : TlbEntry) : (s.buffer c e).me = s.me := by
  unfold State.buffer State.modifyCore; dsimp only; split <;> rfl

theorem writeLeaf_me (s : State) (p : Fin 16) (d : Nat) (e : TlbEntry) (a b : Nat) : (s.writeLeaf p d e a b).1.me = s.me := by
  unfold State.writeLeaf; dsimp only; split <;> split <;> simp [hardwareStamp_me, countDie_me]

theorem reclassify_me (s : State) (p : Fin 16) (d : Nat) (e : TlbEntry) (k : Nat) : (s.reclassify p d e k).1.me = s.me := by
  unfold State.reclassify; dsimp only; split <;> simp only [countDie_me, writeLeaf_me] <;> split <;> rfl

/-- The strand in turn is as before after the effects of an access on its page. -/
theorem usePage_me (s : State) (p : Fin 16) (c : Nat) (e : Bool) (pl : Place) : (s.usePage p c e pl).1.me = s.me := by
  unfold State.usePage
  split
  · rfl
  · dsimp only
    split
    · split <;> simp only [buffer_me, reclassify_me]
    · split
      · simp only [buffer_me, countDie_me, writeLeaf_me]
      · split
        · split <;> simp only [buffer_me, countDie_me, writeLeaf_me]
        · split <;> simp only [buffer_me, countDie_me, writeLeaf_me, reclassify_me]

theorem instrLine_me (s : State) (c k : Nat) : (s.instrLine c k).2.me = s.me := by
  unfold State.instrLine; dsimp only
  repeat' split
  all_goals rfl

theorem fetchHalf_me {s u : State} {va : Word} {lo : Half16} (h : s.fetchHalf va = .ok (lo, u)) : u.me = s.me := by
  unfold State.fetchHalf at h
  split at h
  · cases h
  · cases h; exact (instrLine_me ..).trans (usePage_me ..)

end Sys2Proof.Laws
end

