-- ==== Sys2Proof/Laws/Control.lean ====
section
/-! SUPPORT. What control flow and taking a trap do where both halves of the strand stand at the instruction. -/

namespace Sys2Proof.Laws
open Sys2Proof Sys2Proof.Machine Sys2Proof.Claims

theorem together_level {s : State} (h : Level s) (f : State → State) : s.together f = f s := by
  simp [State.together, h.1]

/-- An outcome that is pushed into an empty queue and popped again leaves the context as it was. -/
theorem setOutcomes_nil {c : Context} {o : Side} (hq : c.queues.outcomes o = []) (t : Bool) :
    c.setOutcomes o ((c.queues.outcomes o ++ [t]).tail) = c := by
  rw [hq]
  cases c with
  | mk a e v q y =>
    cases q
    by_cases h : o = .access <;> simp_all [Context.setOutcomes, Queues.setOutcomes, Queues.outcomes]

theorem resolve_level {s : State} (hl : Level s) {o : Side} (hq : s.me.ctx.queues.outcomes o = []) (t : Bool) (f : State → State) :
    s.resolve o t f = f s := by
  simp only [State.resolve, State.lagging, hl.1, List.head?_nil, Option.map_none, setOutcomes_nil hq]
  rfl

theorem guarded_passes {s : State} {g : Guard} (hp : Passes s g) (f : State → State) : s.guarded g f = f s := by
  by_cases h : g.p = 0#4
  · simp [State.guarded, h]
  · have := hp.2.resolve_left h
    simp [State.guarded, h, this.1, together_level hp.1, resolve_level hp.1 this.2]

theorem closeAll_settled {c : Context} (h : c.windowOpen = false) : c.closeAll = c := by
  simp [Context.windowOpen] at h
  obtain ⟨⟨h1, h2⟩, h3⟩ := h
  cases c with
  | mk a e v q y =>
  cases a; cases e; cases v
  simp_all [Context.closeAll, Context.close, Context.closeAccess, Context.closeExecute, Context.closeVector, closeAtPos]

theorem precise_level {s : State} (hl : Level s) (hs : Settled s) : s.me.precise = s.me.ctx := by
  simp [Strand.precise, hl.2, closeAll_settled hs]

theorem trapCause_fields (z : BitVec 37) (t : BitVec 14) (n : BitVec 2) (l : BitVec 1) (h : BitVec 2) (c : BitVec 8) :
    (z ++ t ++ n ++ l ++ h ++ c).extractLsb' 0 8 = c ∧ (z ++ t ++ n ++ l ++ h ++ c).extractLsb' 8 2 = h ∧
    (z ++ t ++ n ++ l ++ h ++ c).extractLsb' 10 1 = l ∧ (z ++ t ++ n ++ l ++ h ++ c).extractLsb' 11 2 = n ∧
    (z ++ t ++ n ++ l ++ h ++ c).extractLsb' 13 14 = t ∧ (z ++ t ++ n ++ l ++ h ++ c).extractLsb' 27 37 = z := by
  refine ⟨?_, ?_, ?_, ?_, ?_, ?_⟩ <;>
  · apply BitVec.eq_of_getLsbD_eq
    intro i hi
    simp only [BitVec.getLsbD_extractLsb', BitVec.getLsbD_append, hi, decide_true, Bool.true_and]
    repeat' split
    all_goals first | omega | (congr 1; omega)

theorem putBit_sup (a : BitVec 16) : putBit a supBit true = a ||| 0x8000#16 := by
  apply BitVec.eq_of_getLsbD_eq
  intro i hi
  rw [getLsbD_putBit _ _ _ _ hi]
  by_cases h : i = supBit
  · subst h; simp [supBit]
  · have z : ∀ k : Fin 16, k.val ≠ supBit → (0x8000#16).getLsbD k = false := by decide
    rw [if_neg h, BitVec.getLsbD_or, z ⟨i, hi⟩ h, Bool.or_false]

/-- Taking a trap in user mode, whatever instruction takes it (R103, R105). -/
theorem trapAt_taken {s : State} {tr : Trap} {ret : Word} (hs : s.me.sup = false) (hc : tr.cause ≠ .poisonConsumed) :
    TrapTaken s (s.trapAt tr ret) tr.cause.code tr.val ret := by
  obtain ⟨h1, h2, h3, h4, h5, h6⟩ := trapCause_fields 0#37 (BitVec.ofNat 14 s.me.issue.ntab) (BitVec.ofNat 2 s.me.issue.nlit)
    (BitVec.ofBool s.me.issue.long) (halfCode s.me.issue.half) tr.cause.code
  simp only [State.trapAt, hc, if_false, hs, Bool.false_eq_true, State.enterTrap, TrapTaken, enterSys]
  refine ⟨trivial, trivial, trivial, h1, h2, h3, h4, h5, h6, trivial, putBit_sup _, trivial, by simp [Queues.stat], ?_, trivial⟩
  intro i
  simp [saved]

end Sys2Proof.Laws
end

