-- ==== Sys2Proof/Laws/Engine.lean ====
section
/-! SUPPORT. What the write of one word of an engine event can do (R115). -/

namespace Sys2Proof.Laws
open Sys2Proof Sys2Proof.Machine

/-- With no event in progress a word is written. -/
@[simp] theorem pieceWrite_none {s : State} (h : s.ahead = none) (o : Origin) (va : Word) (k : Nat) (bs : List (Nat × Byte)) :
    s.pieceWrite o va k bs = s.engineWrite k true bs := by
  simp [State.pieceWrite, h]

/-- A word of an event is written, with or without a note of it; or the event has written it, and the note of that goes. -/
theorem pieceWrite_cases (s : State) (o : Origin) (va : Word) (k : Nat) (bs : List (Nat × Byte)) :
    (∃ a, s.pieceWrite o va k bs = ({ (s.engineWrite k true bs).1 with ahead := a }, (s.engineWrite k true bs).2)) ∨
    ∃ a x, s.ahead = some a ∧ x ∈ a.words ∧ x.key = k ∧ x.bytes = bs ∧
      s.pieceWrite o va k bs = ({ s with ahead := some { a with words := a.words.erase x } }, x.stamp) := by
  unfold State.pieceWrite
  split
  · exact .inl ⟨_, rfl⟩
  · rename_i a ha
    split
    · exact .inl ⟨_, rfl⟩
    · split
      · rename_i x hx
        have h := List.find?_some hx
        simp only [Bool.and_eq_true, beq_iff_eq] at h
        exact .inr ⟨a, x, ha, List.mem_of_find?_eq_some hx, h.1, h.2, rfl⟩
      · exact .inl ⟨_, rfl⟩

/-- Every word that an event has written ahead is one that it would have written. -/
theorem firstWords_subset (d : Nat) (ws : List AheadWord) : firstWords d ws ⊆ ws := by
  have h : ws.take (d / 2 % (ws.length + 1)) ⊆ ws := List.take_subset _ _
  simp only [firstWords]
  split
  · split
    · exact fun x hx => h (List.mem_of_mem_eraseIdx hx)
    · exact h
  · exact h

end Sys2Proof.Laws
end

