-- ==== Sys2Proof/Tests/Slice0.lean ====
section
/-! SUPPORT. Tests: ill-formed terms, words written out from the spec's encodings, and a state that meets the hypotheses of each statement. -/

namespace Sys2Proof.Tests
set_option Elab.async false
open Sys2Proof Sys2Proof.Machine Sys2Proof.Claims

/-! ## Small states -/

/-- One strand of partition 0 in slot 0 of core 0, whose halves stand together (log 2). -/
def demo : State := State.reset.boot

/-- The state with a changed context. -/
def onCtx (f : Context → Context) : State := demo.setCtx (f demo.me.ctx)

/-- The state with a value in an a-register. -/
def onA (n : Fin 12) (v : Word) : State := onCtx fun c => { c with acc := { c.acc with a := c.acc.a.set n v } }

/-- The state with entries in the value queues. -/
def onQueues (lq sq : List Word) : State := onCtx fun c => { c with queues := { c.queues with lq := lq, sq := sq } }

/-- The state in supervisor mode. -/
def onSup : State := onCtx fun c => { c with sys := { c.sys with status := 0x8000#16 } }

/-- The guard of an instruction without one. -/
def always : Guard := ⟨false, 0#4⟩

theorem test_demo_level : Level demo := ⟨rfl, rfl⟩
theorem test_demo_settled : Settled demo := rfl
theorem test_demo_user : demo.me.sup = false := by decide +kernel
theorem test_sup : onSup.me.sup = true := by decide +kernel

/-! ## Ill-formed terms, one for each check (R54, R17, R29, R30, R47, R191) -/

theorem test_illformed_literal_destination : (Instr.add always (.lit 0#32) (.a 1) (.a 2)).check = .illegal := by decide
theorem test_illformed_inverted_p0 : (Instr.add ⟨true, 0#4⟩ (.a 0) (.a 1) (.a 2)).check = .illegal := by decide
theorem test_illformed_mixed_halves : (Instr.add always (.a 0) (.a 1) (.d 2)).check = .illegal := by decide
theorem test_illformed_foreign_predicate : (Instr.cmpi 0#4 9#4 (.a 1) 0#11).check = .illegal := by decide
theorem test_illformed_condition : (Instr.cmpi 15#4 1#4 (.a 1) 0#11).check = .illegal := by decide
theorem test_illformed_base : (Instr.ld 0#3 0#4 (.a 1) (.d 2) 0#8).check = .illegal := by decide
theorem test_illformed_cas_pair : (Instr.cas false 0#4 (.a 11) (.a 2) 0#7).check = .illegal := by decide
theorem test_illformed_sysreg : (Instr.sysrd (.a 1) 0xFFF#12).check = .illegal := by decide
theorem test_illformed_link_queue : (Instr.jalr .queue (.a 1) 0#15).check = .misuse := by decide
theorem test_illformed_header_queues : (Instr.hpack always (.d 1) .queue .queue).check = .misuse := by decide
theorem test_illformed_zero_halfword : (Instr.vaddShort 0#3 0#4 0#4).check = .illegal := by decide
theorem test_illformed_zeroing_k0 : (Instr.vadd true 0#3 1#4 2#4 3#4).check = .illegal := by decide
theorem test_illformed_event : Instr.coldStart.check = .illegal := by decide

/-! ## Words written out in the spec, by family -/

/-- The bytes of words, lowest first. -/
def words (ws : List Word32) : List Byte := (ws.map Sys2Proof.bytesOfWord).flatten

theorem test_decode_integer : decode (words [0x001B2881#32, 0x000186A0#32]) = .ok (.add always (.d 1) (.d 2) (.lit 0x186A0#32)) ∧
    decode (words [0x0028E983#32]) = .ok (.mul always (.d 3) .queue (.d 4)) ∧
    decode (words [0x01DB2885#32, 0x308#32]) = .ok (.bext always (.d 1) (.d 2) (.lit 0x308#32)) := by decide +kernel
theorem test_decode_immediate : decode (words [0xFF65249B#32]) = .ok (.cmpi 2#4 9#4 (.d 2) 0x7FB#11) ∧
    decode (words [0x12345A1D#32]) = .ok (.lih (.d 4) 0x12345#20) ∧
    decode (words [0x13C41181#32]) = .ok (.sel ⟨false, 2#4⟩ (.a 3) (.a 1) (.a 2)) := by decide +kernel
theorem test_decode_float : decode (words [0x01E72889#32]) = .ok (.ffma always true (.d 1) (.d 2) (.d 3)) := by decide +kernel
theorem test_decode_control : decode (words [0xFFFF60A1#32]) = .ok (.br false 1#4 0xFFFF6#20) ∧
    decode (words [0x0018C629#32]) = .ok (.nop always) ∧ decode (words [0x0198C629#32]) = .ok (.exit always) ∧
    decode (words [0x01D8D629#32, 1#32]) = .ok (.brk always (.lit 1#32)) := by decide +kernel
theorem test_decode_system : decode (words [0x0022C08D#32]) = .ok (.sysrd (.a 1) 0x011#12) ∧
    decode (words [0x200E360D#32]) = .ok (.syswr 0x007#12 (.a 3)) := by decide +kernel
theorem test_decode_iteration : decode (words [0x0002C22B#32]) = .ok (.iter always (.a 4) 1#4) ∧
    decode (words [0x0042C22B#32]) = .ok (.iterS always (.a 4) 1#4) := by decide +kernel
theorem test_decode_headers : decode (words [0x00A6D60B#32, 3#32]) = .ok (.hlayout always .zero (.lit 3#32) (.d 3)) ∧
    decode (words [0x001B488B#32, 3#32]) = .ok (.hpack always (.d 1) (.d 4) (.lit 3#32)) ∧
    decode (words [0x005B1A0B#32, 3#32]) = .ok (.hparse always (.d 4) (.d 1) (.lit 3#32)) := by decide +kernel
theorem test_decode_memory : decode (words [0xFEA06A35#32]) = .ok (.stf true 0#4 (.d 4) (.a 6) 0xFE#8) ∧
    decode (words [0x80005139#32]) = .ok (.cas true 0#4 (.a 2) (.a 5) 0#7) ∧
    decode (words [0x00202233#32]) = .ok (.st 1#2 0#4 (.a 4) (.a 2) 0#8) := by decide +kernel
theorem test_decode_messages : decode (words [0x0000523B#32]) = .ok (.send 0#4 (.a 4) (.a 5)) ∧
    decode (words [0x2000D33B#32, 0x1307#32]) = .ok (.cont (.a 6) (.lit 0x1307#32)) ∧
    decode (words [0x4000D3BB#32, 7#32]) = .ok (.waitr (.a 7) (.lit 7#32)) := by decide +kernel
theorem test_decode_regions : decode (words [0x026091C1#32]) = .ok (.qsub 3#4 2#4 1#4) ∧
    decode (words [0x201008C3#32]) = .ok (.qbox 1#3 1#4 1#4 (.a 2)) ∧
    decode (words [0x00281845#32]) = .ok (.qsize (.a 5) 3#4) := by decide +kernel
theorem test_decode_vector : decode (words [0x28010951#32]) = .ok (.vcmp false 0#3 2#4 2#4 1#4 2#4) ∧
    decode (words [0x800210DB#32]) = .ok (.vld 8#4 0#3 2#4 1#4 (.a 2)) ∧
    decode (bytesOfHalf 0x4620#16) = .ok (.vaddShort 2#3 1#4 3#4) := by decide +kernel
theorem test_decode_matrix : decode (words [0x50003261#32]) = .ok (.mma 5#4 false 0#4 3#4 2#3) ∧
    decode (words [0xC1000065#32]) = .ok (.brot 0xC#4 0#4) := by decide +kernel
theorem test_decode_copies : decode (words [0x048060F1#32]) = .ok (.cpy 1#4 4#4 2#4 (.a 6)) ∧
    decode (words [0x0000C2F3#32]) = .ok (.cseal (.a 5)) ∧
    decode (words [0xE00021F3#32]) = .ok (.awwait (.a 2) (.a 3)) := by decide +kernel
theorem test_decode_recording : decode (words [0x000050F5#32]) = .ok (.record 1#4 (.a 5)) ∧
    decode (words [0x4000C675#32]) = .ok .rpstop := by decide +kernel
theorem test_decode_collective : decode (words [0x00002279#32]) = .ok (.coll (.a 4) (.a 2)) ∧
    decode (words [0x0040C1AD#32]) = .ok (.bara always (.a 3) 0#5) := by decide +kernel

/-! ## A state and operands for the hypotheses of each statement -/

theorem witness_SourceForms : ∃ c x r, (onQueues [] [7#64]).me.ctx = c ∧ c.queues.sq = x :: r ∧ c.queues.lq = [] :=
  ⟨_, _, _, rfl, rfl, rfl⟩
theorem witness_IntegerResults : ∃ f c1 c2, intOp (.add always .queue .queue (.lit 5#32)) = some (always, .queue, .queue, .lit 5#32, f) ∧
    (onQueues [7#64] (List.replicate 15 0#64)).me.ctx.read .execute .queue = .ok (7#64, c1) ∧ c1.read .execute (.lit 5#32) = .ok (5#64, c2) ∧
    c2.holds always = true ∧ hasRoom .execute .queue c2 ∧ (Instr.add always .queue .queue (.lit 5#32)).half = .execute :=
  ⟨_, _, _, rfl, rfl, rfl, by decide +kernel, by intro _; decide +kernel, by decide⟩
theorem witness_ImmediateResults : ∃ f c1, immOp (.addi (.a 1) (.a 1) 0x7FFF#15) = some (.a 1, .a 1, f) ∧
    demo.me.ctx.read .access (.a 1) = .ok (0#64, c1) ∧ hasRoom .access (.a 1) c1 := ⟨_, _, rfl, rfl, nofun⟩
theorem witness_SelectAndInsert : ∃ c1 c2 c3, demo.me.ctx.read .access (.a 1) = .ok (0#64, c1) ∧ c1.read .access (.a 2) = .ok (0#64, c2) ∧
    c2.read .access (.a 3) = .ok (0#64, c3) ∧ c3.holds always = true ∧ hasRoom .access (.a 3) c3 ∧
    (Instr.sel always (.a 3) (.a 1) (.a 2)).half = .access ∧ (Instr.bins always (.a 3) (.a 1) (.a 2)).half = .access :=
  ⟨_, _, _, rfl, rfl, rfl, by decide +kernel, nofun, by decide, by decide⟩
theorem witness_ComparisonsAndPredicates : ∃ f c1 c2, intCmp (.cmp always 0#4 0#4 (.a 1) (.a 2)) = some (always, 0#4, .a 1, .a 2, f) ∧
    demo.me.ctx.read .access (.a 1) = .ok (0#64, c1) ∧ c1.read .access (.a 2) = .ok (0#64, c2) ∧ c2.holds always = true ∧
    hasRoom .access (.a 3) demo.me.ctx ∧ (Instr.pput always (.a 1) (.a 2)).half = .access :=
  ⟨_, _, _, rfl, rfl, rfl, by decide +kernel, nofun, by decide⟩
theorem witness_FloatResults : ∃ f p c1 c2 c3, fltOp (frm demo.me.ctx.sys.status) (.ffma always true (.d 1) (.d 2) (.d 3)) =
      some (always, true, true, .d 1, .d 2, .d 3, f) ∧
    fltCmp (.fcmpLt always false 8#4 (.d 2) (.d 3)) = some (always, false, 8#4, .d 2, .d 3, false, p) ∧
    demo.me.ctx.read .execute (.d 2) = .ok (0#64, c1) ∧ c1.read .execute (.d 3) = .ok (0#64, c2) ∧
    c2.read .execute (.d 1) = .ok (0#64, c3) ∧ c3.holds always = true ∧ hasRoom .execute (.d 1) c3 :=
  ⟨_, _, _, _, _, rfl, rfl, rfl, rfl, rfl, by decide +kernel, nofun⟩
theorem witness_FalseGuardsAndHeldHalves : ∃ c1 c2, framed (.add ⟨false, 1#4⟩ .queue (.a 1) (.a 2)) = some (⟨false, 1#4⟩, false, .queue, .a 1, .a 2) ∧
    demo.me.ctx.read .access (.a 1) = .ok (0#64, c1) ∧ c1.read .access (.a 2) = .ok (0#64, c2) ∧ c2.holds ⟨false, 1#4⟩ = false ∧
    hasRoom .access .queue c2 ∧ demo.me.undo = none ∧ demo.me.ctx.read .access .queue = .error .sq ∧
    16 ≤ (onQueues (List.replicate 16 0#64) []).me.ctx.queues.lq.length :=
  ⟨_, _, rfl, rfl, rfl, by decide +kernel, by intro _; decide +kernel, rfl, rfl, by decide +kernel⟩

/-- The state whose launch has a nest counter. -/
def onNest (n : Nest) : State := demo.setNest demo.me.launch n

theorem witness_DivisionCoversEveryPair : ∃ c1 c2, demo.me.ctx.read (halfOf [.d 1, .d 2, .d 3] [0#4]) (.d 1) = .ok (0#64, c1) ∧
    c1.read (halfOf [.d 1, .d 2, .d 3] [0#4]) (.d 2) = .ok (0#64, c2) ∧ c2.holds always = true ∧
    hasRoom (halfOf [.d 1, .d 2, .d 3] [0#4]) (.d 3) c2 := ⟨_, _, rfl, rfl, by decide +kernel, nofun⟩
theorem witness_SystemRegisters_user : Level demo ∧ (5#12, 0#64) ∈ sysregs demo ∧ hasRoom (halfOf [.a 1] []) (.a 1) demo.me.ctx ∧
    demo.me.sup = false ∧ ∃ c, demo.me.ctx.read (halfOf [.a 1] []) (.a 1) = .ok (0#64, c) :=
  ⟨⟨rfl, rfl⟩, by decide +kernel, nofun, by decide +kernel, _, rfl⟩
theorem witness_SystemRegisters_supervisor : Level onSup ∧ onSup.me.sup = true ∧ (0x10#12, 0#64) ∈ sysregs onSup :=
  ⟨⟨rfl, rfl⟩, by decide +kernel, by decide +kernel⟩
theorem witness_BranchTargets : Level demo ∧ demo.me.ctx.queues.outcomes .access = [] ∧ demo.me.ctx.acc.a[(1 : Fin 12)] = 0#64 ∧
    (demo.me.ctx.acc.a[(1 : Fin 12)] + (3#15).signExtend 64 * 2#64).getLsbD 0 = false ∧
    ((onA 1 1#64).me.ctx.acc.a[(1 : Fin 12)] + (3#15).signExtend 64 * 2#64).getLsbD 0 = true ∧ (onA 1 1#64).me.sup = false ∧
    (demo.fetchWord (demo.me.issue.addr + 4#64)).toOption = none :=
  ⟨⟨rfl, rfl⟩, rfl, by decide +kernel, by decide +kernel, by decide +kernel, by decide +kernel, by decide +kernel⟩
theorem witness_BranchTargets_table : ∃ s : State, Level s ∧ s.me.ctx.queues.outcomes .access = [] ∧
    (match s.fetchWord (s.me.issue.addr + 4#64) with | .ok (w, u) => w == 0#32 && u.me == s.me | .error _ => false) = true :=
  ⟨{ demo with me := { demo.me with issue := { demo.me.issue with addr := bootPc } } }, ⟨rfl, rfl⟩, rfl, by decide +kernel⟩
theorem witness_TrapAndBreakpointEntry : Level demo ∧ demo.me.sup = false ∧ always.p = 0#4 := ⟨⟨rfl, rfl⟩, by decide +kernel, rfl⟩
theorem witness_ReturnFromTrap : Level onSup ∧ onSup.me.sup = true ∧ onSup.me.ctx.closeAll.queues = {} ∧ Level demo ∧ Settled demo ∧
    demo.me.sup = false ∧ Fits demo.me.ctx.queues ∧ ∃ t, exec (.trap always .zero) demo = .next t :=
  ⟨⟨rfl, rfl⟩, by decide +kernel, by decide +kernel, ⟨rfl, rfl⟩, rfl, by decide +kernel, ⟨by decide, by decide, by decide, by decide⟩, _, rfl⟩
/-- A nest of one dimension with five iterations that are not claimed. -/
def fiveLeft : Nest := { bounds := [5], ndim := 1, minchunk := 1, rem := 5, next := 0 }

theorem witness_IterationSteps : (onNest fiveLeft).me.ctx.holds always = true ∧ (onNest fiveLeft).nest? demo.me.launch = some fiveLeft ∧
    fiveLeft.ndim ≤ 3 ∧ (onNest fiveLeft).me.ctx.acc.left = 0#32 ∧
    0 < min fiveLeft.rem (min (2 ^ 32 - 1) (max fiveLeft.minchunk ((fiveLeft.rem * (onNest fiveLeft).clockMHz (onNest fiveLeft).me.core +
      2 * (onNest fiveLeft).weightSum (onNest fiveLeft).me.launch - 1) / (2 * (onNest fiveLeft).weightSum (onNest fiveLeft).me.launch)))) ∧
    demo.nest? demo.me.launch = none ∧ demo.me.sup = false :=
  ⟨by decide +kernel, by decide +kernel, by decide +kernel, by decide +kernel,
    Nat.lt_min.2 ⟨by decide, Nat.lt_min.2 ⟨by decide, Nat.lt_of_lt_of_le (by decide) (Nat.le_max_left _ _)⟩⟩, by decide +kernel, by decide +kernel⟩
theorem witness_FencesAndYield : Passes demo always ∧ demo.me.fencePast = false ∧ demo.remotePending = false :=
  ⟨⟨⟨rfl, rfl⟩, .inl rfl⟩, rfl, by decide +kernel⟩
theorem witness_ExitEndsTheStrand : Passes demo always ∧ demo.me.sid ≠ Strand.absent.sid ∧ demo.me.ctx.closeAll.queues.first = none ∧
    demo.copies = [] ∧ demo.matrix = [] ∧ demo.me.memberOf = [] ∧ Tab.wf 0 demo.gens = true ∧
    (onQueues [7#64] []).me.ctx.closeAll.queues.first = some .lq :=
  ⟨⟨⟨rfl, rfl⟩, .inl rfl⟩, by decide +kernel, by decide +kernel, rfl, rfl, rfl, rfl, by decide +kernel⟩

/-- The state with a changed memory. -/
def onMem (f : Mem → Mem) : State := { demo with mem := f demo.mem }

/-- The state whose a2 holds an address. -/
def at_ (v : Nat) : State := onA 2 (BitVec.ofNat 64 v)

/-- The first and the last doubleword of the scratchpad of core 0. -/
def padFirst : Nat := 0x7F0000000000
def padLast : Nat := 0x7F000003FFF8

theorem test_reaches_first : Reaches (at_ padFirst) (addressed (at_ padFirst) (.a 2) 0#64) 8 needRW padFirst false :=
  ⟨_, rfl, by decide +kernel, by decide +kernel, by decide +kernel, by decide +kernel, by decide +kernel, by decide +kernel⟩
theorem test_reaches_last : Reaches (at_ padLast) (addressed (at_ padLast) (.a 2) 0#64) 8 needW padLast false :=
  ⟨_, rfl, by decide +kernel, by decide +kernel, by decide +kernel, by decide +kernel, by decide +kernel, by decide +kernel⟩
theorem test_reaches_read : Reaches (at_ padFirst) (addressed (at_ padFirst) (.a 2) 0#64) 8 needR padFirst false :=
  ⟨_, rfl, by decide +kernel, by decide +kernel, by decide +kernel, by decide +kernel, by decide +kernel, by decide +kernel⟩
theorem test_data_ready : DataReady (at_ padFirst) (.a 1) 0 true [] (at_ padFirst).me.ctx ∧
    DataReady (at_ padFirst) (.a 1) 1 true [0#64] (at_ padFirst).me.ctx ∧ DataReady (at_ padFirst) (.a 5) 2 true [0#64, 0#64] (at_ padFirst).me.ctx ∧
    DataReady (onQueues [] [7#64]) .queue 1 true [7#64] (onQueues [] []).me.ctx :=
  ⟨⟨by decide +kernel, rfl⟩, ⟨by decide +kernel, rfl⟩, ⟨by decide +kernel, rfl⟩, by decide +kernel, by intro _; decide +kernel, by decide +kernel, by decide +kernel⟩

theorem witness_MemoryChecks : ∃ r, memOp (.ldf true 0#4 (.a 1) (.a 2) 0#8) = some r ∧ demo.me.sup = false ∧
    canonical (addressed (at_ (2 ^ 60)) (.a 2) 0#64) = false ∧ canonical (addressed (at_ 1) (.a 2) 0#64) = true ∧
    (addressed (at_ 1) (.a 2) 0#64).toNat % 8 ≠ 0 ∧
    (at_ 0).locate (at_ 0).me.launch.part (at_ 0).me.core (at_ 0).root 0 needR = .error .translation ∧
    (at_ 0).locate (at_ 0).me.launch.part (at_ 0).me.core (at_ 0).root 0x7F0000200000 needR = .error .protection :=
  ⟨_, rfl, by decide +kernel, by decide +kernel, by decide +kernel, by decide +kernel, rfl, rfl⟩
theorem witness_LoadsAndStores : Misses (at_ padFirst) padFirst 8 false ∧ AllFull (at_ padFirst) padFirst (width true) false ∧
    NoWaiters (at_ padFirst) ∧ (at_ padFirst).mem.wf = true ∧
    AllFull (onMem fun m => (m.setFull padFirst true).setFull (padFirst + 4) true) padFirst (width true) true :=
  ⟨.inr (.inr (by decide +kernel)), by unfold AllFull; decide +kernel, ⟨by decide +kernel, by decide +kernel, rfl⟩, by decide +kernel,
    by unfold AllFull; decide +kernel⟩
theorem witness_AtomicsAndFullEmptyWaits : (at_ padFirst).mem.wf = true ∧ (at_ padFirst).me.undo = none ∧
    ¬ AllFull (at_ padFirst) padFirst (width true) true ∧
    ¬ AllFull (onMem fun m => m.setFull padFirst true) padFirst (width true) false := by
  refine ⟨by decide +kernel, rfl, ?_, ?_⟩ <;> unfold AllFull <;> decide +kernel
theorem witness_GroupBarriers : ∃ (s : State) (n : Node), s.me.ctx.holds always = true ∧ 0 < s.me.ngrp ∧ s.node? s.me.launch = some n ∧
    Tab.wf {} n.groups = true ∧ (s.group s.me.launch (s.me.groupAt 0)).held = [] ∧ s.me.sid ∉ (s.group s.me.launch (s.me.groupAt 0)).arrived ∧
    s.me.undo = none ∧ passed (s.group s.me.launch (s.me.groupAt 0)).gen 0#16 = false ∧
    passed (s.group s.me.launch (s.me.groupAt 0)).gen 0xFFFF#16 = true :=
  ⟨onCtx fun c => { c with sys := { c.sys with status := 0x0008#16 } }, _, by decide +kernel, by decide +kernel, rfl, by decide +kernel,
    by decide +kernel, by decide +kernel, rfl, by decide +kernel, by decide +kernel⟩
theorem witness_GroupBarriers_beyond : demo.me.ctx.holds always = true ∧ demo.me.ngrp ≤ 0 ∧ demo.me.sup = false := by decide +kernel

/-- A second strand of the node, in slot 1 of core 0. -/
def second : Strand := { demo.me with sid := mkSid 0#10 0 1 0 }
/-- The state with the second strand. -/
def onTwo (m : Strand) : State := { demo with others := [m] }
/-- The state with a changed core 0. -/
def onCore (f : CoreState → CoreState) : State := demo.modifyCore 0 f

theorem witness_HeaderPacking : ∃ c1 c2 c3, demo.me.ctx.read .execute (.lit 63#32) = .ok (63#64, c1) ∧ c1.holds always = true ∧
    hasRoom .execute (.d 1) c1 ∧ demo.me.ctx.read .execute (.d 3) = .ok (0#64, c2) ∧ c2.read .execute (.lit 63#32) = .ok (63#64, c3) ∧
    c3.holds always = true ∧ fieldRank (demo.myCore.layouts.toList.getD 63 0#64) 8 = 0 ∧ fieldAt 0#64 8 ≤ 64 ∧
    demo.me.ctx.read .execute (.lit 64#32) = .ok (64#64, c1) ∧ demo.me.sup = false :=
  ⟨_, _, _, rfl, by decide +kernel, nofun, rfl, rfl, by decide +kernel, by decide +kernel, by decide +kernel, rfl, by decide +kernel⟩
theorem witness_ContinuationsAndMessages : ∃ c c2, demo.me.ctx.read .access (.lit 0x1B07#32) = .ok (0x1B07#64, c) ∧
    (0x1B07#64).toNat < 2 ^ 13 ∧ isReg ((0x1B07#64).extractLsb' 8 5) ∧ hasRoom .access (.a 6) c ∧
    ¬ ((0x2000#64).toNat < 2 ^ 13) ∧ c.read .access (.a 4) = .ok (0#64, c2) ∧
    (onTwo second).ownerOfCluster (clusterOfCore (sidCore second.sid)) = some (onTwo second).me.launch.part ∧
    (onTwo second).strand? second.sid = some second ∧ second.sid ≠ (onTwo second).me.sid ∧ second.inbox.length < 8 ∧
    second.frame ≠ .parked ∧ sidLocal second.sid < 384 ∧ sidPkg second.sid = (onTwo second).pkg ∧ demo.me.deferred = [] ∧
    demo.offersTo demo.me.sid = [] ∧ demo.me.inbox.find? (fun q => q.tag == 7#8) = none ∧ demo.me.undo = none :=
  ⟨_, _, rfl, by decide, by unfold isReg; decide, nofun, by decide, rfl, by decide +kernel, by decide +kernel, by decide +kernel,
    by decide +kernel, by decide +kernel, by decide +kernel, by decide +kernel, rfl, by decide +kernel, rfl, rfl⟩
theorem witness_ContinuationsAndMessages_prefetch : ∃ pl, (at_ padFirst).check (addressed (at_ padFirst) (.a 2) 0#64 &&& ~~~3#64) 4 {} = .ok pl ∧
    uncached pl.key = true := ⟨_, rfl, by decide +kernel⟩
theorem witness_RecordAndStatus : ∃ c, (onCore fun k => { k with recctl := 1#64 }).me.ctx.read .access (.a 1) = .ok (0#64, c) ∧
    (onCore fun k => { k with recctl := 1#64 }).myCore.recctl.getLsbD 0 = true ∧ (onCore fun k => { k with recctl := 0#64 }).myCore.recctl.getLsbD 0 = false ∧
    demo.myCore.recorder.state = .idle ∧ (0x1000000000000#64).extractLsb' 48 16 ≠ 0#16 ∧ (0x1000000000000#64).getLsbD 0 = false ∧
    (9, 0#64) ∈ recorded demo.myCore.recorder false ∧ hasRoom .access (.a 1) c ∧ demo.myCore.recorder.entries.length ≤ (0x2FF - 0x100) / 2 :=
  ⟨_, rfl, by decide +kernel, by decide +kernel, rfl, by decide, by decide, by decide +kernel, nofun, by decide +kernel⟩
theorem witness_ReplayAndStop : ∃ s : State, s.myCore.recorder.serves = some s.me.launch ∧ s.myCore.recorder.state = .dawn ∧
    demo.myCore.recorder.state = .idle :=
  ⟨onCore fun k => { k with recorder := { state := .dawn, serves := some demo.me.launch } }, by decide +kernel, by decide +kernel, rfl⟩

/-- The descriptor of a row of four words at the first address of the scratchpad of core 0 (R131). -/
def rowWords : List Word := [BitVec.ofNat 64 padFirst, 0x201#64, 0x100000004#64, 0x100000001#64, 4#64, 0#64, 0#64, 0#64]
/-- The state with it at byte 64 of the scratchpad, whose address a2 holds. -/
def onRow : State :=
  { at_ (padFirst + 64) with mem := demo.mem.writeBytes (padFirst + 64) (rowWords.flatMap fun w => bytesOf 8 w.toNat) }
/-- The region of the whole row. -/
def row : Region := { tda := BitVec.ofNat 64 (padFirst + 64), rank := 1, esz := 2, bounds := [4, 1, 1, 1], boxes := [[⟨0, 4, 1⟩]] }
/-- A region of a table of three rows. -/
def table : Region := { tda := BitVec.ofNat 64 (padFirst + 64), rank := 2, esz := 2, bounds := [3, 4, 1, 1], boxes := [[⟨0, 3, 1⟩, ⟨0, 4, 1⟩]] }
/-- The state with a region in q1. -/
def onRegion (r : Region) : State := onCtx fun c => c.setQ 1#4 r

theorem witness_CanonicalFormKeepsPoints : Ranked 1 row.boxes ∧ Ranked 1 [] ∧ [(3 : Int)].length = 1 := by
  refine ⟨?_, ?_, rfl⟩ <;> unfold Ranked <;> decide +kernel
theorem witness_RegionAlgebra : ∃ f, setOf (onRegion row).me.ctx (.qsub 2#4 1#4 0#4) = some (2#4, row, {}, f, false) ∧
    ¬ TooWide (f 1) ∧ row.tda ≠ 0#64 ∧ (onRegion row).me.sup = false ∧ hullOk (hullOf row.set) = true :=
  ⟨_, rfl, by unfold TooWide; decide +kernel, by decide, by decide +kernel, by decide +kernel⟩
theorem witness_RegionAlgebra_change : ∃ f c, changeOf (onRegion row).me.ctx 1#64 (.qshf 0#3 2#4 1#4 (.lit 1#32)) = some (2#4, row, .lit 1#32, true, 0, f) ∧
    (onRegion row).me.ctx.read .access (.lit 1#32) = .ok (1#64, c) ∧ 0 < row.rank ∧ (∀ x ∈ f row, boxInRange x = true) ∧
    ¬ TooWide (canonUnion 1 (f row)) :=
  ⟨_, _, rfl, rfl, by decide, by decide +kernel, by unfold TooWide; decide +kernel⟩
theorem witness_RegionAlgebra_split : ∃ c, (onRegion row).me.ctx.read .access (.lit 0x10004#32) = .ok (0x10004#64, c) ∧ c.q 1#4 = row ∧
    (0x10004#64).toNat % 2 ^ 16 = 4 ∧ (0x10004#64).toNat / 2 ^ 16 = 1 ∧ ¬ TooWide (canonInter 1 row.set [[⟨1, 1, 1⟩]]) :=
  ⟨_, rfl, by decide +kernel, by decide, by decide, by unfold TooWide; decide +kernel⟩
theorem witness_RegionsMemoryAndQueries_descriptor : ∃ c ws u, onRow.me.ctx.read .access (.a 2) = .ok (BitVec.ofNat 64 (padFirst + 64), c) ∧
    canonical (BitVec.ofNat 64 (padFirst + 64)) = true ∧ (BitVec.ofNat 64 (padFirst + 64)).toNat % 64 = 0 ∧
    (onRow.setCtx c).plainLoads (BitVec.ofNat 64 (padFirst + 64)) 8 8 = .ok (ws, u) ∧
    (Tensor.ofWords (ws.map (BitVec.ofNat 64))).valid (((ws.map (BitVec.ofNat 64)).getD 1 0#64).extractLsb' 16 48) = true :=
  ⟨_, _, _, rfl, by decide +kernel, by decide +kernel, rfl, by decide +kernel⟩
theorem witness_RegionsMemoryAndQueries_image : ∃ ws u v q, (at_ padFirst).plainLoads (BitVec.ofNat 64 padFirst) 8 40 = .ok (ws, u) ∧
    Region.load (ws.map (BitVec.ofNat 64)) = some q ∧
    (at_ padFirst).plainStores (BitVec.ofNat 64 padFirst) 8 ((demo.me.ctx.q 1#4).image.map BitVec.toNat) = .ok v :=
  ⟨_, _, _, _, rfl, rfl, rfl⟩
theorem witness_RegionsMemoryAndQueries_rows : ∃ rows u, table.tda ≠ 0#64 ∧ table.rows = none ∧ table.ovf = false ∧
    table.boxes = [[⟨0, 3, 1⟩, ⟨0, 4, 1⟩]] ∧ 2 ≤ table.rank ∧ (onRegion table).tableOk (BitVec.ofNat 64 padFirst) 3 = .ok true ∧
    (onRegion table).plainLoads (BitVec.ofNat 64 padFirst) 4 3 = .ok (rows, u) ∧ (∀ x ∈ rows, x ≤ 2 ^ 24) :=
  ⟨_, _, by decide, rfl, rfl, rfl, by decide, rfl, rfl, by decide +kernel⟩
theorem witness_RegionsMemoryAndQueries_queries : hasRoom .access (.a 5) (onRegion row).me.ctx ∧ (onRegion row).me.ctx.q 1#4 = row ∧
    Ranked row.rank row.set ∧ row.ovf = false ∧ (onRegion row).me.ctx.q 0#4 = {} :=
  ⟨nofun, by decide +kernel, by unfold Ranked; decide +kernel, rfl, by decide +kernel⟩

/-- The state with a claim of 16 lanes, one tag and one word in every register. -/
def onLanes (t : Tag) : State := onCtx fun c => { c with
  acc := { c.acc with a := c.acc.a.set 2 (BitVec.ofNat 64 padFirst) }
  vec := { c.vec with w := 16, tag := Vector.replicate 16 t, v := Vector.replicate 16 (List.replicate 16 0#32) } }

theorem test_lanes : (onLanes tF32).me.ctx.vec.w ≠ 0 ∧ (onLanes tF32).me.ctx.vec.w ≤ 256 ∧
    (∀ r : BitVec 4, ((onLanes tF32).me.ctx.vreg r).length = (onLanes tF32).me.ctx.vec.w) := by decide +kernel
theorem witness_VectorElementwise : ∃ p f, elemOp (.vadd false 0#3 1#4 2#4 3#4) = some (false, 0#3, 1#4, [2#4, 3#4], p, f) ∧
    (∀ r ∈ [2#4, 3#4], (onLanes tF32).me.ctx.vtag r = tF32) ∧ p tF32 = true ∧ p tNone = false ∧ (onLanes tF32).me.sup = false ∧
    demo.me.ctx.vec.w = 0 ∧ (onLanes tF32).me.ctx.vtag 1#4 ≠ tI32 :=
  ⟨_, _, rfl, by decide +kernel, by decide +kernel, by decide +kernel, by decide +kernel, rfl, by decide +kernel⟩
theorem witness_VectorElementwise_bits : ∃ p f, bitOp (.vxor true 1#3 1#4 2#4 3#4) = some (true, 1#3, 1#4, [2#4, 3#4], p, f) ∧
    (∀ r ∈ [2#4, 3#4], (onLanes tI32).me.ctx.vtag r = tI32) ∧ p tI32 = true := ⟨_, _, rfl, by decide +kernel, by decide +kernel⟩
theorem witness_VectorSelectCompareAndTag : (onLanes tF32).me.ctx.vtag 2#4 = (onLanes tF32).me.ctx.vtag 3#4 ∧
    (onLanes tF32).me.ctx.vtag 2#4 ≠ tNone ∧ compares 0xC#4 tF32 ∧ compares 0xB#4 tI32 ∧ tagOk tF32 = true ∧ tagOk 0x1F#6 = false ∧
    [tBF16, tBF16, tF32] ∈ [[tI8, tI8, tI32], [tU8, tU8, tU32], [tI8, tU8, tI32], [tBF16, tBF16, tF32]] := by
  unfold compares; decide +kernel
theorem witness_VectorConversions : (isFlt ((onLanes tF32).me.ctx.vtag 1#4)) = true ∧ (onLanes tF32).me.ctx.vtag 2#4 = tF32 ∧ isB8 0x21#6 = true ∧
    (onLanes tF32).me.ctx.vec.w % 32 = 16 ∧ (onLanes 0x21#6).me.ctx.vtag 1#4 = 0x21#6 := by decide +kernel
theorem witness_VectorConversions_blocks : ∃ s : State, s.me.ctx.vtag 2#4 = tF32 ∧ isB8 (s.me.ctx.vtag 1#4) = true ∧ s.me.ctx.vec.w = 32 ∧
    (∀ r : BitVec 4, (s.me.ctx.vreg r).length = 32) ∧ s.me.ctx.vtag 3#4 = tScale :=
  ⟨onCtx fun c => { c with vec := { c.vec with w := 32, v := Vector.replicate 16 (List.replicate 32 0#32), tag := ((c.vec.tag.set 1 0x21#6).set 2 tF32).set 3 tScale } },
    by decide +kernel⟩
theorem witness_VectorReduceAndPermute : (16 : Nat) ≤ 2 ^ 4 ∧ (∀ m, 16 ≤ 2 ^ m → 4 ≤ m) ∧ (onLanes tU32).me.ctx.vtag 3#4 = tU32 ∧
    (onLanes tU32).me.ctx.vtag 3#4 ≠ tNone := by
  refine ⟨by decide, fun m h => ?_, by decide +kernel, by decide +kernel⟩
  exact (Nat.pow_le_pow_iff_right (a := 2) (by decide)).1 h
theorem place_ok {r : Except NoPlace Place} {p : Place} (h : (match r with | .ok q => decide (q = p) | .error _ => false) = true) : r = .ok p := by
  cases r <;> simp_all
theorem test_lanes_on_chip : ∀ n : Fin 16, (match windowPlace ((onLanes tF32).part (onLanes tF32).me.launch.part) (onLanes tF32).me.core
      (jumpValue (.a 2) (onLanes tF32).me.ctx + BitVec.ofNat 64 (4 * n.val)).toNat needW with
    | .ok q => decide (q = { key := padFirst + 4 * n.val })
    | .error _ => false) = true := by decide +kernel
theorem test_lane_addresses : ∀ n : Fin 16, let va := jumpValue (.a 2) (onLanes tF32).me.ctx + BitVec.ofNat 64 (4 * n.val)
    onChipLo ≤ va.toNat ∧ va.toNat < onChipHi ∧ va.toNat % 4 = 0 ∧ canonical va = true ∧ padFirst + 4 * n.val < 2 ^ 50 ∧
      (onLanes tF32).mem.poisoned (padFirst + 4 * n.val) = false := by decide +kernel
theorem witness_VectorMemory : ∃ f, lanesOf (onLanes tF32).me.ctx (.vst 0#3 0#4 1#4 (.a 2)) = some (false, 1#4, 0#3, 0#4, tF32, f) ∧
    (∀ n, n < 16 → OnChip (onLanes tF32) (f n) needW (padFirst + 4 * n)) ∧ (onLanes tF32).mem.wf = true :=
  ⟨_, rfl, fun n h => by
    obtain ⟨h1, h2, h3, h4, h5, h6⟩ := test_lane_addresses ⟨n, h⟩
    exact ⟨h1, h2, h3, h4, h5, h6, place_ok (test_lanes_on_chip ⟨n, h⟩)⟩, by decide +kernel⟩
theorem witness_VectorMemory_slices : (jumpValue .zero (onLanes tF32).me.ctx).toNat % 4 = 0 ∧ (jumpValue .zero (onLanes tF32).me.ctx).toNat ≤ 4092 ∧
    (onLanes tF32).me.ctx.vec.slice.wf = true ∧ (∀ n, n < 16 → (onLanes tF32).me.ctx.vec.slice.poisoned (4096 * n + 0) = false) ∧
    4092 < (jumpValue (.a 2) (onA 2 4096#64).me.ctx).toNat ∧ (jumpValue (.a 2) (onA 2 4095#64).me.ctx).toNat % 4 ≠ 0 := by decide +kernel
theorem witness_LaneClaimsAndMasks : (onLanes tF32).me.ctx.vec.w ≤ 256 ∧ Tab.wf [] (onLanes tF32).shorts = true ∧
    (onLanes tF32).me.ctx.vec.slice.wf = true ∧ demo.me.ctx.vec.w = 0 ∧ demo.me.sup = false ∧
    (∀ q : BitVec 4, (demo.me.ctx.vreg q).length = 0) := by decide +kernel

/-- The region of four rows of 16 elements, of 2 or of 4 bytes. -/
def grid (esz : Nat) : Region :=
  { tda := BitVec.ofNat 64 (padFirst + 64), rank := 2, esz := esz, bounds := [4, 16, 1, 1], boxes := [[⟨0, 4, 1⟩, ⟨0, 16, 1⟩]] }
/-- The descriptor of that region, with its elements at byte 128 of the scratchpad (R131). -/
def gridWords (esz : Nat) : List Word :=
  [BitVec.ofNat 64 (padFirst + 128), BitVec.ofNat 64 (256 * esz + 2), 0x1000000004#64, 0x100000001#64,
    BitVec.ofNat 64 (16 * 2 ^ esz), BitVec.ofNat 64 (2 ^ esz), 0#64, 0#64]
/-- The state with the region in q1 and a held tile 0, in a segment whose latch is dense with 16 rows of the strand. -/
def onGrid (esz : Nat) : State :=
  { onRegion (grid esz) with
    mem := demo.mem.writeBytes (padFirst + 64) ((gridWords esz).flatMap fun w => bytesOf 8 w.toNat)
    segments := [(0, { tiles := [(0, { holder := some demo.me.sid, tag := .f32 })], shape := { mode := .dense, k := 16 }, owner := demo.me.sid, valid := true })] }

theorem witness_MatrixJobsJoinTheQueue_fit : Fit (onGrid 1).me.sid ((onGrid 1).segment 0) ((onGrid 1).me.ctx.q 1#4) (.mma 1#4 false 0#4 1#4 0#3) ∧
    Fit (onGrid 1).me.sid ((onGrid 1).segment 0) ((onGrid 1).me.ctx.q 1#4) (.bld true 0#4 1#4) := by
  unfold Fit; decide +kernel
theorem witness_MatrixJobsJoinTheQueue_check : ∃ op, (onGrid 1).checkRegion (onGrid 1).origin ((onGrid 1).me.ctx.q 1#4) needR (inCore 0) =
    .ok (op, onGrid 1) := ⟨_, rfl⟩
theorem witness_MatrixJobsJoinTheQueue_room : demo.me.core = 0 ∧ (demo.matrixOf (clusterOfCore 0)).jobs.length < 64 ∧
    (demo.matrixOf (clusterOfCore 0)).dead = [] ∧ Tab.wf {} (onGrid 1).segments = true ∧ Tab.wf {} demo.matrix = true ∧
    Tab.wf {} ((onGrid 1).segment 0).tiles = true ∧ Tab.wf none (demo.matrixOf (clusterOfCore 0)).records = true := by decide +kernel
theorem witness_TilesAndJobWaits_tile : Tab.wf {} (onGrid 2).segments = true ∧ Tab.wf {} ((onGrid 2).segment 0).tiles = true ∧
    ((onGrid 2).segment 0).tile 0 = { holder := some demo.me.sid, tag := .f32 } ∧ ((onGrid 2).matrixOf 0).jobs = [] ∧
    (demo.segment 0).tile 0 = {} ∧ demo.me.sup = false := by decide +kernel
theorem witness_TilesAndJobWaits_load : ∃ op es w, (onGrid 2).tileRegion 1#4 needR = .ok (op, onGrid 2) ∧
    loadTile (onGrid 2) [] (tileMap op (op.region.extent 1)) = .ok (es, w) := ⟨_, _, _, rfl, rfl⟩
theorem witness_TilesAndJobWaits_store : ∃ op w, (onGrid 2).tileRegion 1#4 needW = .ok (op, onGrid 2) ∧
    storeTile (onGrid 2) [] (tileMap op (op.region.extent 1)) = .ok w := ⟨_, _, rfl, rfl⟩
theorem witness_TilesAndJobWaits_handle : ∃ c, demo.me.ctx.read .access (.a 2) = .ok (0#64, c) ∧
    demo.ownerOfCluster 0 = some demo.me.launch.part ∧ hasRoom .access (.a 3) c ∧ Tab.get none (demo.matrixOf 0).records 0 = none :=
  ⟨_, rfl, by decide +kernel, nofun, by decide +kernel⟩
theorem witness_TilesAndJobWaits_running : ∃ s : State, Tab.get none (s.matrixOf 0).records 0 = some ⟨0, s.me.sid, 1, {}, false⟩ ∧
    (s.matrixOf 0).accepted = 1 ∧ s.me.undo = none ∧ s.ownerOfCluster 0 = some s.me.launch.part :=
  ⟨{ demo with matrix := [(0, { accepted := 1, records := [(0, some ⟨0, demo.me.sid, 1, {}, false⟩)] })] }, by decide +kernel⟩

theorem witness_CopiesAreOffered_copy : ∃ src dst v u c, (onGrid 2).me.ctx.read .access .zero = .ok (0#64, c) ∧
    (onGrid 2).checkRegion (onGrid 2).origin ((onGrid 2).me.ctx.q 1#4) needR (fun _ => true) = .ok (src, v) ∧
    v.checkRegion v.origin ((onGrid 2).me.ctx.q 1#4) needW (fun _ => true) = .ok (dst, u) := ⟨_, _, _, _, _, rfl, rfl, rfl⟩
theorem witness_CopiesAreOffered_prepared : ∃ k p u, Control.ofWord 0#64 = some k ∧ (onGrid 2).prepareCopy 1#4 1#4 0#64 k = .ok (p, u) :=
  ⟨_, _, _, rfl, rfl⟩
theorem witness_CopiesAreOffered_rows : RowCopyFits (grid 2) { grid 2 with boxes := [[⟨0, 1, 1⟩, ⟨0, 16, 1⟩]] } ∧ neighbour 0 1 ≠ none := by
  unfold RowCopyFits; decide +kernel
theorem witness_CopiesAreOffered_trigger : ∃ ws v c, (at_ (padFirst + 8)).me.ctx.read .access (.a 2) = .ok (BitVec.ofNat 64 (padFirst + 8), c) ∧
    (at_ (padFirst + 8)).plainLoads (BitVec.ofNat 64 (padFirst + 8)) 8 4 = .ok (ws, v) ∧ ws = [0, 0, 0, 0] ∧ demo.copies = [] ∧
    canonical (BitVec.ofNat 64 (padFirst + 8)) = true ∧ (BitVec.ofNat 64 (padFirst + 8)).toNat % 8 = 0 :=
  ⟨_, _, _, rfl, rfl, by decide +kernel, rfl, by decide +kernel, by decide +kernel⟩
theorem witness_CountersBatchesAndArrivals_counter : (∃ c, (onA 2 22#64).me.ctx.read .access (.a 2) = .ok (22#64, c) ∧ hasRoom .access (.a 3) c) ∧
    (∃ c, (onA 2 23#64).me.ctx.read .access (.a 2) = .ok (23#64, c)) ∧ Tab.wf 0#64 demo.counters = true ∧ demo.me.sup = false :=
  ⟨⟨_, rfl, nofun⟩, ⟨_, rfl⟩, by decide +kernel, rfl⟩
theorem witness_CountersBatchesAndArrivals_batches : (demo.me.batchNext - demo.me.batchOldest).toNat < 15 ∧ demo.me.batchErr = [] ∧ demo.me.undo = none ∧
    (∃ m : Strand, (m.batchNext - m.batchOldest).toNat = 15 ∧ m.undo = none) ∧
    ∃ m : Strand, m.batchErr = [(3#16, 1)] ∧ m.finishedAge 3#16 ≠ 0 :=
  ⟨by decide +kernel, rfl, rfl, ⟨{ demo.me with batchNext := demo.me.batchOldest + 15#16 }, by decide +kernel⟩,
    ⟨{ demo.me with batchNext := 4#16, batchOldest := 4#16, batchErr := [(3#16, 1)] }, by decide +kernel⟩⟩
theorem witness_CountersBatchesAndArrivals_arrival : (∃ c, (at_ padFirst).me.ctx.read .access (.a 2) = .ok (BitVec.ofNat 64 padFirst, c) ∧
      c.read .access (.a 3) = .ok (0#64, c)) ∧
    (at_ padFirst).check (BitVec.ofNat 64 padFirst) 16 needW = .ok { key := padFirst } ∧
    (at_ padFirst).check (BitVec.ofNat 64 padFirst) 16 needR = .ok { key := padFirst } ∧ padFirst < 2 ^ 50 ∧ padFirst % 4 = 0 ∧
    (∀ k, k < 4 → demo.mem.poisoned (padFirst + 4 * k) = false) ∧ demo.mem.wf = true ∧ demo.mem.read (padFirst + 8) 4 = 0 :=
  ⟨⟨_, rfl, rfl⟩, rfl, rfl, by decide, by decide, by decide +kernel, by decide +kernel, by decide +kernel⟩
theorem witness_CountersBatchesAndArrivals_passed : (onMem fun m => m.write (padFirst + 8) 4 1).mem.read (padFirst + 8) 4 = 1 := by decide +kernel
theorem witness_CountersBatchesAndArrivals_region : ∃ op, (grid 2).ovf = false ∧
    (onGrid 2).checkRegion (onGrid 2).origin ((onGrid 2).me.ctx.q 1#4) needW (fun k => !isHost k) = .ok (op, onGrid 2) ∧
    (∀ k ∈ (onGrid 2).operandWords (onGrid 2).origin op, k < 2 ^ 52) ∧ (onGrid 2).me.regionMet = false :=
  ⟨_, rfl, rfl, by decide +kernel, rfl⟩

/-- An address of the scratchpad of core 0. -/
def pad (n : Nat) : Word := BitVec.ofNat 64 (padFirst + n)
/-- The descriptor of a routing call of one token, one expert and one member (R425). -/
def routeWords : List Word := [0x1000100000001#64, 0x8080100000001#64, 0x400000004#64, 0x100000000#64, pad 0x400, pad 0x200, pad 0x440, pad 0x480,
  pad 0x4C0, 0#64, pad 0x500, pad 0x540, pad 0x100, 0#64, 0#64, 0#64]
/-- The block of a collective call of one rank and one FP32 element (R405). -/
def collWords : List Word := [BitVec.ofNat 64 (tF32.toNat * 2 ^ 16), 0x100000001#64, 0x100000000#64, 1#64, 1#64, pad 0x100, pad 0x400, pad 0x440,
  0#64, pad 0x480, 0#64, 0#64, 0#64, 0#64, 0#64, 0#64]
/-- The state with such words at the first address of the scratchpad, which a2 holds. -/
def onCall (ws : List Word) : State :=
  { at_ padFirst with mem := demo.mem.writeBytes padFirst (ws.flatMap fun w => bytesOf 8 w.toNat) }

theorem ok_of {α β : Type} {e : Except α β} {p : β → Bool} (h : (match e with | .ok x => p x | .error _ => false) = true) :
    ∃ x, e = .ok x ∧ p x = true := by
  cases e with
  | error x => simp at h
  | ok x => exact ⟨x, rfl, h⟩

theorem witness_RoutingCalls : ∃ ru, (onCall routeWords).routeDesc strandLoader (onCall routeWords).bad (pad 0) = .ok ru ∧
    (decide (ru.2.routeExtents (onCall routeWords).origin true ru.1 = none ∧ ru.2.routeExtents (onCall routeWords).origin false ru.1 = none ∧
      ru.2.me = (onCall routeWords).me ∧ (ru.2.router 0).calls.length < 32)) = true := ok_of (by decide +kernel)
theorem witness_RoutingCalls_refused : (pad 64).toNat % 128 ≠ 0 ∧ canonical (pad 64) = true ∧
    (∃ wu, loadMany strandLoader demo (pad 0) 8 16 = .ok wu ∧ (decide (RouteDesc.ofWords wu.1 = none ∧ CollBlock.ofWords wu.1 = none)) = true) :=
  ⟨by decide, by decide +kernel, ok_of (by decide +kernel)⟩
theorem witness_RoutingCalls_handle : demo.routeRecord 0#64 = none ∧ demo.ownerOfCluster 0 = some demo.me.launch.part ∧ demo.me.undo = none := by
  decide +kernel
theorem witness_CollectiveCalls : ∃ btu, (onCall collWords).collBlock strandLoader (onCall collWords).bad 0 (pad 0) = .ok btu ∧
    (decide (btu.2.2.collExtents (onCall collWords).origin btu.1 = none ∧ btu.2.2.me = (onCall collWords).me ∧
      (btu.2.2.master 0).mailbox.length < 8 ∧ btu.2.2.coord? btu.1.handle 0#32 = none)) = true := ok_of (by decide +kernel)
theorem witness_CollectiveCalls_handle : demo.collRecord 0#64 = none ∧
    demo.mbItem 0 0 = some 0 := by decide +kernel

/-- The state whose L1 of core 0 holds one span. -/
def onSpan : State := onCore fun k => { k with spans := [{ line := 0, first := 0, words := [0#32], wts := 0, rts := 0 }] }
/-- The table entries of a page of 1 GB at address 0, below a root at 0x1000 (R304). -/
def onTables : State := onMem fun m => (m.write (hbmKey 0x1000) 8 0x2001).write (hbmKey 0x2000) 8 3

theorem witness_MemoryErrorEvents_words : homeCore padFirst = some 0 ∧ (demo.core 0).spans = [] ∧
    storageOf (hbmKey 0) = .hbm 0 ∧ dieOfPa 0 = 0 ∧ storageOf chipWindow = .chip 0 := by decide +kernel
theorem witness_MemoryErrorEvents_spans : (onSpan.core 0).spans ≠ [] ∧ Tab.wf {} onSpan.cores = true := by decide +kernel
theorem witness_MemoryErrorEvents_frame : demo.strand? demo.me.sid = some demo.me ∧ demo.me.inFrame = true ∧ (0 : Nat) < 4096 * (onLanes tF32).me.ctx.vec.w :=
  ⟨by decide +kernel, by decide +kernel, by decide +kernel⟩
theorem witness_MemoryErrorEvents_owners : ∃ owns : Partition → Bool, owns = (fun p => p.ownsChannel 0) ∧ ∃ n, owns (demo.part n) = true :=
  ⟨_, rfl, 0, by decide +kernel⟩
theorem witness_DieEvents_walk : demo.ownerOfCluster (clusterOfCore 0) = some 0 ∧ onTables.buffered 0 0x1000#64 0 = none ∧
    (∃ e, walk (onTables.part 0) onTables.mem 0x1000#64 0 = some e ∧ (leafHost e.leaf || leafFab e.leaf) = false) ∧ Tab.wf {} demo.cores = true :=
  ⟨by decide +kernel, by decide +kernel, ⟨_, rfl, by decide +kernel⟩, by decide +kernel⟩
/-- The translation of that page, private to core 0. -/
def ownPage : TlbEntry := ⟨0x1000#64, 0, 0x40000000, BitVec.ofNat 64 (2 ^ 62 + 2 ^ 50 + 3), hbmKey 0x2000⟩
theorem witness_DieEvents_page : ∃ s : State, (s.cores.findSome? fun c => c.2.tlb.find? fun e => e.entry == hbmKey 0x2000 && leafCls e.leaf == 1) =
    some ownPage ∧ Tab.wf {} s.cores = true :=
  ⟨onCore fun k => { k with tlb := [ownPage] }, by decide +kernel, by decide +kernel⟩
theorem witness_DieEvents_clocks : demo.sags = [] ∧ demo.latest < 0xF00000 ∧ (∃ s : State, 0xF00000 ≤ s.latest) ∧
    (∃ s : State, (Tab.get [] s.l2 (s.sliceOf 0 * 1024 + hbmKey 0 / 128 % 1024)).find? (fun x => x.line == hbmKey 0 / 128) = some ⟨hbmKey 0 / 128, 3⟩ ∧
      Tab.wf [] s.l2 = true ∧ Tab.wf 0 s.marks = true) :=
  ⟨rfl, by decide +kernel, ⟨{ demo with latest := 0xF00000 }, by decide⟩,
    ⟨{ demo with l2 := [(demo.sliceOf 0 * 1024 + hbmKey 0 / 128 % 1024, [⟨hbmKey 0 / 128, 3⟩])] }, by decide +kernel⟩⟩
theorem witness_DieEvents_ticks : (∀ m ∈ demo.strands, m.frame ≠ .preempted ∧ m.frame ≠ .spilled) ∧
    (∀ m ∈ demo.strands, m.frame ≠ .flight ∧ m.frame ≠ .inbox) ∧ (∀ (n : Fin 16) (d : Fin 4), demo.dieRecord n d = none) ∧
    Tab.wf none ({ demo with sags := [(3, some 0)] } : State).sags = true ∧ (∀ c : Fin 8, unmirrored demo c) := by
  refine ⟨by decide +kernel, by decide +kernel, by decide +kernel, by decide +kernel, fun c => ?_⟩
  unfold unmirrored; revert c; decide +kernel
theorem witness_DieEvents_push : ∃ s : State, ∃ p, s.pushes = [p] ∧ s.recording p.consumer p.launch .daylight = false ∧ Tab.wf {} s.cores = true :=
  ⟨{ demo with pushes := [⟨0, 0, demo.me.launch, { line := 0, first := 0, words := [], wts := 0, rts := 0 }⟩] }, _, rfl, by decide +kernel, by decide +kernel⟩
theorem witness_DieEvents_speed : unmirrored demo 0 ∧ (demo.core 0).speed.low < 3600000000 ∧
    (∃ s : State, 3600000000 ≤ (s.core 0).speed.low) := by
  refine ⟨?_, by decide +kernel, ⟨onCore fun k => { k with speed := { k.speed with low := 3600000000 } }, by decide +kernel⟩⟩
  unfold unmirrored; decide +kernel
theorem witness_DieEvents_nest : ∃ n, (onNest { fiveLeft with cancelled := true }).node? demo.me.launch = some n ∧
    n.nest = some { fiveLeft with cancelled := true } ∧ 0 ∉ fiveLeft.known := ⟨_, rfl, rfl, by decide⟩

/-- The state with a changed strand. -/
def onMe (f : Strand → Strand) : State := { demo with me := f demo.me }

theorem test_one_strand : distinct demo ∧ distinct (onTwo second) := by unfold distinct; decide +kernel
theorem witness_MigrationEvents_flight : ∃ s : State, s.strand? s.me.sid = some s.me ∧ s.me.frame = .flight ∧ s.me.refusal = none ∧ s.inboxLoad s.me.target < 2 :=
  ⟨onMe fun m => { m with frame := .flight }, by decide +kernel⟩
theorem witness_MigrationEvents_refused : ∀ b : Bool, ∃ s : State, s.strand? s.me.sid = some s.me ∧ s.me.frame = .flight ∧ s.me.refusal = some b :=
  fun b => ⟨onMe fun m => { m with frame := .flight, refusal := some b }, by cases b <;> decide +kernel⟩
/-- A migration in the inbox of core 1. -/
def inInbox : State := onMe fun m => { m with frame := .inbox, target := 1 }
theorem test_free_frame (c : Nat) (s : State) (h : Config.passes c = true) (hb : (s.core c).barred = false) (ho : s.occupied c 5 = false) :
    5 ∈ s.freeFrames c := by
  unfold State.freeFrames State.usableSlots
  simp only [h, hb, Bool.not_false, Bool.and_self, if_true, List.mem_filter, List.mem_range, ho, and_true]
  split <;> decide
/-- Whether a core passed its test is an opaque constant: the state has a free frame there if it did. -/
theorem witness_MigrationEvents_inbox : inInbox.strand? inInbox.me.sid = some inInbox.me ∧ inInbox.me.frame = .inbox ∧
    (Config.passes 1 = true → 5 ∈ inInbox.freeFrames inInbox.me.target) :=
  ⟨by decide +kernel, rfl, fun h => test_free_frame 1 inInbox h (by decide +kernel) (by decide +kernel)⟩
theorem witness_StrandEvents_misuse : ∃ s : State, ∃ d, s.me.sid ≠ 0xFFFFFFFF#32 ∧ s.me.deferred = [d] ∧ s.me.heldLag = some .lq ∧ s.me.heldLead = true ∧
    s.me.frame = .running ∧ s.me.sup = false :=
  ⟨onMe fun m => { m with deferred := [⟨{}, .follow, .access, {}⟩], heldLag := some .lq, heldLead := true }, _, by decide +kernel, rfl, rfl, rfl, rfl, rfl⟩
theorem witness_StrandEvents_message : demo.strand? demo.me.sid = some demo.me ∧ sidPkg demo.me.sid = demo.pkg ∧ sidLocal demo.me.sid < 384 ∧
    demo.me.inbox.length < 8 ∧ demo.me.frame ≠ .parked ∧ ((demo.me.sid.setWidth 64).extractLsb' 0 32 : StrandId) = demo.me.sid := by decide +kernel
/-- A strand that waits for the first word of the scratchpad, full or not. -/
def onWord (full : Bool) : State := { (onMe fun m => { m with
    frame := .parked, wait := some (.word padFirst (BitVec.ofNat 64 padFirst) 0#2 false .zero 0 0#64 none) }) with mem := demo.mem.setFull padFirst full }
theorem witness_StrandEvents_word : (onWord true).me.sid ≠ 0xFFFFFFFF#32 ∧ homeCore padFirst = some 0 ∧ (∀ b, (onWord b).tableLoad 0 < 64) ∧
    (∀ b, ∀ k ∈ feWords padFirst 4, (onWord b).mem.isFull k = b) ∧ (onWord true).poisonedWords padFirst 4 = [] ∧ (onWord true).me.undo = none ∧
    (onWord true).outsideWaits = [] :=
  ⟨by decide +kernel, by decide +kernel, by decide +kernel, by decide +kernel, by decide +kernel, rfl, by decide +kernel⟩
theorem witness_StrandEvents_waits : ∃ s : State, s.me.frame = .parked ∧ s.me.wait = some (.batch 0) ∧ s.strand? s.me.sid = some s.me :=
  ⟨onMe fun m => { m with frame := .parked, wait := some (.batch 0) }, by decide +kernel⟩
theorem witness_StrandEvents_fence : ∃ s : State, s.me.frame = .parked ∧ s.me.wait = some (.fenceD 0) ∧ 0 < s.tick ∧ s.strand? s.me.sid = some s.me :=
  ⟨{ (onMe fun m => { m with frame := .parked, wait := some (.fenceD 0) }) with tick := 1 }, by decide +kernel⟩
theorem witness_StrandEvents_preempted : ∃ s : State, s.me.frame = .preempted ∧ s.me.image = none ∧ s.me.wait = none ∧ s.mayResume s.me = true ∧
    s.spillWaits s.me.sid = false ∧ (s.part s.me.launch.part).pausing = false ∧ s.strand? s.me.sid = some s.me :=
  ⟨onMe fun m => { m with frame := .preempted }, by decide +kernel⟩
/-- A strand spilled from core 0. -/
def onSpilled : State := onMe fun m => { m with frame := .spilled }
/-- As before, of core 0. -/
theorem witness_StrandEvents_spilled : onSpilled.me.frame = .spilled ∧ onSpilled.me.wait = none ∧ onSpilled.mayResume onSpilled.me = true ∧
    (Config.passes 0 = true → 5 ∈ onSpilled.freeFrames 0) ∧ (onSpilled.part onSpilled.me.launch.part).ownsCluster 0 = true ∧
    onSpilled.savedOf onSpilled.me.sid = [] ∧ onSpilled.owedBefore onSpilled.me.sid 0 + onSpilled.me.ctx.vec.w ≤ onSpilled.freeLanes 0 :=
  ⟨rfl, rfl, by decide +kernel, fun h => test_free_frame 0 onSpilled h (by decide +kernel) (by decide +kernel), by decide +kernel, by decide +kernel,
    by decide +kernel⟩

/-- A job of core 0. -/
def job (kind : JobKind) (running : Bool) : Job :=
  { idx := 0, kind := kind, origin := demo.origin, tile := 0, zi := true, source := Operand.unbound, shape := { n := 1 }, running := running }
/-- The state with jobs in the queue of cluster 0. -/
def onJobs (js : List Job) : State := { demo with matrix := [(0, { jobs := js, accepted := js.length })] }
/-- A round of the eight cores of cluster 0. -/
def round (running : Bool) : List Job := (List.range 8).map fun c => { job .mmar running with idx := c, origin := { demo.origin with core := c } }
/-- The state with a copy of the strand. -/
def onCopy (k : Copy) : State := { demo with copies := [k] }
/-- A copy with a state, without bytes. -/
def copy (st : CopyState) : Copy :=
  { id := 1, cluster := 0, origin := demo.origin, batch := 0#16, state := st, lss := false, lsd := false, src := none, dst := none, signal := .none, todo := [] }

theorem witness_MatrixEvents_one : (∀ b, ∀ k ∈ [JobKind.mma, .mmas, .bld, .bmeta, .brot], (onJobs [job k b]).headJob 0 = some (job k b)) ∧
    Tab.wf {} demo.segments = true ∧ wellQueued (onJobs [job .bld true]) 0 := by
  unfold wellQueued; decide +kernel
theorem witness_MatrixEvents_load : ∃ vs u, demo.jobHalfwords demo.origin [] (job .bmeta true).source.addrs = (vs, [], u) ∧ u.segments = demo.segments ∧
    u.matrix = demo.matrix := ⟨[], demo, rfl, rfl, rfl⟩
theorem witness_MatrixEvents_round : (onJobs (round false)).roundMembers 0 = some (round false) ∧ wellQueued (onJobs (round false)) 0 ∧
    (onJobs (round true)).runningRound 0 .mmar ≠ [] := by
  unfold wellQueued; decide +kernel
theorem witness_CopyEvents_start : (onCopy (copy .queued)).copy? 1 = some (copy .queued) ∧ (onCopy (copy .queued)).startError (copy .queued) = 0 ∧
    (onCopy (copy .running)).strand? demo.origin.sid = some demo.me ∧ demo.origin.sid ≠ 0xFFFFFFFF#32 ∧ Tab.wf 0#64 demo.counters = true := by decide +kernel
theorem witness_CopyEvents_piece : ∃ bs u c' v w, let c := { copy .running with todo := [[(padFirst, ByteSource.const 1#8)]] }
    demo.pieceBytes c [(padFirst, .const 1#8)] = .ok (bs, u, c') ∧ u.writePiece c' padFirst bs = .ok (v, w) ∧ v.copies = demo.copies ∧ c'.id = 1 :=
  ⟨_, _, _, _, _, rfl, rfl, rfl, rfl⟩
theorem witness_CopyEvents_arrival : padFirst % 16 = 0 ∧ coreWindow ≤ padFirst ∧ padFirst < 2 ^ 50 ∧ demo.mem.wf = true ∧
    (∀ i, i < 3 → demo.mem.poisoned (padFirst + 4 * i) = false) ∧ (∃ s : State, s.me.wait = some (.arrival padFirst (pad 0) 0#64) ∧ s.me.frame = .parked) :=
  ⟨by decide, by decide, by decide, by decide +kernel, by decide +kernel,
    ⟨onMe fun m => { m with frame := .parked, wait := some (.arrival padFirst (pad 0) 0#64) }, rfl, rfl⟩⟩

/-- The state with a changed partition 0. -/
def onPart (f : Partition → Partition) : State := { demo with parts := demo.parts.set 0 (f (demo.part 0)) }
/-- Partition 0 with fields of its block set. -/
def onBlock (fs : List (Nat × List Byte)) : State := onPart fun p => { p with
  block := fs.foldl (fun b f => f.2.zipIdx.foldl (fun b x => Tab.put 0#8 b (f.1 + x.2) x.1) b) p.block }
/-- The same, with its fault records at the first chip address. -/
def onRecords : State := onBlock [(0xA0, bytesOf 8 chipWindow)]
/-- That state with a request to kill in the control block. -/
def onRequest : State := { onRecords with
  mem := setFulls (demo.mem.write (chipWindow + 0x1A010) 8 5) (chipWindow + 0x1A010) 8 true }

theorem witness_PartitionEvents_configure : (onPart fun p => { p with state := .defined }).always.recovery = false ∧
    Tab.wf 0#8 (demo.part 0).block = true ∧ demo.sessions = [] := by decide +kernel
theorem witness_PartitionEvents_define : ∃ s : State, ∃ y, y = { s.part 1 with state := PartState.defined } ∧ (s.part 1).state = .undefined ∧
    s.clashes 1 y = false ∧ y.fieldsOk = true ∧ s.unitsReady y = true := by
  refine ⟨{ demo with parts := demo.parts.set 1 { block := [(0x99, 1#8), (0x9A, 1#8), (0x9C, 1#8)] } }, _, rfl, ?_, ?_, ?_, ?_⟩ <;> decide +kernel
theorem witness_PartitionEvents_states : (∀ st : PartState, ((onPart fun p => { p with state := st }).part 0).state = st) ∧
    (∀ s ∈ demo.strands, s.launch.part = 0) ∧ ({ demo.me with unreported := true } : Strand).yieldsNow = false ∧ (∃ l ∈ demo.launches, l.part = 0) := by
  refine ⟨fun _ => rfl, by decide +kernel, by decide +kernel, by decide +kernel⟩
theorem witness_PartitionEvents_requests : onRequest.controlBlock 0 = some (chipWindow + 0x1A000) ∧ (chipWindow + 0x1A000) % 8 = 0 ∧
    onRequest.request? (chipWindow + 0x1A010) = some 5#64 ∧ onRequest.launch? 0 5#16 = none ∧ onRequest.mem.wf = true := by decide +kernel
theorem witness_PartitionEvents_kills : ∃ s : State, ∃ l, s.launch? 0 0#16 = some l ∧ s.strandsOf l = [] ∧ l.kill = .quiesced ∧ l.nodes = [] ∧
    l.byRequest = false ∧ (s.part 0).state ≠ .killing ∧ s.copies = [] :=
  ⟨{ State.reset with launches := [{ bootLaunch with kill := .quiesced, nodes := [] }] }, _, rfl, by decide +kernel⟩

/-- A work queue in memory of the device, with one record whose graph is one join (R366 to R368). -/
def onWork : State := { onBlock [(0xD9, [1#8])] with
  queues := [(0, { ring := 0x20000#64, ondev := true, logn := 4#5, tail := 1#32, en := true })]
  launches := []
  mem := (((demo.mem.write (hbmKey 0x20000) 8 0x30000).write (hbmKey 0x30000) 1 1).write (hbmKey 0x30040) 1 7).writeBytes (hbmKey 0x30048) (List.replicate 16 0xFF#8) }
theorem witness_LaunchEvents_record : ∃ ws u, onWork.engineReadWords (hbmKey (onWork.queue 0).recordAt) 16 = (ws, u) ∧ u.queues = onWork.queues ∧
    onWork.ownerOfQueue 0 = some 0 ∧ onWork.fetches 0 0 (onWork.queue 0) = true ∧ (onWork.part 0).ownsPa (onWork.queue 0).recordAt = true ∧
    recordOk (wordBytes ws) = true := ⟨_, _, rfl, by decide +kernel, by decide +kernel, by decide +kernel, by decide +kernel, by decide +kernel⟩
theorem witness_LaunchEvents_graph : onWork.launch? 0 0#16 = none ∧ Tab.wf {} onWork.queues = true ∧
    (onWork.readGraph 0 0x30000).isSome = true := by decide +kernel

/-- The state whose launch has one node. -/
def onNode (n : Node) : State := { demo with launches := [{ bootLaunch with nodes := [n] }] }
theorem witness_LaunchEvents_start : ∃ l n, (onNode { kind := .join, npred := 0, succ := [] }).liveNode {} = some (l, n) ∧ n.kind = .join ∧
    eligible l.nodes 0 = true ∧ (onNode { kind := .join, npred := 0, succ := [] }).comesFirst l = true := ⟨_, _, rfl, rfl, by decide +kernel, by decide +kernel⟩
theorem witness_LaunchEvents_kernel : ∃ l n, demo.liveNode {} = some (l, n) ∧ n.state = .running ∧ n.kind = .kernel bootPc 0#64 0#64 [] 1 1 0 ∧
    graphOver l.nodes = false := ⟨_, _, rfl, rfl, rfl, by decide +kernel⟩
theorem witness_LaunchEvents_copy : ∃ s : State, ∃ l n, s.liveNode {} = some (l, n) ∧ n.state = .running ∧ n.kind = .copy 0#64 0#64 0#64 0 ∧
    n.command = some (.copy 0) ∧ n.result = some 2 :=
  ⟨onNode { kind := .copy 0#64 0#64 0#64 0, npred := 0, succ := [], state := .running, command := some (.copy 0), result := some 2 }, _, _, rfl, rfl, rfl, rfl, rfl⟩
theorem witness_LaunchEvents_loop : ∃ s : State, ∃ l n, s.liveNode {} = some (l, n) ∧ n.state = .running ∧ n.kind = .loop 0#64 3 1 1 ∧ n.created = 0 :=
  ⟨onNode { kind := .loop 0#64 3 1 1, npred := 0, succ := [], state := .running }, _, _, rfl, rfl, rfl, rfl⟩
theorem witness_LaunchEvents_over : ∃ s : State, ∃ l, s.launch? 0 0#16 = some l ∧ l.kill = .none ∧ graphOver l.nodes = true :=
  ⟨onNode { kind := .join, npred := 0, succ := [], state := .completed }, _, rfl, rfl, by decide +kernel⟩

/-- The state with a host window over the first 64 KB of the device, for reads and writes (R384). -/
def onWindow : State := { onRecords with mem := demo.mem.write (chipWindow + 0x1A040) 8 (2 ^ 63 + 2 ^ 62 + 2 ^ 61) }
theorem witness_HostEvents_memory : demo.deviceAddr demo.hdmBase 8 = some 0 ∧ demo.hostMay 0 8 false = false ∧ onWindow.deviceAddr onWindow.hdmBase 8 = some 0 ∧
    onWindow.hostMay 0 8 false = true ∧ onWindow.hostMay 0 8 true = true ∧ onWindow.mem.wf = true ∧ onWindow.mem.poison = [] := by decide +kernel
theorem witness_HostEvents_lines : ∀ st : HostState, ∃ s : State, (Tab.get {} s.hostCache (2 ^ 51 / 64)).state = st ∧ s.host.linkDown = false ∧
    (st ≠ .invalid → Tab.wf {} s.hostCache = true) :=
  fun st => ⟨{ demo with hostCache := [(2 ^ 51 / 64, { state := st })] }, by cases st <;> decide +kernel⟩
theorem witness_HostEvents_gate : demo.ownerOfCluster 191 = none ∧ demo.ownerOfCluster 0 = some 0 ∧ Tab.wf {} demo.cores = true ∧
    demo.hostCache.length < 131072 := by decide +kernel
theorem witness_ManagementEvents : demo.always.recovery = false ∧ demo.pending = [] ∧ demo.always.fusedSvn = 0 ∧
    (∃ p, (demo.part p).active = true) ∧ (∀ p, (State.reset.part p).state = .undefined) ∧ State.reset.strands = [] ∧ State.reset.launches = [] :=
  ⟨by decide +kernel, by decide +kernel, by decide +kernel, ⟨0, by decide +kernel⟩, by decide +kernel, by decide +kernel, by decide +kernel⟩

/-- A request of another package for four bytes of the first page of this one. -/
def request (op : RemoteOp) : RemoteRequest := { fromPkg := 1#10, part := 0, key := hbmKey 0, size := 4, op := op }
/-- An access of the strand to another package that has not been answered. -/
def access (op : RemoteOp) : RemoteAccess := { sid := demo.me.sid, va := 0#64, key := 0, size := 4, op := op, dest := .reg (.a 2), la := 0 }
/-- The state with that access, whose answer ends the strand's wait. -/
def onRemote (op : RemoteOp) : State := { (onMe fun m => { m with wait := some (.remote true) }) with remoteOps := [access op] }

theorem witness_RemoteEvents_home : storageOf (hbmKey 0) = .hbm 0 ∧ (demo.part 0).ownsPa 0 = true ∧ (demo.part 1).ownsPa 0 = false ∧
    mustWait demo.mem (hbmKey 0) 4 .ldf = true ∧ mustWait demo.mem (hbmKey 0) 4 .load = false ∧ demo.poisonedWords (hbmKey 0) 4 = [] ∧
    (request .load).key % (request .load).size = 0 ∧ demo.mem.wf = true := by decide +kernel
theorem witness_RemoteEvents_answer : ∀ op ∈ [RemoteOp.load, .ldf, .lde], (onRemote op).oldestRemote demo.me.sid = some (access op) ∧
    (onRemote op).me.wait = some (.remote true) ∧ (onRemote op).me.undo = none ∧ (onRemote op).faultRecord 0 = none ∧
    returnsValue op = true ∧ returnsValue (.store 0#64) = false ∧ (onRemote op).me.sid ≠ 0xFFFFFFFF#32 := by decide +kernel
theorem witness_RemoteEvents_policy : demo.myPart.poisonTrap = false ∧ (onBlock [(0x9B, [1#8])]).myPart.poisonTrap = true := by decide +kernel
theorem witness_RemoteEvents_port : (demo.port 0).down = false ∧ (demo.port 0).retired = [] ∧ Tab.wf {} demo.ports = true ∧
    (List.replicate 256 (0#8 : Byte)).length = 256 := by decide +kernel

/-- The state with session 1 of partition 0. -/
def onSession (x : Session) : State := { demo with sessions := [(sessionIdx 0 1#10, some x)] }
/-- An entry for session 1 over port 0, of a partition that owns the port. -/
def entry : List Byte := bytesOf 2 1 ++ bytesOf 2 0 ++ bytesOf 4 1 ++ bytesOf 120 0
theorem witness_SessionEvents_open : demo.masters = [] ∧ entrySess entry = 1 ∧ (onBlock [(0x98, [1#8])]).entryOk 0 entry = true ∧
    demo.entryOk 0 entry = false ∧ demo.session? 0 1#10 = none := by decide +kernel
theorem witness_SessionEvents_states : ∀ b : Bool, ∃ x, (onSession { state := 1, entry := entry, initiator := b }).session? 0 1#10 = some x ∧ x.state = 1 ∧
    x.initiator = b ∧ Tab.wf none (onSession { state := 1, entry := entry, initiator := b }).sessions = true :=
  fun b => ⟨{ state := 1, entry := entry, initiator := b }, by cases b <;> decide +kernel⟩
theorem witness_SessionEvents_keys : ∃ x, (onSession { state := 2, entry := entry, pnOut := 2 ^ 32, oldIn := some (⟨⟨0#256, 0#32⟩, none, []⟩, 0) }).session? 0 1#10 = some x ∧
    x.state = 2 ∧ 2 ^ 32 ≤ x.pnOut ∧ x.oldIn.isSome = true ∧ x.unacked = [] :=
  ⟨{ state := 2, entry := entry, pnOut := 2 ^ 32, oldIn := some (⟨⟨0#256, 0#32⟩, none, []⟩, 0) }, by decide +kernel⟩
theorem witness_SessionEvents_datagram : ∃ d : List Byte, fieldOf d 0 1 / 16 = 1 ∧ fieldOf d 1 3 = 0 ∧ fieldOf d 4 4 = 0 ∧ 32 ≤ d.length ∧
    d.length ≤ 16 + 8192 + 16 := ⟨0x10#8 :: List.replicate 31 0#8, by decide +kernel⟩

/-- The state after an instruction that completes. -/
noncomputable def after (i : Instr) (s : State) : State :=
  match exec i s with
  | .next t => t
  | _ => demo
/-- The states after the calls of `collWords` and `routeWords`. -/
noncomputable def onColl : State := after (.coll (.a 3) (.a 2)) (onCall collWords)
noncomputable def onRoute : State := after (.route (.a 3) (.a 2)) (onCall routeWords)

theorem witness_CoordinatorEvents : ((onColl.coord? 1#32 0#32).map fun x => (x.stage, x.block.isSome, x.remote, x.tstart)) =
      some (.open_, true, [], onColl.tick) ∧ onColl.collCall? 1#32 0#32 1 = none ∧ onColl.flushedPast 1#32 0#32 = false ∧
    (onColl.collGroup 1#32 0#32).length = 1 ∧ demo.coord? 1#32 0#32 = none ∧ demo.masters.all (fun x => x.2.mailbox.isEmpty) = true := by
  decide +kernel
theorem witness_MemberCallEvents : ((onColl.master 0).mailbox = [.call 0]) ∧ (onColl.master 0).accepted ≠ 0 ∧
    ((onColl.master 0).calls.map fun c => (c.idx, c.formed, memberSess (c.table.getD c.block.coord 0#32), onColl.memberBusy c)) = [(0, none, 0#10, false)] ∧
    (onColl.collCall? 1#32 0#32 0).isSome = true := by decide +kernel
theorem witness_RoutingEngineEvents : ((onRoute.router 0).calls.find? onRoute.mayStart).isSome = true ∧ (demo.router 0).calls = [] ∧
    (demo.router 0).experts = [] := by decide +kernel
/-- The same call of a rank whose coordinator is on package 5, with its contribution formed. -/
noncomputable def onFar : State := { onColl with masters := onColl.masters.map fun x => (x.1, { x.2 with
  calls := x.2.calls.map fun c => { c with running := true, table := [5#32], formed := some { old := [], c := [], sent := [] } } }) }
theorem witness_MemberCallEvents_far : ((onFar.collCall? 1#32 0#32 0).map fun x => (x.2.formed.isSome, onFar.coordHere x.2, onFar.reachable x.2)) =
    some (true, false, true) := by decide +kernel
/-- An expert of die 0, and the same call running, with the expert's grant not received. -/
noncomputable def onExpert (closed : Bool) : State := { onRoute with routers := onRoute.routers.map fun x => (x.1, { x.2 with
  calls := x.2.calls.map fun c => { c with running := true, grants := [.waiting] }
  experts := [{ die := 0, handle := 1#32, seq := 0#32, expert := 0, origin := demo.origin, buf := pad 0x600, ablk := pad 0x640, cap := 1, rb := 4, nmem := 2
                timeout := 1, start := 0, own := 0, next := 0, answered := 0, closed := closed }] }) }
theorem witness_RoutingEngineEvents_expert : ∀ b, ((onExpert b).routeExpert? 0 1#32 0#32 0).map (fun e => (e.die, e.closed, decide (e.answered + 1 < e.nmem), e.start + e.timeout)) =
    some (0, b, true, 1) := by decide +kernel
theorem witness_RoutingEngineEvents_grant : (((onExpert false).router 0).calls.map fun c => (c.idx % 65536, c.die, c.running, c.combine, c.desc.timeout)) =
    [(0, 0, true, false, 1)] ∧ (((onExpert false).router 0).calls.all fun c => c.grants.contains .waiting) = true ∧
    ((onExpert false).homeCall 1#32 0#32).isSome = true ∧ ((onExpert false).router 0).accepted ≠ 0 := by decide +kernel

/-- The states whose next step runs `NOP`, and a short `VADD`. -/
def atNop : State := State.reset.withFetchWord 32 0x0018C629
def atShort : State := State.reset.withFetchWord 16 0x4620
theorem witness_StepRunsDecoded : standsToIssue atNop [] ∧ standsToIssue atShort [] := by
  refine ⟨⟨rfl, ?_, ?_, rfl, ?_, ?_, ?_, ?_, ?_, ?_, ?_, ?_⟩, ⟨rfl, ?_, ?_, rfl, ?_, ?_, ?_, ?_, ?_, ?_, ?_, ?_⟩⟩ <;> decide +kernel
theorem witness_StepRunsDecoded_long : ∃ x, ({ atNop with turns := [] } : State).fetchHalf atNop.me.pc = .ok x ∧
    (match x.2.fetchHalf (atNop.me.pc + 2#64) with
    | .ok y => decide (x.1.getLsbD 0 = true ∧ y.1 ++ x.1 = 0x0018C629#32)
    | .error _ => false) = true := ok_of (by decide +kernel)
theorem witness_StepRunsDecoded_short : ∃ x, ({ atShort with turns := [] } : State).fetchHalf atShort.me.pc = .ok x ∧
    decide (x.1 = 0x4620#16) = true := ok_of (by decide +kernel)
theorem witness_StepsGoOn : ∃ s : State, s.always.railsOff = true ∧ s.pending = [] :=
  ⟨{ demo with always := { demo.always with railsOff := true } }, rfl, rfl⟩
theorem witness_EncodingAgrees : WellFormed (.nop always) ∧ encode (.nop always) = Sys2Proof.bytesOfWord 0x0018C629#32 := by
  refine ⟨?_, ?_⟩ <;> decide +kernel
theorem witness_MemoryStaysCanonical : demo.mem.wf = true ∧ atNop.mem.wf = true ∧ ∃ t, exec (.nop always) demo = .next t :=
  ⟨by decide +kernel, by decide +kernel, ⟨_, rfl⟩⟩
theorem witness_BitOperations : (0 : Nat) < 64 ∧ (63 : Nat) < 64 := by decide

/-! ## Further states, for single clauses of the statements above -/

theorem witness_Unbroken : Unbroken demo ∧ Unbroken (onLanes tF32) ∧ Unbroken (at_ padFirst) := ⟨⟨rfl, rfl⟩, ⟨rfl, rfl⟩, ⟨rfl, rfl⟩⟩
theorem witness_LoadsAndStores_span : ∃ s : State, ∃ sp : Span, (s.core s.me.core).spans.find? (fun x => x.holds (hbmKey 0) 4) = some sp ∧ sp.priv = false ∧
    s.me.ts ≤ sp.rts ∧ uncached (hbmKey 0) = false ∧ s.dieRecord s.me.launch.part 0 = none :=
  ⟨onCore fun k => { k with spans := [{ line := hbmKey 0 / 128, first := 0, words := [0#32, 1#32], wts := 0, rts := 9 }] }, _, rfl, by decide +kernel,
    by decide +kernel, by decide +kernel, by decide +kernel⟩
theorem witness_FencesAndYield_set : ∃ m ∈ (onTwo second).strands, m.core = (onTwo second).me.core ∧ m.sid ≠ (onTwo second).me.sid ∧ m.readyOn .access = true :=
  ⟨second, by decide +kernel, by decide +kernel, by decide +kernel, by decide +kernel⟩
theorem witness_ReturnFromTrap_stops : onSup.me.sup = true ∧ (onSup.setCtx { onSup.me.ctx with queues := { lq := [7#64] } }).me.ctx.closeAll.queues ≠ {} ∧
    onSup.me.sid ≠ Strand.absent.sid := by decide +kernel
theorem witness_MatrixJobsJoinTheQueue_round : RoundOpen (onGrid 1) ∧ ∃ s : State, RoundOpen s ∧ ∃ j ∈ (s.matrixOf 0).jobs, j.kind.ring = true ∧
    j.round = (s.segment s.me.core).rings := by
  refine ⟨⟨rfl, nofun⟩, onJobs [{ job .mmar false with since := demo.meshNow.1 }], ⟨rfl, ?_⟩, _, List.mem_singleton.2 rfl, rfl, by decide +kernel⟩
  intro j h _ _
  rw [List.mem_singleton.1 h]
  exact Nat.lt_add_of_pos_right (by decide)
theorem witness_MatrixJobsJoinTheQueue_hull : ∃ s : State, (s.me.ctx.q 1#4).ovf = true ∧ (s.me.ctx.q 1#4).rows = none :=
  ⟨onRegion { grid 1 with ovf := true }, by decide +kernel⟩
theorem witness_TilesAndJobWaits_window : ∃ s : State, ∃ w, (s.me.ctx.acc.tileWindows.find? fun w => w.tile == 0) = some w :=
  ⟨onCtx fun c => { c with acc := { c.acc with tileWindows := [⟨0, 3, 0, 0, none⟩] } }, _, rfl⟩
theorem witness_CopiesAreOffered_armed : (demo.copies.filter fun k => k.cluster == demo.myCluster).length < 64 ∧
    (Tab.get 0#64 demo.counters 3).toNat < (1#64).toNat ∧ (0#64 : Word).toNat ≤ (Tab.get 0#64 demo.counters 3).toNat := by decide +kernel
theorem witness_CountersBatchesAndArrivals_names : Names (at_ padFirst) (BitVec.ofNat 64 padFirst) needW padFirst ∧
    Names (at_ padFirst) (BitVec.ofNat 64 padFirst) needR padFirst :=
  ⟨⟨{ key := padFirst }, rfl, rfl, rfl, by decide, by decide +kernel, by decide +kernel⟩, ⟨{ key := padFirst }, rfl, rfl, rfl, by decide, by decide +kernel, by decide +kernel⟩⟩
theorem witness_CountersBatchesAndArrivals_stall : ((onMem fun m => m.write (padFirst + 15) 1 128).mem.byte (padFirst + 15)).getLsbD 7 = true ∧
    (∃ op, (onGrid 2).checkRegion (onGrid 2).origin ((onGrid 2).me.ctx.q 1#4) needW (fun k => !isHost k) = .ok (op, onGrid 2) ∧
      ¬ ∀ k ∈ (onGrid 2).operandWords (onGrid 2).origin op, (onGrid 2).mem.keptFull k = true) :=
  ⟨by decide +kernel, _, rfl, by decide +kernel⟩

theorem witness_MemoryErrorEvents_slices : demo.sliceDie 0 < 4 ∧ ∀ m : Fin 16, (demo.part m).ownsChannel 0 = true ↔ m = 0 := by decide +kernel
theorem witness_MemoryErrorEvents_unowned : ∀ m : Fin 16, (demo.part m).ownsChannel 15 = false := by decide +kernel
theorem witness_DieEvents_reclassified : ∃ s : State, (s.cores.findSome? fun c => c.2.tlb.find? fun e => e.entry == hbmKey 0x2000 && leafCls e.leaf == 1) =
    some ownPage ∧ BitVec.ofNat 64 (s.mem.read (hbmKey 0x2000) 8) = ownPage.leaf ∧ Tab.wf {} s.cores = true :=
  ⟨{ (onCore fun k => { k with tlb := [ownPage] }) with mem := demo.mem.write (hbmKey 0x2000) 8 ownPage.leaf.toNat }, by decide +kernel, by decide +kernel, by decide +kernel⟩
theorem witness_DieEvents_install : ∃ s : State, ∃ p, s.pushes = [p] ∧ s.recording p.consumer p.launch .daylight = true ∧
    (∃ l, s.launch? p.launch.part p.launch.tag = some l ∧ l.kill = .none) ∧ (s.core p.consumer).spans = [] ∧ Tab.wf {} s.cores = true ∧ (∀ m ∈ s.strands, m.core = p.consumer → m.missed ≠ some p.span.line) :=
  ⟨{ (onCore fun k => { k with recorder := { state := .daylight, serves := some demo.me.launch } }) with
    pushes := [⟨0, 0, demo.me.launch, { line := 0, first := 0, words := [], wts := 0, rts := 0 }⟩] }, _, rfl, by decide +kernel, ⟨_, rfl, rfl⟩,
    by decide +kernel, by decide +kernel, by decide +kernel⟩
theorem witness_DieEvents_sag : ∃ s : State, Tab.get none s.sags 0 = some 0 ∧ 0 < s.tick ∧ (∀ c, clusterOfCore c = 0 → unmirrored s c) := by
  refine ⟨{ demo with sags := [(0, some 0)], tick := 1 }, by decide +kernel, by decide, fun c hc => ?_⟩
  have h : ∀ x : Fin 8, ∀ n : Fin 16, demo.ownerOfCluster (clusterOfCore x) = some n → (demo.part n).frbase (dieOfCore x) = 0 := by decide +kernel
  exact h ⟨c, by unfold clusterOfCore at hc; omega⟩

/-- A second strand that waits in the inbox of core 0, whose frames are all barred. -/
def onFull (f : Strand → Strand) : State :=
  { (onCore fun k => { k with barred := true }) with me := f demo.me, others := [{ second with frame := .inbox, target := 0 }] }
theorem test_no_frame (c : Nat) (s : State) (h : (s.core c).barred = true) : s.freeFrames c = [] := by
  unfold State.freeFrames State.usableSlots
  simp [h]
theorem witness_StrandEvents_spill : (onFull fun m => { m with frame := .preempted }).me.frame = .preempted ∧
    (onFull fun m => { m with frame := .preempted }).spillWaits demo.me.sid = false ∧
    (onFull fun m => { m with frame := .preempted }).frameNeeded (onFull fun m => { m with frame := .preempted }).me = true ∧
    (onFull fun m => { m with frame := .preempted }).strand? demo.me.sid = some (onFull fun m => { m with frame := .preempted }).me := by
  refine ⟨rfl, by decide +kernel, ?_, by decide +kernel⟩
  have h := test_no_frame (onFull fun m => { m with frame := .preempted }).me.core (onFull fun m => { m with frame := .preempted }) (by decide +kernel)
  unfold State.frameNeeded
  rw [h]
  decide +kernel
theorem test_place (used : List (Nat × Nat)) (n d : Nat) (a : StoreArea) (h : fits used a n a.1 = true) : ∃ k, placeIn used n d a = some k := by
  unfold placeIn
  dsimp only
  split
  · exact ⟨_, rfl⟩
  · exact ⟨a.1, by simp [h]⟩
/-- The state whose partition has a context store of 1 MB in HBM (R362). -/
def onStore : State := onBlock [(0xD2, [16#8])]
theorem witness_StrandEvents_store : ∃ k, (onStore.storePlace 0 0 6656).1 = some k := by
  obtain ⟨k, h⟩ := test_place onStore.images 6656 onStore.draw.1 (hbmKey (onStore.part 0).storeBase, (onStore.part 0).storeSize) (by decide +kernel)
  unfold State.storePlace Partition.stores
  dsimp only
  generalize placeIn onStore.images 6656 onStore.draw.1 = f at h ⊢
  simp only [List.findSome?, h]
  split
  · exact ⟨_, rfl⟩
  · exact ⟨k, rfl⟩
theorem witness_MigrationEvents_stored : ∃ s : State, s.me.frame = .inbox ∧ s.freeFrames s.me.target = [] :=
  ⟨onFull fun m => { m with frame := .inbox, target := 0 }, rfl, test_no_frame _ _ (by decide +kernel)⟩
theorem witness_StrandEvents_resume : ∃ s : State, s.me.frame = .preempted ∧ s.isHead s.me = true ∧ s.outranked s.me s.me.core = false ∧ s.mayResume s.me = true ∧
    s.me.image = none ∧ s.me.wait = none :=
  ⟨onMe fun m => { m with frame := .preempted }, by decide +kernel⟩
theorem witness_StrandEvents_spilledHead : onSpilled.isHead onSpilled.me = true ∧ onSpilled.outranked onSpilled.me 0 = false ∧
    onSpilled.resuming.any (fun r => r.1 == onSpilled.me.sid) = false ∧
    (∃ s : State, s.me.ctx.vec.w = 256 ∧ s.freeLanes 0 < s.owedBefore s.me.sid 0 + s.me.ctx.vec.w) := by
  refine ⟨by decide +kernel, by decide +kernel, by decide +kernel,
    ⟨{ (onSpilled.setCtx { onSpilled.me.ctx with vec := { onSpilled.me.ctx.vec with w := 256 } }) with
      others := (List.range 8).map fun i => ({ second with core := i, ctx := { second.ctx with vec := { second.ctx.vec with w := 256 } } } : Strand) }, by decide +kernel, by decide +kernel⟩⟩
theorem witness_StrandEvents_boundaries : demo.me.yieldsNow = true ∧ ({ demo.me with unreported := true } : Strand).yieldsNow = false ∧
    demo.me.deferred = [] ∧ demo.me.ctx.windowOpen = false := by decide +kernel
/-- A spilled head of a resume queue in a partition without clusters, and a resident strand whose quantum is over. -/
def onStuck : State := { (onBlock [(0x08, [0#8]), (0x99, [1#8])]) with
  cores := [(0, { (demo.core 0) with barred := true })], tick := 100, others := [{ second with frame := .spilled }] }
theorem witness_StrandEvents_quantum : (∃ x ∈ onStuck.stuckHeads 0, onStuck.holdsFor onStuck.me x = true ∧ onStuck.me.prio ≤ x.prio) ∧
    onStuck.me.since + (onStuck.part 0).quantum ≤ onStuck.tick ∧ onStuck.me.frame = .running ∧ demo.tick < demo.me.since + (onStuck.part 0).quantum :=
  ⟨⟨{ second with frame := .spilled }, by decide +kernel, by
    have h := test_no_frame onStuck.me.core onStuck (by decide +kernel)
    unfold State.holdsFor
    rw [h]
    decide +kernel, by decide +kernel⟩, by decide +kernel, by decide +kernel, by decide +kernel⟩
/-- A job that reads a halfword of the scratchpad of core 0 and one of the shared memory of its cluster (R6). -/
def wide (k : JobKind) : Job :=
  { job k true with source := ⟨{ rank := 1, esz := 1, bounds := [2, 1, 1, 1], boxes := [[⟨0, 2, 1⟩]] }, ⟨pad 0, 1, 1, [2, 1, 1, 1], [sharedWindow - coreWindow, 0, 0, 0]⟩⟩ }
theorem witness_MatrixEvents_units : ∀ k ∈ [JobKind.bld, .bmeta, .mma, .mmas], (onJobs [wide k]).headJob 0 = some (wide k) ∧ manyUnits ((wide k).source.addrs.map BitVec.toNat) = true ∧
    manyUnits ((job k true).source.addrs.map BitVec.toNat) = false ∧ (job k true).shape.n = 1 := by decide +kernel
theorem witness_MatrixEvents_living : ∀ k b, alive (onJobs [job k b]) (job k b) ∧ alive demo (job k b) := by
  intro k b
  unfold alive
  exact ⟨by show ((demo.strand? demo.me.sid).isSome = true); decide +kernel, by show ((demo.strand? demo.me.sid).isSome = true); decide +kernel⟩
theorem witness_MatrixEvents_multiply : (demo.segment 0).latch.shape.n ≤ 64 ∧ Tab.wf 0#32 ((demo.segment 0).tile 0).elems = true ∧
    Tab.wf {} (demo.segment 0).tiles = true ∧ (∃ vs sn u, demo.jobHalfwords demo.origin [] (job .mma true).source.addrs = (vs, sn, u) ∧ u.segments = demo.segments ∧ u.matrix = demo.matrix) :=
  ⟨by decide +kernel, by decide +kernel, by decide +kernel, [], [], demo, rfl, rfl, rfl⟩
/-- The round with the mesh time at which its members joined. -/
def joined (at_ : Nat) : List Job := (round false).map fun j => { j with since := at_ }
theorem witness_MatrixEvents_times : (∀ j ∈ joined demo.meshNow.1, j.kind.ring = true ∧ j.running = false ∧ j.round = 0#32 ∧ demo.meshNow.1 < j.since + 2 ^ 22) ∧
    ∃ s : State, ∀ j ∈ joined 0, j.since + 2 ^ 22 ≤ s.meshNow.1 := by
  refine ⟨fun j h => ?_, { demo with mesh := 2 ^ 22 }, fun j h => ?_⟩
  · obtain ⟨x, hx, rfl⟩ := List.mem_map.1 h
    obtain ⟨n, -, rfl⟩ := List.mem_map.1 hx
    exact ⟨rfl, rfl, rfl, Nat.lt_add_of_pos_right (by decide)⟩
  · obtain ⟨x, hx, rfl⟩ := List.mem_map.1 h
    show 0 + 2 ^ 22 ≤ 2 ^ 22 + _
    omega
theorem witness_MatrixEvents_phases : ∀ n ∈ [0, 7], ∃ s : State, (∃ x ∈ s.runningRound 0 .mmar, x.phase = n) ∧ wellQueued s 0 := by
  intro n hn
  refine ⟨onJobs ((round true).map fun j => { j with phase := n }), ?_⟩
  unfold wellQueued
  revert n hn
  decide +kernel

theorem witness_CopyEvents_error : ∃ s : State, s.copy? 1 = some (copy .queued) ∧ (∃ c, s.copies = [copy .queued] ∧ c = copy .queued) ∧
    ∃ c : Copy, c.state = .queued ∧ demo.startError c ≠ 0 :=
  ⟨onCopy (copy .queued), by decide +kernel, ⟨_, rfl, rfl⟩, { copy .queued with todo := [[(1, ByteSource.const 1#8)]] }, rfl, by decide +kernel⟩
theorem witness_CopyEvents_gone : ∃ e, (let c := { copy .running with todo := [[(1, ByteSource.const 1#8)]] }
    (demo.pieceBytes c [(1, .const 1#8)]).bind fun x => x.2.1.writePiece x.2.2 1 x.1) = .error e := ⟨_, rfl⟩
theorem witness_CopyEvents_open : OpenWord demo padFirst := by
  unfold OpenWord
  exact ⟨by decide, by decide, by decide, by decide +kernel, by decide +kernel, by decide +kernel⟩
theorem witness_CopyEvents_counted : ∃ c : Copy, c.uncounted = [(4, 0)] ∧ c.signal = .arrival padFirst ∧ ∃ u, ((onCopy c).putCopy { c with uncounted := [] }).enginePlace c.origin
    (BitVec.ofNat 64 padFirst) needW = .ok (padFirst, u) ∧ u.me = demo.me :=
  ⟨{ copy .running with uncounted := [(4, 0)], signal := .arrival padFirst }, rfl, rfl, _, rfl, rfl⟩
theorem witness_CopyEvents_counters : ∃ c d : Copy, c.uncounted = [(4, 0)] ∧ c.signal = .counter demo.pkg 3 ∧ d.uncounted = [(4, 0)] ∧ d.signal = .counter 5#10 3 ∧ (5#10 : BitVec 10) ≠ demo.pkg :=
  ⟨{ copy .running with uncounted := [(4, 0)], signal := .counter demo.pkg 3 }, { copy .running with uncounted := [(4, 0)], signal := .counter 5#10 3 }, rfl, rfl, rfl, rfl, by decide +kernel⟩
theorem witness_CopyEvents_completion : (copy .running).todo = [] ∧ (copy .running).uncounted = [] ∧ (copy .running).origin.sid ≠ 0xFFFFFFFF#32 ∧
    demo.me.batchErr = [] ∧ ({ copy .running with err := 1 } : Copy).err ≠ 0 := by decide +kernel
theorem witness_CopyEvents_watchdog : distinct demo ∧ demo.tick < (demo.arrivalKeep padFirst).t0 + demo.watchdog padFirst ∧
    ∃ s : State, (s.arrivalKeep padFirst).t0 + s.watchdog padFirst ≤ s.tick ∧ s.me.wait = some (.arrival padFirst (pad 0) 0#64) ∧ s.me.frame = .parked :=
  ⟨test_one_strand.1, by decide +kernel, { (onMe fun m => { m with frame := .parked, wait := some (.arrival padFirst (pad 0) 0#64) }) with tick := 2 ^ 40 }, by decide +kernel, rfl, rfl⟩

/-- The state in recovery. -/
def inRecovery : State := { demo with always := { demo.always with recovery := true } }
theorem witness_PartitionEvents_recovery : inRecovery.always.recovery = true := rfl
theorem witness_PartitionEvents_rewritten : ∃ s : State, (s.part 1).state = .defined ∧ blockOk s 1 ((s.part 1).written 0x9A#8 [2#8]) ∧ ¬ blockOk s 1 ((s.part 1).written 0x9C#8 [0#8]) := by
  refine ⟨{ demo with parts := demo.parts.set 1 { block := [(0x99, 1#8), (0x9A, 1#8), (0x9C, 1#8)], state := .defined } }, rfl, ?_, ?_⟩ <;> unfold blockOk <;> decide +kernel
theorem witness_PartitionEvents_run : (demo.part 1).state = .undefined ∧ (∃ s : State, (s.part 1).state = .defined ∧ NoWaiters s ∧ s.mem.wf = true ∧
    (∀ (n : Fin 16) (d : Fin 4), (s.part n).frbase d = 0)) := by
  refine ⟨by decide +kernel, { demo with parts := demo.parts.set 1 { state := .defined } }, rfl, ⟨by decide +kernel, by decide +kernel, rfl⟩, by decide +kernel, by decide +kernel⟩
theorem witness_PartitionEvents_pause : (demo.part 0).state = .running ∧ demo.others = [] ∧ demo.me.launch.part = 0 ∧ demo.me.sid ≠ 0xFFFFFFFF#32 ∧
    demo.me.frame = .running ∧ (∀ m ∈ onSpilled.strands, m.launch.part = 0 → onSpilled.strand? m.sid = some m ∧ m.frame = .spilled) := by decide +kernel
theorem witness_PartitionEvents_kill : ∃ s : State, (s.part 0).state = .running ∧ (∃ l ∈ s.launches, l.part = 0) ∧ (∀ m ∈ s.strands, m.launch.part ≠ 0) ∧
    s.copies = [] ∧ s.sessions = [] ∧ (∀ l ∈ s.launches, l.part ≠ 1) :=
  ⟨{ demo with me := Strand.absent }, by decide +kernel⟩
theorem witness_PartitionEvents_accesses : onRequest.accessPending 0 0 1 = false ∧
    ({ onRequest with remoteOps := [{ access .load with launch := demo.me.launch }] } : State).accessPending 0 0 1 = true ∧
    (∀ k, k < 8 → onRequest.mem.poisoned (chipWindow + 0x1A000 + 4 * k) = false) ∧ NoWaiters onRequest :=
  ⟨by decide +kernel, by decide +kernel, by decide +kernel, by decide +kernel, by decide +kernel, rfl⟩
/-- That request, of a launch without strands. -/
def onIdle : State := { onRequest with me := Strand.absent, launches := [{ bootLaunch with tag := 5#16 }] }
theorem witness_PartitionEvents_requested : onIdle.launch? 0 5#16 = some { bootLaunch with tag := 5#16 } ∧ onIdle.strandsOf { bootLaunch with tag := 5#16 } = [] ∧
    onIdle.copies = [] ∧ onIdle.request? (chipWindow + 0x1A010) = some 5#64 ∧ ({ bootLaunch with tag := 5#16 } : Launch).kill = .none := by decide +kernel
theorem witness_PartitionEvents_steps : ∀ k ∈ [KillStep.requested, .revoked, .quiesced], ∃ s : State, ∃ l, s.launch? 0 0#16 = some l ∧ l.kill = k ∧ s.strandsOf l = [] ∧
    s.copies = [] ∧ s.matrix = [] ∧ s.masters = [] ∧ s.coords = [] ∧ s.routers = [] :=
  fun k hk => ⟨{ State.reset with launches := [{ bootLaunch with kill := k }] }, { bootLaunch with kill := k }, by revert k hk; decide +kernel⟩
theorem witness_PartitionEvents_rejected : ∃ s : State, (0, 0#16) ∈ s.revoked ∧ (∀ l, s.launch? 0 0#16 = some l → l.kill = .quiesced) ∧ (s.part 0).ownsCluster 0 = true ∧
    Tab.wf 0#64 s.counters = true ∧ (0, 0#16) ∉ demo.revoked :=
  ⟨{ demo with revoked := [(0, 0#16)], launches := [] }, by decide +kernel, nofun, by decide +kernel, by decide +kernel, by decide +kernel⟩

theorem witness_LaunchEvents_bells : Tab.wf {} demo.queues = true ∧ (demo.queue 0).bells = [] ∧ Tab.wf 0#64 demo.wayMasks = true ∧ Tab.wf 0#64 demo.routes = true ∧
    Tab.wf 0#64 demo.portAddrs = true := by decide +kernel
/-- The state whose launch has one node that waits, or runs. -/
def onKind (k : NodeKind) (run : Bool) : State := onNode { kind := k, npred := 0, succ := [], state := if run then .running else .waiting }
theorem witness_LaunchEvents_kinds : ∀ k ∈ [NodeKind.kernel bootPc 0#64 0#64 [] 1 1 0, .kernel bootPc 0#64 (pad 0) [] 1 1 0, .loop 0#64 1 1 1, .join, .conditional (pad 0) 0#64 0#4,
      .switch (pad 0), .copy (pad 0) (pad 0) 0#64 0, .copy (pad 0) (pad 0) 0#64 191, .collective (pad 0) 0, .collective (pad 0) 191, .route (pad 0)],
    ∃ l n, (onKind k false).liveNode {} = some (l, n) ∧ n.kind = k ∧ eligible l.nodes 0 = true ∧ (onKind k false).comesFirst l = true := by
  intro k hk
  refine ⟨(onKind k false).launches.headD bootLaunch, ((onKind k false).launches.headD bootLaunch).nodes.headD { kind := .join, npred := 0, succ := [] }, ?_⟩
  revert k hk; decide +kernel
theorem witness_LaunchEvents_clusters : (demo.part 0).ownsCluster 0 = true ∧ (demo.part 0).ownsCluster 191 = false := by decide +kernel
theorem witness_LaunchEvents_loads : (∃ x, demo.nodeLoads (nodeStrand {} 0 0 []) (pad 0) 1 = some x ∧ x.1 = [0] ∧ (x.2.node? {}).isSome = true) ∧
    demo.nodeLoads (nodeStrand {} 0 0 []) (pad 1) 1 = none := ⟨⟨_, rfl, rfl, rfl⟩, by decide +kernel⟩
theorem witness_LaunchEvents_commands : ((demo.asNode (nodeStrand {} 0 0 [pad 1]) (execColl (.a 1) (.a 0))).map fun x => x.1.note) = some .trapped ∧
    (((onCall collWords).asNode (nodeStrand {} 0 0 [pad 0]) (execColl (.a 1) (.a 0))).map fun x => (x.1.note, decide (x.2.launches = demo.launches))) = some (.done, true) := by
  decide +kernel
theorem witness_LaunchEvents_results : ∀ r ∈ [none, some 0, some 5, some 1], ∃ s : State, ∃ l n, s.liveNode {} = some (l, n) ∧ n.state = .running ∧ n.kind = .collective 0#64 0 ∧
    n.command = some (.coll 7#64) ∧ n.result = r :=
  fun r _ => ⟨onNode { kind := .collective 0#64 0, npred := 0, succ := [], state := .running, command := some (.coll 7#64), result := r }, _, _, rfl, rfl, rfl, rfl, rfl⟩
theorem witness_LaunchEvents_over_loop : ∀ a ∈ [0#64, pad 0], ∃ l n, (onKind (.loop a 3 0 0) true).liveNode {} = some (l, n) ∧ n.state = .running ∧ n.kind = .loop a 3 0 0 ∧ n.created = 0 :=
  fun _ _ => ⟨_, _, rfl, rfl, rfl, rfl⟩

theorem witness_HostEvents_recovery : inRecovery.always.recovery = true ∧ ({ demo with host := { demo.host with linkDown := true } } : State).host.linkDown = true := ⟨rfl, rfl⟩
theorem witness_HostEvents_sets : (demo.hostSet (2 ^ 51 / 64)).length < 16 ∧ (∃ s : State, 16 ≤ (s.hostSet (2 ^ 51 / 64)).length ∧ s.host.linkDown = false ∧ s.always.recovery = false) :=
  ⟨by decide +kernel, { demo with hostCache := (List.range 16).map fun i => (2 ^ 51 / 64 + 8192 * (i + 1), { state := .shared }) }, by decide +kernel, rfl, rfl⟩
theorem witness_HostEvents_gated : (∀ x ∈ (demo.core 0).spans, x.pushed = []) ∧ (0 : Nat) < 192 ∧ (clusterOfCore 0) = 0 := by decide +kernel

/-- The state with an access whose age is given. -/
def onAged (op : RemoteOp) (size n : Nat) : State := { onRemote op with remoteOps := [{ access op with size := size }], tick := n }
theorem witness_RemoteEvents_times : ∀ size ∈ [4, 8], (onAged .load size 10000).remoteOps.find? (fun r => r.sid == demo.me.sid && returnsValue r.op) = some { access .load with size := size } ∧
    (access .load).since + 10000 ≤ (onAged .load size 10000).tick ∧ (onAged .load size 10000).tick ≤ (access .load).since + 10000 ∧
    (access .load).since + 10000 < (onAged .load size 10001).tick ∧ (onAged .load size 9999).tick < (access .load).since + 10000 ∧
    (onAged .load size 9999).oldestRemote demo.me.sid = some { access .load with size := size } ∧ (onAged .load size 9999).me.sup = false := by decide +kernel
theorem witness_RemoteEvents_parked : Config.choice demo.free % 2 ≠ 0 ∨ (onAged .ldf 4 0).tick < (access .ldf).since + 10000 := .inr (by decide +kernel)
theorem witness_RemoteEvents_malformed : (∀ pa, storageOf coreWindow ≠ .hbm pa) ∧ (request .load).size = 4 ∧ (hbmKey 1) % 4 ≠ 0 :=
  ⟨fun pa => by rw [show storageOf coreWindow = .core 0 by decide +kernel]; nofun, rfl, by decide⟩
theorem witness_RemoteEvents_none : demo.remoteOps.find? (fun r => r.sid == demo.me.sid && returnsValue r.op) = none ∧ (onRemote (.store 0#64)).oldestRemote demo.me.sid = some (access (.store 0#64)) := by
  decide +kernel
theorem witness_RemoteEvents_lanes : ∃ s : State, (s.port 0).down = false ∧ (s.port 0).retired = [4, 5, 6, 7] ∧ ((List.range 8).filter fun i => i != 0 && !(s.port 0).retired.contains i).length < 4 :=
  ⟨{ demo with ports := [(0, { retired := [4, 5, 6, 7] })] }, by decide +kernel⟩

theorem witness_SessionEvents_times : ∃ x, (onSession { state := 1, entry := entry }).session? 0 1#10 = some x ∧ x.state = 1 ∧
    (onSession { state := 1, entry := entry }).tick ≤ x.since + 10000000 ∧ (onSession { state := 1, entry := entry }).tick < x.since + 10000000 ∧
    ∃ s : State, s.sessions = (onSession { state := 1, entry := entry }).sessions ∧ x.since + 10000000 < s.tick :=
  ⟨{ state := 1, entry := entry }, by decide +kernel, rfl, by decide +kernel, by decide +kernel, { onSession { state := 1, entry := entry } with tick := 10000001 }, rfl, by decide⟩
theorem witness_SessionEvents_expiry : ∃ s : State, ∃ x, s.session? 0 1#10 = some x ∧ x.oldIn = some (⟨⟨0#256, 0#32⟩, none, []⟩, 0) ∧ 0 + 1000000 ≤ s.tick :=
  ⟨{ onSession { state := 2, entry := entry, oldIn := some (⟨⟨0#256, 0#32⟩, none, []⟩, 0) } with tick := 1000000 }, { state := 2, entry := entry, oldIn := some (⟨⟨0#256, 0#32⟩, none, []⟩, 0) },
    by decide +kernel⟩


/-- The state whose call has formed its contribution, at the coordinator here, and has arrived or not. -/
noncomputable def onLocal (arrived : Bool) : State := { onColl with masters := onColl.masters.map fun x => (x.1, { x.2 with
  calls := x.2.calls.map fun c => { c with running := true, arrived := arrived, formed := some { old := [], c := [], sent := [] } } }) }
theorem witness_CoordinatorEvents_local : ∀ b, ((onLocal b).collCall? 1#32 0#32 0).map (fun x => (x.1, x.2.formed.isSome, (onLocal b).coordHere x.2, x.2.arrived)) = some (0, true, true, b) ∧
    ((onLocal b).coord? 1#32 0#32).map (fun x => (x.stage, x.arrived.length, decide ((onLocal b).tick ≤ x.tstart + 1))) = some (.open_, 0, true) ∧
    (onLocal b).flushedPast 1#32 0#32 = false ∧ ((onLocal b).master 0).accepted ≠ 0 := by decide +kernel
/-- Its coordinator in a stage, with the contribution of its rank, at a later tick. -/
noncomputable def onStage (st : CollStage) : State := { onLocal true with tick := 100, coords := (onLocal true).coords.map fun x =>
  { x with stage := st, arrived := [⟨0, none, true, []⟩] } }
theorem witness_CoordinatorEvents_stages : ∀ st ∈ [CollStage.open_, .twilight, .flushed, .failed], ((onStage st).coord? 1#32 0#32).map (fun x => (x.stage, x.arrived.length,
      (x.block.map fun y => (decide (x.tstart + y.timeout + y.twilight ≤ (onStage st).tick), decide (y.quorum ≤ x.arrived.length))))) = some (st, 1, some (true, true)) ∧
    ((onStage st).collGroup 1#32 0#32).map (fun x => (x.1, x.2.running)) = [(0, true)] ∧ (onStage st).masters.map (fun x => x.1) = [0] := by decide +kernel
theorem witness_CoordinatorEvents_empty : ∃ s : State, (s.coord? 1#32 0#32).isSome = true ∧ s.collGroup 1#32 0#32 = [] ∧ s.masters.all (fun x => x.2.mailbox.isEmpty) = true :=
  ⟨{ demo with coords := [{ handle := 1#32, seq := 0#32 }] }, by decide +kernel⟩
theorem witness_CoordinatorEvents_request : ∃ s : State, ∃ m, s.masters = [(0, m)] ∧ m.mailbox = [.flush 0#16] ∧ (m.liveCall 0#16).isSome = true ∧ s.coords = [] :=
  ⟨{ onColl with coords := [], masters := [(0, { onColl.master 0 with mailbox := [.flush 0#16] })] }, _, rfl, by decide +kernel, by decide +kernel, rfl⟩
theorem witness_MemberCallEvents_late : ∃ s : State, (s.collCall? 1#32 0#32 0).map (fun x => decide (s.tick ≤ x.2.since + 2 * x.2.block.timeout + x.2.block.twilight)) = some false :=
  ⟨{ onLocal true with tick := 2 ^ 64 }, by decide +kernel⟩
theorem witness_MemberCallEvents_flushed : ((onStage .flushed).collCall? 1#32 0#32 0).map (fun x => ((onStage .flushed).coordHere x.2,
    ((onStage .flushed).resultOf x.2 { present := [], twilight := false, byRequest := false, tstart := 0#64, tflush := 0#64, data := [] }).isSome)) = some (true, true) := by decide +kernel
theorem witness_MemberCallEvents_unreachable : ∃ s : State, (s.collCall? 1#32 0#32 0).map (fun x => (s.reachable x.2, x.2.running)) = some (false, false) :=
  ⟨{ onColl with masters := onColl.masters.map fun x => (x.1, { x.2 with calls := x.2.calls.map fun c => { c with table := [0x40000#32] } }) }, by decide +kernel⟩
theorem witness_MemberCallEvents_contexts : ((onColl.master 0).calls.filter (·.running)).length < 3 ∧ (∃ m : CollMaster, 3 ≤ (m.calls.filter (·.running)).length) ∧
    ((onColl.master 0).calls.find? fun c => c.idx == 7) = none :=
  ⟨by decide +kernel, ⟨{ onFar.master 0 with calls := List.flatten (List.replicate 3 (onFar.master 0).calls) }, by decide +kernel⟩, by decide +kernel⟩
theorem witness_RoutingEngineEvents_past : ∃ r : RouteRequest, (∃ s : State, (s.routeExpert? 0 r.handle r.seq r.expert).isNone = true ∧ (∃ k ∈ (s.router 0).killed, k.1 = r.handle ∧ r.seq.toNat ≤ k.2.toNat)) ∧
    (demo.router 0).killed = [] :=
  ⟨⟨0, 1#32, 0#32, 0, 0#10, 1, true⟩, ⟨{ demo with routers := [(0, { killed := [(1#32, 5#32)] })] }, by decide +kernel⟩, by decide +kernel⟩
theorem witness_RoutingEngineEvents_kinds : (∃ c ∈ (onRoute.router 0).calls, c.combine = false ∧ c.die = 0 ∧ (c.expert 0).1 = demo.pkg) ∧
    ∃ s : State, ((s.router 0).calls.find? s.mayStart).map (fun c => (c.combine, c.die)) = some (true, 0) :=
  ⟨by decide +kernel, { onRoute with routers := onRoute.routers.map fun x => (x.1, { x.2 with calls := x.2.calls.map fun c => { c with combine := true } }) }, by decide +kernel⟩
theorem witness_RoutingEngineEvents_far : ∃ s : State, ((s.router 0).calls.find? s.mayStart).map (fun c => (c.combine, (c.expert 0).1)) = some (false, 5#10) ∧ s.pkg ≠ 5#10 :=
  ⟨{ onRoute with routers := onRoute.routers.map fun x => (x.1, { x.2 with calls := x.2.calls.map fun c => { c with desc := { c.desc with experts := [(5#10, 0, 0)] } } }) }, by decide +kernel⟩
/-- A row for the open expert. -/
def aRow : RouteRow := ⟨0, 1#32, 0#32, 0, 0, [7#32]⟩
theorem witness_RoutingEngineEvents_row : ∀ b, ∃ s : State, s = { onExpert b with routers := (onExpert b).routers.map fun x => (x.1, { x.2 with rows := [aRow] }) } ∧
    (s.router 0).rows.find? (fun x => x.handle == 1#32 && x.slot == 0) = some aRow ∧ (s.routeExpert? 0 1#32 0#32 0).isSome = true ∧ (s.router 0).accepted ≠ 0 :=
  fun b => ⟨_, rfl, by revert b; decide +kernel⟩
theorem witness_RoutingEngineEvents_granted : ((onExpert false).router 0).calls.all (fun c => decide ((onExpert false).tick ≤ c.start + 2 * c.desc.timeout)) = true ∧
    (∃ s : State, (s.router 0).calls.all (fun c => decide (c.start + 2 * c.desc.timeout < s.tick)) = true ∧ (s.router 0).calls ≠ []) ∧
    ((onExpert false).router 0).calls.all (fun c => c.choicesOf 0 == []) = true :=
  ⟨by decide +kernel, ⟨{ onExpert false with tick := 2 ^ 40 }, by decide +kernel⟩, by decide +kernel⟩
theorem witness_RoutingEngineEvents_done : ∃ s : State, ((s.router 0).calls.find? (fun c => c.running && (c.combine || s.routeDone c))).map (fun c => (c.combine, c.die)) = some (false, 0) :=
  ⟨{ onRoute with routers := onRoute.routers.map fun x => (x.1, { x.2 with calls := x.2.calls.map fun c => { c with running := true, grants := [.base 0] } }) }, by decide +kernel⟩
/-- Two words of a row for the open expert, and the state in which it has written the one that `d` names. -/
def longRow : RouteRow := { aRow with data := [7#32, 9#32] }
noncomputable def onLongRow : State := { onExpert false with routers := (onExpert false).routers.map fun x => (x.1, { x.2 with rows := [longRow] }) }
noncomputable def begun (d : Nat) : State := match onLongRow.beginEvent exec d (.routeRowArrival longRow) with | .next t => t | _ => demo
noncomputable def placeOf (s : State) : Nat := ((s.findWords exec (.routeRowArrival longRow)).map (·.key)).headD 0
theorem test_half_a_row : (begun 2).ahead.map (fun a => a.words.map (·.bytes)) = some [[(0, 7#8), (1, 0#8), (2, 0#8), (3, 0#8)]] ∧
    (begun 5).ahead.map (fun a => a.words.map (·.bytes)) = some [[(0, 9#8), (1, 0#8), (2, 0#8), (3, 0#8)]] := by decide +kernel
theorem test_rest_of_a_row : ((begun 5).ahead.map fun a => match a.finish exec (begun 5) with
    | .next t => (t.plainWord (placeOf onLongRow), t.plainWord (placeOf onLongRow + 4), t.ahead.isNone, (t.router 0).rows)
    | _ => (0, 0, false, [])) = some (7, 9, true, []) := by decide +kernel
theorem test_between : (begun 5).plainWord (placeOf onLongRow) = 0 ∧ (begun 5).plainWord (placeOf onLongRow + 4) = 9 := by decide +kernel


end Sys2Proof.Tests
end

/-! ## What the results of the scalar integer instructions are, as arithmetic on words and bit by bit (R60 to R66) -/

namespace Sys2Proof.Proofs.Scalar
open Sys2Proof Sys2Proof.Machine

/-! ## Shift amounts, products, extremes (R60, R62) -/

theorem shiftOf_eq_mod (b : Word) : shiftOf b = b.toNat % 64 := by
  simp [shiftOf, BitVec.extractLsb'_toNat]

/-- The high half of a 128-bit word that stands for an integer: its floor division by 2^64. -/
theorem extractLsb'_ofInt_high (z : Int) : (BitVec.ofInt 128 z).extractLsb' 64 64 = BitVec.ofInt 64 (z / 2 ^ 64) := by
  apply BitVec.eq_of_toNat_eq
  simp only [BitVec.extractLsb'_toNat, BitVec.toNat_ofInt, Nat.shiftRight_eq_div_pow]
  omega

theorem mulHigh_eq_ofInt (a b : Word) : mulHigh a b = BitVec.ofInt 64 (a.toInt * b.toInt / 2 ^ 64) := by
  rw [mulHigh, BitVec.signExtend, BitVec.signExtend, ← BitVec.ofInt_mul, extractLsb'_ofInt_high]

theorem mulHighU_eq_ofNat (a b : Word) : mulHighU a b = BitVec.ofNat 64 (a.toNat * b.toNat / 2 ^ 64) := by
  have hlt : a.toNat * b.toNat < 2 ^ 64 * 2 ^ 64 := Nat.mul_lt_mul'' a.isLt b.isLt
  rw [← Nat.pow_add] at hlt
  apply BitVec.eq_of_toNat_eq
  simp only [mulHighU, BitVec.extractLsb'_toNat, BitVec.toNat_mul, BitVec.toNat_setWidth, BitVec.toNat_ofNat,
    Nat.shiftRight_eq_div_pow, ← Nat.mul_mod, Nat.mod_eq_of_lt hlt]

theorem minS_eq_slt (a b : Word) : minS a b = if a.slt b then a else b := by
  simp only [minS, BitVec.slt_iff_toInt_lt]
  by_cases hlt : a.toInt < b.toInt
  · rw [if_pos (Int.le_of_lt hlt), if_pos hlt]
  · rw [if_neg hlt]
    split
    next hle => exact BitVec.eq_of_toInt_eq (Int.le_antisymm hle (Int.not_lt.1 hlt))
    next => rfl

theorem minU_eq_ult (a b : Word) : minU a b = if a.ult b then a else b := by
  simp only [minU, BitVec.ult_iff_lt, BitVec.lt_def]
  by_cases hlt : a.toNat < b.toNat
  · rw [if_pos (Nat.le_of_lt hlt), if_pos hlt]
  · rw [if_neg hlt]
    split
    next hle => exact BitVec.eq_of_toNat_eq (Nat.le_antisymm hle (Nat.not_lt.1 hlt))
    next => rfl

theorem maxS_eq_slt (a b : Word) : maxS a b = if a.slt b then b else a := by
  simp only [maxS, BitVec.slt_iff_toInt_lt, ← Int.not_lt, ite_not]

theorem maxU_eq_ult (a b : Word) : maxU a b = if a.ult b then b else a := by
  simp only [maxU, BitVec.ult_iff_lt, BitVec.lt_def, ← Nat.not_lt, ite_not]

/-! ## Division (R63) -/

theorem divU_eq_ofNat (a b : Word) :
    divU a b = if b = 0#64 then BitVec.allOnes 64 else BitVec.ofNat 64 (a.toNat / b.toNat) := rfl

/-- The overflow case of R63 is no exception: the quotient 2^63 wraps to the dividend. -/
theorem divS_eq_ofInt (a b : Word) :
    divS a b = if b = 0#64 then BitVec.allOnes 64 else BitVec.ofInt 64 (a.toInt.tdiv b.toInt) := by
  by_cases h : a = 0x8000000000000000#64 ∧ b = 0xFFFFFFFFFFFFFFFF#64
  · obtain ⟨rfl, rfl⟩ := h; decide
  · rw [divS, if_neg h]; rfl

theorem remS_eq_ofInt (a b : Word) : remS a b = if b = 0#64 then a else BitVec.ofInt 64 (a.toInt.tmod b.toInt) := by
  by_cases h : a = 0x8000000000000000#64 ∧ b = 0xFFFFFFFFFFFFFFFF#64
  · obtain ⟨rfl, rfl⟩ := h; decide
  · rw [remS, if_neg h]

theorem ofInt_sub (w : Nat) (x y : Int) : BitVec.ofInt w (x - y) = BitVec.ofInt w x - BitVec.ofInt w y := by
  rw [Int.sub_eq_add_neg, BitVec.ofInt_add, BitVec.ofInt_neg, BitVec.sub_eq_add_neg]

/-- The remainder as R63 defines it, at every divisor but 0. -/
theorem remS_eq_sub_mul (a b : Word) (hb : b ≠ 0#64) : remS a b = a - divS a b * b := by
  rw [remS_eq_ofInt, divS_eq_ofInt, if_neg hb, if_neg hb, Int.tmod_def, ofInt_sub, BitVec.ofInt_mul,
    BitVec.ofInt_toInt, BitVec.ofInt_toInt, BitVec.mul_comm]

theorem remU_eq_sub_mul (a b : Word) (hb : b ≠ 0#64) : remU a b = a - divU a b * b := by
  have split : BitVec.ofNat 64 (a.toNat % b.toNat) + BitVec.ofNat 64 (a.toNat / b.toNat) * b = a := by
    calc _ = BitVec.ofNat 64 (a.toNat % b.toNat + a.toNat / b.toNat * b.toNat) := by
          rw [BitVec.ofNat_add, BitVec.ofNat_mul, BitVec.ofNat_toNat, BitVec.setWidth_eq]
      _ = a := by rw [Nat.mul_comm, Nat.mod_add_div, BitVec.ofNat_toNat, BitVec.setWidth_eq]
  rw [remU, divU, if_neg hb, if_neg hb, BitVec.eq_sub_iff_add_eq, split]

/-! ## Single bits (R65) -/

theorem putBit_true (a : Word) (k : Nat) : putBit a k true = a ||| (1#64 <<< k) := by
  rw [putBit, if_pos rfl, BitVec.twoPow_eq]

theorem putBit_false (a : Word) (k : Nat) : putBit a k false = a &&& ~~~(1#64 <<< k) := by
  rw [putBit, if_neg Bool.false_ne_true, BitVec.twoPow_eq]

theorem getLsbD_ushiftRight_zero (a : Word) (k : Nat) : (a >>> k).getLsbD 0 = a.getLsbD k := by
  rw [BitVec.getLsbD_ushiftRight, Nat.add_zero]

/-! ## Words as lists of bits -/

theorem length_bitList {w : Nat} (a : BitVec w) : (bitList a).length = w := by
  rw [bitList, List.length_map, List.length_range]

theorem getD_bitList {w : Nat} (a : BitVec w) (i : Nat) : (bitList a).getD i false = a.getLsbD i := by
  by_cases hi : i < w
  · simp [bitList, hi]
  · simp [bitList, hi, BitVec.getLsbD_of_ge a i (by omega)]

theorem getD_bitList_reverse (a : Word) {i : Nat} (hi : i < 64) :
    (bitList a).reverse.getD i false = a.getLsbD (63 - i) := by
  rw [List.getD_eq_getElem?_getD, List.getElem?_reverse (by rwa [length_bitList]), length_bitList,
    ← List.getD_eq_getElem?_getD, getD_bitList]

theorem testBit_bits (l : List Bool) (i : Nat) :
    (l.foldr (fun (b : Bool) n => b.toNat + 2 * n) 0).testBit i = l.getD i false := by
  induction l generalizing i with
  | nil => simp
  | cons b l ih =>
    have bit : b.toNat < 2 := b.toNat_lt
    rw [List.foldr_cons]
    cases i with
    | zero =>
      rw [Nat.testBit_zero, Nat.add_mul_mod_self_left, Nat.mod_eq_of_lt bit]
      cases b <;> rfl
    | succ i =>
      rw [Nat.testBit_succ, Nat.add_mul_div_left _ _ (by omega), Nat.div_eq_of_lt bit, Nat.zero_add, ih]
      rfl

theorem getLsbD_ofBitList {w : Nat} (l : List Bool) {i : Nat} (hi : i < w) :
    (ofBitList w l).getLsbD i = l.getD i false := by
  rw [ofBitList, BitVec.getLsbD_ofNat, testBit_bits, decide_eq_true hi, Bool.true_and]

/-- What `falses` counts: the entries before the first that is true. -/
theorem falses_spec (l : List Bool) : falses l ≤ l.length ∧ (∀ i, i < falses l → l.getD i false = false) ∧
    (falses l < l.length → l.getD (falses l) false = true) := by
  induction l with
  | nil => simp [falses]
  | cons b l ih =>
    obtain ⟨le, before, after⟩ := ih
    cases b with
    | true => simp [falses]
    | false =>
      refine ⟨Nat.succ_le_succ le, fun i hi => ?_, fun h => after (Nat.lt_of_succ_lt_succ h)⟩
      cases i with
      | zero => rfl
      | succ i => exact before i (Nat.lt_of_succ_lt_succ hi)

/-! ## CLZ, CTZ and POPC (R65) -/

theorem toNat_ofNat_of_le {n : Nat} (h : n ≤ 64) : (BitVec.ofNat 64 n).toNat = n := by
  rw [BitVec.toNat_ofNat, Nat.mod_eq_of_lt (by omega)]

theorem toNat_ctz (a : Word) : (ctz a).toNat = falses (bitList a) :=
  toNat_ofNat_of_le (by simpa only [length_bitList] using (falses_spec (bitList a)).1)

theorem toNat_clz (a : Word) : (clz a).toNat = falses (bitList a).reverse :=
  toNat_ofNat_of_le (by simpa only [List.length_reverse, length_bitList] using (falses_spec (bitList a).reverse).1)

theorem ctz_spec (a : Word) : (ctz a).toNat ≤ 64 ∧ (∀ i, i < (ctz a).toNat → a.getLsbD i = false) ∧
    ((ctz a).toNat < 64 → a.getLsbD (ctz a).toNat = true) := by
  obtain ⟨le, before, after⟩ := falses_spec (bitList a)
  rw [length_bitList] at le after
  rw [toNat_ctz]
  refine ⟨le, fun i hi => ?_, fun h => ?_⟩
  · rw [← getD_bitList, before i hi]
  · rw [← getD_bitList, after h]

theorem clz_spec (a : Word) : (clz a).toNat ≤ 64 ∧ (∀ i, i < (clz a).toNat → a.getLsbD (63 - i) = false) ∧
    ((clz a).toNat < 64 → a.getLsbD (63 - (clz a).toNat) = true) := by
  obtain ⟨le, before, after⟩ := falses_spec (bitList a).reverse
  rw [List.length_reverse, length_bitList] at le after
  rw [toNat_clz]
  refine ⟨le, fun i hi => ?_, fun h => ?_⟩
  · rw [← getD_bitList_reverse a (by omega), before i hi]
  · rw [← getD_bitList_reverse a h, after h]

theorem toNat_popc (a : Word) : (popc a).toNat = ((List.range 64).filter fun i => a.getLsbD i).length := by
  have count : ((bitList a).filter id).length = ((List.range 64).filter fun i => a.getLsbD i).length := by
    rw [bitList, List.filter_map, List.length_map]; rfl
  rw [popc, count]
  exact toNat_ofNat_of_le (by simpa using List.length_filter_le (fun i => a.getLsbD i) (List.range 64))

/-! ## BREV, BSWAP, SEXT, ZEXT, BEXT and BINS (R65, R66) -/

theorem getLsbD_brev (a : Word) {i : Nat} (hi : i < 64) : (brev a).getLsbD i = a.getLsbD (63 - i) := by
  rw [brev, getLsbD_ofBitList _ hi, getD_bitList_reverse a hi]

/-- The lowest `m` bytes of `a`, in the opposite order. -/
def SwapsBytes (a : Word) (m : Nat) (x : BitVec (8 * m)) : Prop :=
  ∀ i, i < 8 * m → x.getLsbD i = a.getLsbD (8 * (m - 1 - i / 8) + i % 8)

theorem swapsBytes_lowest (a : Word) : SwapsBytes a 1 (a.extractLsb' 0 8) := by
  intro i hi
  rw [BitVec.getLsbD_extractLsb', decide_eq_true (by omega), Bool.true_and]
  congr 1; omega

theorem swapsBytes_append {a : Word} {m : Nat} {x : BitVec (8 * m)} (hx : SwapsBytes a m x) :
    SwapsBytes a (m + 1) (x ++ a.extractLsb' (8 * m) 8) := by
  intro i hi
  refine BitVec.getLsbD_append.trans ?_
  split
  next h =>
    rw [BitVec.getLsbD_extractLsb', decide_eq_true h, Bool.true_and]
    congr 1; omega
  next h =>
    rw [hx (i - 8) (by omega)]
    congr 1; omega

theorem swapsBytes_bswap (a : Word) : SwapsBytes a 8 (bswap a) :=
  have two := swapsBytes_append (swapsBytes_lowest a)
  have four := swapsBytes_append (swapsBytes_append two)
  swapsBytes_append (swapsBytes_append (swapsBytes_append (swapsBytes_append four)))

theorem getLsbD_bswap (a : Word) {i : Nat} (hi : i < 64) :
    (bswap a).getLsbD i = a.getLsbD (8 * (7 - i / 8) + i % 8) := swapsBytes_bswap a i hi

theorem getLsbD_zextN (a : Word) (n : Nat) {i : Nat} (hi : i < 64) :
    (zextN n a).getLsbD i = (decide (i < n) && a.getLsbD i) := by
  have inside : decide (64 - n + i < 64) = decide (i < n) := decide_eq_decide.2 (by omega)
  have above : decide (64 - n + i < 64 - n) = false := decide_eq_false (by omega)
  rw [zextN, BitVec.getLsbD_ushiftRight, BitVec.getLsbD_shiftLeft, inside, above, Nat.add_sub_cancel_left, Bool.not_false,
    Bool.and_true]

theorem getLsbD_sextN (a : Word) {n i : Nat} (h0 : 0 < n) (hn : n ≤ 64) (hi : i < 64) :
    (sextN n a).getLsbD i = if i < n then a.getLsbD i else a.getLsbD (n - 1) := by
  have shifted : ∀ j, j < n → (a <<< (64 - n)).getLsbD (64 - n + j) = a.getLsbD j := fun j hj => by
    rw [BitVec.getLsbD_shiftLeft, decide_eq_true (by omega), decide_eq_false (by omega), Nat.add_sub_cancel_left]; rfl
  have top : (a <<< (64 - n)).msb = a.getLsbD (n - 1) := by
    rw [BitVec.msb_eq_getLsbD_last, ← shifted (n - 1) (by omega)]
    congr 1; omega
  rw [sextN, BitVec.getLsbD_sshiftRight, decide_eq_false (by omega), Bool.not_false, Bool.true_and]
  by_cases h : i < n
  · rw [if_pos (by omega), if_pos h, shifted i h]
  · rw [if_neg (by omega), if_neg h, top]

theorem getLsbD_ones {n i : Nat} (hn : n ≤ 64) : (ones n).getLsbD i = decide (i < n) := by
  by_cases hi : i < 64
  · rw [ones, getLsbD_zextN _ n hi, BitVec.getLsbD_allOnes, decide_eq_true hi, Bool.and_true]
  · rw [BitVec.getLsbD_of_ge _ _ (by omega), decide_eq_false (by omega)]

theorem extWidth_eq (b : Word) : extWidth b = if b.toNat % 64 = 0 then 64 else b.toNat % 64 := by
  rw [extWidth, shiftOf_eq_mod]

theorem fieldPos_eq_mod (b : Word) : fieldPos b = b.toNat % 64 := shiftOf_eq_mod b

theorem fieldLen_eq (b : Word) : fieldLen b = b.toNat / 256 % 64 + 1 := by
  simp [fieldLen, BitVec.extractLsb'_toNat, Nat.shiftRight_eq_div_pow]

theorem getLsbD_ones_fieldLen (b : Word) (i : Nat) :
    (ones (fieldLen b)).getLsbD i = decide (i < b.toNat / 256 % 64 + 1) := by
  rw [fieldLen_eq, getLsbD_ones (by omega)]

theorem getLsbD_zextN_extWidth (a b : Word) {i : Nat} (hi : i < 64) : (zextN (extWidth b) a).getLsbD i =
    (decide (b.toNat % 64 = 0 ∨ i < b.toNat % 64) && a.getLsbD i) := by
  rw [extWidth_eq]
  split
  next h => rw [getLsbD_zextN a _ hi]; simp [h, hi]
  next h => rw [getLsbD_zextN a _ hi]; simp [h]

theorem getLsbD_sextN_extWidth (a b : Word) {i : Nat} (hi : i < 64) : (sextN (extWidth b) a).getLsbD i =
    if b.toNat % 64 = 0 ∨ i < b.toNat % 64 then a.getLsbD i else a.getLsbD (b.toNat % 64 - 1) := by
  rw [extWidth_eq]
  split
  next h => rw [getLsbD_sextN a (by omega) (by omega) hi]; simp [h, hi]
  next h => rw [getLsbD_sextN a (by omega) (by omega) hi]; simp [h]

theorem getLsbD_bextW (a b : Word) (i : Nat) : (bextW a b).getLsbD i =
    (decide (i < b.toNat / 256 % 64 + 1) && a.getLsbD (b.toNat % 64 + i)) := by
  rw [bextW, BitVec.getLsbD_and, BitVec.getLsbD_ushiftRight, getLsbD_ones_fieldLen, fieldPos_eq_mod, Bool.and_comm]

theorem getLsbD_binsW (a b c : Word) {i : Nat} (hi : i < 64) : (binsW a b c).getLsbD i =
    if b.toNat % 64 ≤ i ∧ i < b.toNat % 64 + (b.toNat / 256 % 64 + 1) then a.getLsbD (i - b.toNat % 64) else c.getLsbD i := by
  have shifted : ∀ x : Word, (x <<< fieldPos b).getLsbD i = (decide (b.toNat % 64 ≤ i) && x.getLsbD (i - b.toNat % 64)) :=
    fun x => by
      rw [BitVec.getLsbD_shiftLeft, fieldPos_eq_mod, decide_eq_true hi, Bool.true_and]
      simp only [← decide_not, Nat.not_lt]
  simp only [binsW, BitVec.getLsbD_or, BitVec.getLsbD_and, BitVec.getLsbD_not, shifted, getLsbD_ones_fieldLen,
    decide_eq_true hi]
  by_cases hpos : b.toNat % 64 ≤ i
  · have below : i - b.toNat % 64 < b.toNat / 256 % 64 + 1 ↔ i < b.toNat % 64 + (b.toNat / 256 % 64 + 1) := by omega
    by_cases hlen : i < b.toNat % 64 + (b.toNat / 256 % 64 + 1)
    · simp [hpos, below.2 hlen, hlen]
    · simp [hpos, mt below.1 hlen, hlen]
  · simp [hpos]

end Sys2Proof.Proofs.Scalar

/-! ## What `exec` answers for the families of the scalar statements: the frame of R59, applied to the family's table -/

namespace Sys2Proof.Proofs.Scalar
open Sys2Proof Sys2Proof.Machine Sys2Proof.Claims Sys2Proof.Laws

theorem alu_congr {s : State} {h : Side} {g : Guard} {d s1 s2 : Reg} {f f' : Word → Word → Word}
    (hf : ∀ x y, f x y = f' x y) :
    (Host.Outcome.next (s.alu h g d s1 s2 f) : Result) = .next (s.alu h g d s1 s2 f') := by
  rw [show f = f' from funext fun x => funext (hf x)]

/-- Every integer operation is the frame of R59 around the result of its table. -/
theorem exec_intOp {i : Instr} {g : Guard} {d s1 s2 : Reg} {f : Word → Word → Word} (s : State)
    (h : intOp i = some (g, d, s1, s2, f)) : exec i s = .next (s.alu i.half g d s1 s2 f) := by
  cases i with
  | add | sub | and | or | xor | andn | orn | addsc2 | addsc4 | addsc8 | addsc16 | mul
  | clz | ctz | popc | brev | bswap | sext | zext | bext | remu => cases h; rfl
  | shl | shr | sar | ror => cases h; exact alu_congr fun _ b => by rw [shiftOf_eq_mod]
  | mulh => cases h; exact alu_congr mulHigh_eq_ofInt
  | mulhu => cases h; exact alu_congr mulHighU_eq_ofNat
  | div => cases h; exact alu_congr divS_eq_ofInt
  | divu => cases h; exact alu_congr divU_eq_ofNat
  | rem => cases h; exact alu_congr remS_eq_ofInt
  | min => cases h; exact alu_congr minS_eq_slt
  | max => cases h; exact alu_congr maxS_eq_slt
  | minu => cases h; exact alu_congr minU_eq_ult
  | maxu => cases h; exact alu_congr maxU_eq_ult
  | bset => cases h; exact alu_congr fun a b => by rw [putBit_true, shiftOf_eq_mod]
  | bclr => cases h; exact alu_congr fun a b => by rw [putBit_false, shiftOf_eq_mod]
  | _ => cases h

/-- Every immediate operation is the frame of R59 without a guard (R70 to R73). -/
theorem exec_immOp {i : Instr} {d s1 : Reg} {f : Word → Word} (s : State) (h : immOp i = some (d, s1, f)) :
    exec i s = .next (s.alu i.half Guard.always d s1 .zero fun a _ => f a) := by
  cases i with
  | addi | andi | ori | xori | shli | shri | sari | rori | lih => cases h; rfl
  | _ => cases h

/-- Every integer comparison is the frame of R59 with a predicate as its destination (R65, R67, R72). -/
theorem exec_intCmp {i : Instr} {g : Guard} {p : BitVec 4} {s1 s2 : Reg} {f : Word → Word → Bool} (s : State)
    (h : intCmp i = some (g, p, s1, s2, f)) :
    exec i s = .next (s.attempt (s.me.ctx.frameP i.half g s1 s2 p fun a b => (f a b, {}))) := by
  cases i with
  | cmp | cmpi => cases h; rfl
  | btst g' p' s1' s2' =>
    cases h
    have bit : ∀ a b : Word, a.getLsbD (shiftOf b) = (a >>> (b.toNat % 64)).getLsbD 0 := fun a b => by
      rw [getLsbD_ushiftRight_zero, shiftOf_eq_mod]
    simp only [← bit]; rfl
  | _ => cases h

/-- Every float operation is the frame of R59 in the execute half, in the rounding mode FRM (R75 to R83). -/
theorem exec_fltOp {i : Instr} {g : Guard} {w old : Bool} {d s1 s2 : Reg} {f : Fmt → Nat → Nat → Nat → Nat × FpFlags}
    {s : State} (h : fltOp (frm s.me.ctx.sys.status) i = some (g, w, old, d, s1, s2, f)) :
    exec i s = .next (s.falu g w old d s1 s2 fun u _ a b c => f u a b c) := by
  cases i with
  | fadd | fsub | fmul | ffma | fdiv | fsqrt | fmin | fmax | fclass => cases h; rfl
  | _ => cases h

theorem exec_fltCmp {i : Instr} {g : Guard} {w quiet : Bool} {p : BitVec 4} {s1 s2 : Reg} {f : Fp → Fp → Bool}
    (s : State) (h : fltCmp i = some (g, w, p, s1, s2, quiet, f)) : exec i s = .next (s.fcmp g w quiet p s1 s2 f) := by
  cases i with
  | fcmpEq | fcmpLt | fcmpLe | fcmpUn => cases h; rfl
  | _ => cases h

/-- SEL runs under the guard p0 and selects by its own guard, which it tests before it reads (R61). -/
theorem exec_sel (g : Guard) (d s1 s2 : Reg) (s : State) : exec (.sel g d s1 s2) s =
    .next (s.alu (Instr.sel g d s1 s2).half Guard.always d s1 s2 fun y z => if s.me.ctx.pred g.p != g.neg then y else z) := rfl

/-- BINS is the one integer operation whose frame reads the old destination (R59). -/
theorem exec_bins (g : Guard) (d s1 s2 : Reg) (s : State) : exec (.bins g d s1 s2) s =
    .next (s.attempt (s.me.ctx.frame (Instr.bins g d s1 s2).half g s1 s2 true d fun a b c => (binsW a b c, {}))) := rfl

theorem exec_plog (g : Guard) (op : BitVec 3) (pd pa pb : BitVec 4) (s : State) (hg : s.me.ctx.holds g = true) :
    exec (.plog g op pd pa pb) s =
      .next (s.done (s.me.ctx.write (.p pd (plogOp op (s.me.ctx.pred pa) (s.me.ctx.pred pb))))) := by
  show Host.Outcome.next (s.done (if s.me.ctx.holds g then _ else _)) = _
  rw [if_pos hg]

theorem exec_pget (g : Guard) (d : Reg) (s : State) : exec (.pget g d) s =
    .next (s.alu (Instr.pget g d).half g d .zero .zero fun _ _ => predWord (Instr.pget g d).half s.me.ctx) := rfl

theorem exec_pput {g : Guard} {s1 s2 : Reg} {s : State} {x y : Word} {c1 c2 : Context}
    (h1 : s.me.ctx.read (Instr.pput g s1 s2).half s1 = .ok (x, c1)) (h2 : c1.read (Instr.pput g s1 s2).half s2 = .ok (y, c2))
    (hg : c2.holds g = true) :
    exec (.pput g s1 s2) s = .next (s.done (putPreds (Instr.pput g s1 s2).half x y c2)) := by
  change s.me.ctx.read (halfOf [s1, s2] [g.p]) s1 = _ at h1
  change c1.read (halfOf [s1, s2] [g.p]) s2 = _ at h2
  change execPput g s1 s2 s = .next (s.done (putPreds (halfOf [s1, s2] [g.p]) x y c2))
  simp only [execPput, h1, h2, hg, if_true, State.attempt]

end Sys2Proof.Proofs.Scalar

/-! ## The statements of the scalar instructions -/

namespace Sys2Proof.Proofs.Scalar
open Sys2Proof Sys2Proof.Machine Sys2Proof.Claims Sys2Proof.Laws

/-! ## Integer operations, immediates, SEL and BINS (R59 to R66, R70 to R73) -/

/-- Settles O2: every integer operation is the frame of R59 around the result of its table. -/
theorem integerResults : Obligations.IntegerResults := by
  intro i g d s1 s2 f s x y c1 c2 hop h1 h2 hg hroom
  exact alu_ok h1 h2 hg hroom (exec_intOp s hop) rfl

/-- Settles O3: an immediate operation is the frame of R59 whose guard is p0 and whose second source is code 12. -/
theorem immediateResults : Obligations.ImmediateResults := by
  intro i d s1 f s x c1 hop h1 hroom
  exact alu_ok (f' := fun a _ => f a) h1 rfl (holds_always c1) hroom (exec_immOp s hop) rfl

/-- Settles O4: SEL by the frame of an integer operation, BINS by the frame that reads its destination. -/
theorem selectAndInsert : Obligations.SelectAndInsert := by
  refine ⟨fun g d s1 s2 s x y c1 c2 h1 h2 hroom => ?_, fun g d s1 s2 s x y z c1 c2 c3 h1 h2 h3 hg hroom => ?_⟩
  · exact alu_ok (f' := fun x y => if s.me.ctx.pred g.p != g.neg then x else y) h1 h2 (holds_always c2) hroom
      (exec_sel g d s1 s2 s) rfl
  · rw [exec_bins]
    refine attempt_wrote hroom ?_
    rw [frame_ok (rd := true) h1 h2 h3 hg, raise_none]

/-! ## Predicates (R65, R67 to R69, R72) -/

/-- What PPUT sets (R69): each predicate of its half but p0, where the mask has a one. -/
theorem pred_putPreds (h : Side) (x y : Word) (c : Context) (q : BitVec 4) : (putPreds h x y c).pred q =
    if q ≠ 0#4 ∧ (q.toNat < 8 ↔ h = .access) ∧ y.getLsbD q.toNat = true then x.getLsbD q.toNat else c.pred q := by
  rw [putPreds, (putPreds_fold x y (ownPreds h) c).1]
  by_cases hq : q = 0#4
  · simp [hq]
  · simp only [ownPreds_mem h q hq]

/-- Settles O5: a comparison by the frame with a predicate destination, PGET by the frame of an integer operation, PLOG and
PPUT by the rules for writing one predicate and several. -/
theorem comparisonsAndPredicates : Obligations.ComparisonsAndPredicates := by
  refine ⟨fun i g p s1 s2 f s x y c1 c2 hop h1 h2 hg => ?cmp, fun g op pd pa pb s hg => ?plog, fun g d s hg hroom => ?pget,
    predWord_bit, fun g s1 s2 s x y c1 c2 h1 h2 hg => ?pput⟩
  case cmp =>
    have ok := frameP_ok h1 h2 hg (exec_intCmp s hop)
    rwa [raise_none] at ok
  case plog =>
    exact ⟨_, exec_plog g op pd pa pb s hg, rfl, rfl, wrotePred_write s.me.ctx pd _⟩
  case pget =>
    exact alu_ok (f' := fun _ _ => predWord (Instr.pget g d).half s.me.ctx) (x := 0#64) (y := 0#64) rfl rfl hg hroom
      (exec_pget g d s) rfl
  case pput =>
    obtain ⟨-, areg, dreg, rest⟩ := putPreds_fold x y (ownPreds (Instr.pput g s1 s2).half) c2
    exact ⟨_, exec_pput h1 h2 hg, rfl, rfl, pred_putPreds _ x y c2, areg, dreg, rest⟩

/-! ## Scalar floating point (R74 to R82) -/

/-- Settles O6: operations by the frame of the float operations, conversions by the same frame under their own rounding mode,
comparisons by the frame with a predicate destination. -/
theorem floatResults : Obligations.FloatResults := by
  refine ⟨fun i g w old d s1 s2 f s x y z c1 c2 c3 hop h1 h2 h3 hg hroom => ?op, fun g w rm kind d s1 s x c1 h1 hg hroom => ?cvt,
    fun i g w p s1 s2 quiet f s x y c1 c2 hop h1 h2 hg => ?cmp⟩
  case op => exact falu_ok h1 h2 h3 hg hroom (exec_fltOp hop) fun _ _ _ _ => rfl
  case cvt =>
    refine attempt_wrote (c := flagged (convert w (Rounding.of rm) kind x).2 c1) hroom ?_
    exact frame_ok h1 (y := 0#64) (z := 0#64) rfl rfl hg
  case cmp => exact fcmp_ok h1 h2 hg (exec_fltCmp s hop)

/-! ## Bit operations (R65, R66) -/

/-- Settles O7: the counts by what `falses` counts, the moves bit by bit. -/
theorem bitOperations : Obligations.BitOperations :=
  ⟨fun a => ⟨clz_spec a, ctz_spec a, toNat_popc a⟩, fun a b c _ hi =>
    ⟨getLsbD_brev a hi, getLsbD_bswap a hi, getLsbD_zextN_extWidth a b hi, getLsbD_sextN_extWidth a b hi,
      getLsbD_bextW a b _, getLsbD_binsW a b c hi⟩⟩

/-! ## Division (R63) -/

theorem read_status {h : Side} {r : Reg} {c e : Context} {v : Word} (hr : c.read h r = .ok (v, e)) :
    e.sys.status = c.sys.status := by
  cases r with
  | queue =>
    cases h <;> simp only [Context.read, Context.pop] at hr <;> split at hr <;> cases hr <;> rfl
  | _ => cases hr; rfl

theorem wrote_status {h : Side} {d : Reg} {v : Word} {c e : Context} (hw : Wrote h d v c e) :
    e.sys.status = c.sys.status := by
  cases d with
  | a | d =>
    obtain ⟨-, -, -, -, ⟨-, sys, -⟩, -⟩ := hw
    rw [sys]
  | queue => subst hw; cases h <;> rfl
  | zero | lit => rw [show e = c from hw]

/-- An integer operation raises no flag: the status half-word is as before the reads. -/
theorem intOp_wrote_status {i : Instr} {g : Guard} {d s1 s2 : Reg} {f : Word → Word → Word} {s : State} {x y : Word}
    {c1 c2 : Context} (hop : intOp i = some (g, d, s1, s2, f)) (h1 : s.me.ctx.read i.half s1 = .ok (x, c1))
    (h2 : c1.read i.half s2 = .ok (y, c2)) (hg : c2.holds g = true) (hroom : hasRoom i.half d c2) :
    ∃ t, exec i s = .next t ∧ Wrote i.half d (f x y) c2 t.me.ctx ∧ t.me.ctx.sys.status = s.me.ctx.sys.status := by
  obtain ⟨t, ht, -, -, hw⟩ := integerResults i g d s1 s2 f s x y c1 c2 hop h1 h2 hg hroom
  exact ⟨t, ht, hw, ((wrote_status hw).trans (read_status h2)).trans (read_status h1)⟩

/-- Settles O9: the results by the arithmetic of words, the flags because an integer operation raises none. -/
theorem divisionCoversEveryPair : Obligations.DivisionCoversEveryPair := by
  refine ⟨fun a b => ⟨rfl, ?remU⟩, fun a b => ⟨rfl, ?remS⟩, fun g d s1 s2 s x y c1 c2 h1 h2 hg hroom => ?run⟩
  case remU =>
    split
    next hb => rw [remU, if_pos hb]
    next hb => exact remU_eq_sub_mul a b hb
  case remS =>
    split
    next hb => rw [remS, if_pos hb]
    next hb =>
      split
      next overflow => rw [remS, if_neg hb, if_pos overflow]
      next => exact remS_eq_sub_mul a b hb
  case run =>
    obtain ⟨t1, e1, w1, st1⟩ := intOp_wrote_status (i := .div g d s1 s2) rfl h1 h2 hg hroom
    obtain ⟨t2, e2, w2, st2⟩ := intOp_wrote_status (i := .divu g d s1 s2) rfl h1 h2 hg hroom
    obtain ⟨t3, e3, w3, st3⟩ := intOp_wrote_status (i := .rem g d s1 s2) rfl h1 h2 hg hroom
    obtain ⟨t4, e4, w4, st4⟩ := intOp_wrote_status (i := .remu g d s1 s2) rfl h1 h2 hg hroom
    rw [← divS_eq_ofInt] at w1
    rw [← divU_eq_ofNat] at w2
    rw [← remS_eq_ofInt] at w3
    exact ⟨t1, t2, t3, t4, e1, e2, e3, e4, w1, w2, w3, w4, st1, st2, st3, st4⟩

end Sys2Proof.Proofs.Scalar

/-! ## The iteration fetcher (R176 to R179) -/

namespace Sys2Proof.Proofs.Iteration
open Sys2Proof Sys2Proof.Machine Sys2Proof.Claims Sys2Proof.Laws

/-! ## The index registers (R177) -/

theorem wrote_write_a (c : Context) (n : Fin 12) (v : Word) : Wrote .access (.a n) v c (c.write (.a n v)) := by
  obtain ⟨e, he, hw⟩ := wrote_writeReg (h := .access) (d := .a n) (v := v) (c := c) nofun
  cases he
  exact hw

theorem sameRest_trans {c d e : Context} (h : SameRest c d) (k : SameRest d e) : SameRest c e := by
  simp only [SameRest] at h k ⊢
  simp_all

/-- A run of values reaches only access registers: what else Wrote names stays. -/
theorem writeRunA_frame (x : Reg) (vs : List Word) (c : Context) :
    (c.writeRunA x vs).exe.d = c.exe.d ∧ (c.writeRunA x vs).preds = c.preds ∧ SameRest c (c.writeRunA x vs) := by
  induction vs generalizing x c with
  | nil => simp [Context.writeRunA, SameRest]
  | cons v vs ih =>
    cases x with
    | a n =>
      obtain ⟨-, -, hd, hp, hs, -⟩ := wrote_write_a c n v
      obtain ⟨hd', hp', hs'⟩ := ih (.a (n + 1)) (c.write (.a n v))
      exact ⟨hd'.trans hd, hp'.trans hp, sameRest_trans hs hs'⟩
    | _ => simp [Context.writeRunA, SameRest]

/-- Code 12 discards a run. -/
theorem writeRunA_zero (vs : List Word) (c : Context) : c.writeRunA .zero vs = c := by cases vs <;> rfl

/-- A run that does not pass a11 puts its values into successive registers and leaves the others alone. -/
theorem writeRunA_a (vs : List Word) (k : Fin 12) (c : Context) (fit : k.val + vs.length ≤ 12) (r : Fin 12) :
    (c.writeRunA (.a k) vs).acc.a[r] =
      if k.val ≤ r.val ∧ r.val < k.val + vs.length then vs.getD (r.val - k.val) 0#64 else c.acc.a[r] := by
  induction vs generalizing k c with
  | nil => rw [List.length_nil, if_neg (by omega)]; rfl
  | cons v vs ih =>
    obtain ⟨here, other, -⟩ := wrote_write_a c k v
    have first : k.val ≤ k.val ∧ k.val < k.val + (v :: vs).length := by rw [List.length_cons]; omega
    rw [List.length_cons] at fit
    cases vs with
    | nil =>
      show (c.write (.a k v)).acc.a[r] = _
      by_cases hr : r = k
      · subst hr
        rw [here, if_pos first, Nat.sub_self, List.getD_cons_zero]
      · rw [other r hr, List.length_cons, List.length_nil, if_neg (by omega)]
    | cons w ws =>
      have next : (k + 1).val = k.val + 1 := by rw [List.length_cons] at fit; omega
      rw [Context.writeRunA, ih (k + 1) (c.write (.a k v)) (by omega), next]
      by_cases hr : r = k
      · subst hr
        rw [if_neg (by omega), here, if_pos first, Nat.sub_self, List.getD_cons_zero]
      · have shift : k.val ≤ r.val → r.val - k.val = r.val - (k.val + 1) + 1 := by omega
        rw [other r hr]
        simp only [List.length_cons]
        by_cases inside : k.val + 1 ≤ r.val ∧ r.val < k.val + 1 + (ws.length + 1)
        · rw [if_pos inside, if_pos (by omega), shift (by omega), List.getD_cons_succ]
        · rw [if_neg inside, if_neg (by omega)]

theorem length_indices (n : Nest) (idx : Nat) (h : n.ndim ≤ 3) : (n.indices idx).length = n.ndim := by
  simp [Nest.indices, h]

theorem getD_indices (n : Nest) (idx j : Nat) (hj : j < n.ndim) (h : n.ndim ≤ 3) :
    (n.indices idx).getD j 0#64 = BitVec.ofNat 64 (Claims.indexAt n idx j) := by
  obtain rfl | rfl | rfl : j = 0 ∨ j = 1 ∨ j = 2 := by omega
  all_goals simp [Nest.indices, Claims.indexAt, List.getD, hj]

/-! ## One iteration entered (R177) -/

/-- The context with the fields of the fetcher that entering an iteration sets. -/
def fetching (c : Context) (idx left last : Nat) : Context :=
  { c with acc := { c.acc with idx := BitVec.ofNat 64 idx, left := BitVec.ofNat 32 left, last := BitVec.ofNat 64 last } }

/-- The context in which the strand has entered an iteration: the fetcher, the index registers and the predicate. -/
def enterContext (c : Context) (n : Nest) (x : Reg) (pd : BitVec 4) (idx left last : Nat) : Context :=
  ((fetching c idx left last).writeRunA x (n.indices idx)).write (.p pd true)

section
variable (c : Context) {n : Nest} (x : Reg) (pd : BitVec 4) (idx left last : Nat)

/-- Beyond the fetcher, the index registers and the predicate nothing of the context changes. -/
theorem enterContext_frame : (enterContext c n x pd idx left last).exe.d = c.exe.d ∧
    SameRest (fetching c idx left last) (enterContext c n x pd idx left last) := by
  obtain ⟨hd, -, hs⟩ := writeRunA_frame x (n.indices idx) (fetching c idx left last)
  obtain ⟨-, -, wd, ws⟩ := wrotePred_write ((fetching c idx left last).writeRunA x (n.indices idx)) pd true
  exact ⟨wd.trans hd, sameRest_trans hs ws⟩

theorem enterContext_pred (q : BitVec 4) :
    (enterContext c n x pd idx left last).pred q = if q = 0#4 ∨ q = pd then true else c.pred q := by
  have kept : ((fetching c idx left last).writeRunA x (n.indices idx)).pred q = c.pred q := by
    rw [Context.pred, (writeRunA_frame x _ _).2.1]; rfl
  rw [enterContext, (wrotePred_write _ pd true).1 q, kept]
  by_cases h0 : q = 0#4 <;> simp [h0]

theorem enterContext_regs : (enterContext c n x pd idx left last).acc.a =
    ((fetching c idx left last).writeRunA x (n.indices idx)).acc.a := (wrotePred_write _ pd true).2.1

theorem enterContext_indices (hn : n.ndim ≤ 3) (k : Fin 12) (fit : k.val + n.ndim ≤ 12) (r : Fin 12) :
    (enterContext c n (.a k) pd idx left last).acc.a[r] =
      if k.val ≤ r.val ∧ r.val < k.val + n.ndim then BitVec.ofNat 64 (Claims.indexAt n idx (r.val - k.val)) else c.acc.a[r] := by
  rw [enterContext_regs, writeRunA_a _ k _ (by rwa [length_indices n idx hn]), length_indices n idx hn]
  split
  next inside => exact getD_indices n idx _ (by omega) hn
  next => rfl

theorem enterContext_discards : (enterContext c n .zero pd idx left last).acc.a = c.acc.a := by
  rw [enterContext_regs, writeRunA_zero]; rfl

end

/-- What `Entered` says of a state that is done with that context. -/
theorem entered_done {s u : State} (hu : u.me = s.me) {x : Reg} {n : Nest} (hn : n.ndim ≤ 3)
    (fit : ∀ k, x = .a k → k.val + n.ndim ≤ 12) (hx : (∃ k, x = .a k) ∨ x = .zero) (pd : BitVec 4) (idx left last : Nat) :
    Entered s u (u.done (enterContext s.me.ctx n x pd idx left last)) x pd n idx left last := by
  obtain ⟨regs, queues, sys, regions, hleft, hidx, hlast, -⟩ := enterContext_frame s.me.ctx (n := n) x pd idx left last
  refine ⟨by simp [State.done, hu], hidx, hleft, hlast, fun r => ?_,
    enterContext_pred s.me.ctx x pd idx left last, regs, queues, sys, regions⟩
  obtain ⟨k, rfl⟩ | rfl := hx
  · exact enterContext_indices s.me.ctx pd idx left last hn k (fit k rfl) r
  · exact congrArg (·[r]) (enterContext_discards s.me.ctx pd idx left last)

/-! ## What ITER does, case by case (R177) -/

section
variable {s : State} {x : Reg} {n : Nest} (pd : BitVec 4)

theorem indexOver_eq_false (fit : ∀ k, x = .a k → k.val + n.ndim ≤ 12) : indexOver x n.ndim = false := by
  cases x with
  | a k => have := fit k rfl; simp only [indexOver, decide_eq_false_iff_not]; omega
  | _ => rfl

theorem iterStep_no_nest (h : s.nest? s.me.launch = none) : iterStep x pd s = s.trap (s.wordTrap .illegalCombination) := by
  simp only [iterStep, h]

theorem iterStep_held (h : s.nest? s.me.launch = some n) (hx : indexOver x n.ndim = false) (left : s.me.ctx.acc.left ≠ 0#32)
    (known : n.known.contains s.me.core = false) :
    iterStep x pd s = s.done (enterContext s.me.ctx n x pd (s.me.ctx.acc.idx.toNat + 1) (s.me.ctx.acc.left.toNat - 1)
      s.me.ctx.acc.last.toNat) := by
  simp only [iterStep, h, hx, left, known, Bool.false_eq_true, or_self, if_false]
  rfl

/-- With no iteration left, or a cancellation known, the strand claims a chunk and enters its first iteration. -/
theorem iterStep_claimed (h : s.nest? s.me.launch = some n) (hx : indexOver x n.ndim = false)
    (out : s.me.ctx.acc.left = 0#32 ∨ n.known.contains s.me.core = true) {k : Nat}
    (hk : chunk n.rem (s.clockMHz s.me.core) (s.weightSum s.me.launch) n.minchunk = k) (pos : 0 < k) :
    iterStep x pd s = (s.setNest s.me.launch { n with next := n.next + k, rem := n.rem - k }).done
      (enterContext s.me.ctx n x pd n.next (k - 1) (n.next + k)) := by
  simp only [iterStep, h, hx, out, Bool.false_eq_true, if_false, if_true, State.claim, hk, Nat.ne_of_gt pos]
  rfl

/-- Where the chunk is empty the loop ends. -/
theorem iterStep_ended (h : s.nest? s.me.launch = some n) (hx : indexOver x n.ndim = false)
    (out : s.me.ctx.acc.left = 0#32 ∨ n.known.contains s.me.core = true)
    (hk : chunk n.rem (s.clockMHz s.me.core) (s.weightSum s.me.launch) n.minchunk = 0) :
    iterStep x pd s = (s.setNest s.me.launch n).done
      ({ s.me.ctx with acc := { s.me.ctx.acc with left := 0#32 } }.write (.p pd false)) := by
  simp only [iterStep, h, hx, out, Bool.false_eq_true, if_false, if_true, State.claim, hk]
  rfl

end

theorem exec_iter {s : State} {g : Guard} (hg : s.me.ctx.holds g = true) (x : Reg) (pd : BitVec 4) :
    exec (.iter g x pd) s = .next (iterStep x pd s) := by
  show Host.Outcome.next (if s.me.ctx.holds g then _ else _) = _
  rw [if_pos hg]

theorem exec_iterS {s : State} {g : Guard} (hg : s.me.ctx.holds g = true) (x : Reg) (pd : BitVec 4) :
    exec (.iterS g x pd) s =
      .next (if (iterStep x pd s).me.note = .done then (iterStep x pd s).renegotiate else iterStep x pd s) := by
  show Host.Outcome.next (if s.me.ctx.holds g then _ else _) = _
  rw [if_pos hg]

/-! ## ITERQ and ITERX (R178, R179) -/

theorem exec_iterq {s : State} {g : Guard} (hg : s.me.ctx.holds g = true) {n : Nest} (hn : s.nest? s.me.launch = some n)
    (x : Reg) (sel : BitVec 5) :
    exec (.iterq g x sel) s = .next (s.done (s.me.ctx.writeRunA x [fetcherValue sel.toNat s.me.ctx n])) := by
  show execIterq g x sel s = _
  simp only [execIterq, hg, hn, if_true]

theorem exec_iterx {s : State} {g : Guard} (hg : s.me.ctx.holds g = true) {n : Nest} (hn : s.nest? s.me.launch = some n) (x : Reg) :
    exec (.iterx g x) s = .next ((s.setNest s.me.launch { n with rem := 0, cancelled := true }).done
      ({ s.me.ctx with acc := { s.me.ctx.acc with left := 0#32 } }.writeRunA x [BitVec.ofNat 64 n.rem])) := by
  show execIterx g x s = _
  simp only [execIterx, hg, hn, if_true]

/-- A run of one value is the write of a register. -/
theorem wrote_writeRunA {x : Reg} (hx : (∃ k, x = .a k) ∨ x = .zero) (v : Word) (c : Context) :
    Wrote .access x v c (c.writeRunA x [v]) := by
  obtain ⟨k, rfl⟩ | rfl := hx
  · exact wrote_write_a c k v
  · rfl

theorem fetcherValue_of_lt (sel : BitVec 5) (h : sel.toNat < 4) (c : Context) (n : Nest) :
    fetcherValue sel.toNat c n = if sel = 0#5 then c.acc.left.setWidth 64
      else if sel = 1#5 then (if c.acc.last = 0#64 then 0xFFFFFFFFFFFFFFFF#64 else c.acc.idx)
      else if sel = 2#5 then BitVec.ofNat 64 n.rem else BitVec.ofNat 64 (n.bound 0 * n.bound 1 * n.bound 2) := by
  have four : ∀ b : BitVec 5, b.toNat < 4 → b = 0#5 ∨ b = 1#5 ∨ b = 2#5 ∨ b = 3#5 := by decide
  obtain rfl | rfl | rfl | rfl := four sel h <;> rfl

/-! ## The statement -/

/-- Settles O14: a claim or a held iteration by `iterStep`'s cases, each with what its context holds. -/
theorem iterationSteps : Obligations.IterationSteps := by
  refine ⟨fun s g x pd n hg hn dims fit hx => ⟨?held, ?claimed, ?ended⟩, fun s g x pd hg => ?iterS,
    fun s g x pd hg hn user => ?noNest, fun s g x n hg hn hx => ⟨fun sel hsel => ?query, ?cancel⟩⟩
  case held =>
    intro left known
    exact ⟨_, (exec_iter hg x pd).trans (congrArg Host.Outcome.next (iterStep_held pd hn (indexOver_eq_false fit) left known)),
      entered_done rfl dims fit hx pd _ _ _⟩
  case claimed =>
    intro out pos
    exact ⟨_, (exec_iter hg x pd).trans (congrArg Host.Outcome.next (iterStep_claimed pd hn (indexOver_eq_false fit) out rfl pos)),
      entered_done rfl dims fit hx pd _ _ _⟩
  case ended =>
    intro out empty
    obtain ⟨wp, wa, wd, -, -, -, left, -⟩ :=
      wrotePred_write { s.me.ctx with acc := { s.me.ctx.acc with left := 0#32 } } pd false
    exact ⟨_, (exec_iter hg x pd).trans (congrArg Host.Outcome.next (iterStep_ended pd hn (indexOver_eq_false fit) out empty)),
      wa, left, wd, rfl, rfl, rfl, wp⟩
  case iterS => exact ⟨_, exec_iter hg x pd, exec_iterS hg x pd⟩
  case noNest =>
    exact ⟨_, (exec_iter hg x pd).trans (congrArg Host.Outcome.next (iterStep_no_nest pd hn)), trapAt_taken user nofun⟩
  case query =>
    refine ⟨_, exec_iterq hg hn x sel, rfl, rfl, ?_⟩
    rw [← fetcherValue_of_lt sel hsel]
    exact wrote_writeRunA hx _ _
  case cancel => exact ⟨_, exec_iterx hg hn x, rfl, wrote_writeRunA hx _ _⟩

end Sys2Proof.Proofs.Iteration

/-! ## Migration at its destination (R22, R25, R174, R175) -/

namespace Sys2Proof.Proofs.Migration
open Sys2Proof Sys2Proof.Machine Sys2Proof.Claims Sys2Proof.Laws

/-! ## Finding a strand after a change to one -/

theorem strand?_eq_find? (s : State) (i : StrandId) :
    s.strand? i = if i = Strand.absent.sid then none else (s.me :: s.others).find? (·.sid == i) := by
  rw [State.strand?, State.strands, List.find?_filter]
  split
  next absent => exact List.find?_eq_none.2 fun m _ => by simp_all
  next present =>
    congr 1
    funext m
    by_cases h : m.sid = i <;> simp_all

theorem strand?_sid {s : State} {i : StrandId} {m : Strand} (h : s.strand? i = some m) : m.sid = i := by
  simpa using List.find?_some h

/-- A change that keeps the id is found where the strand was found; every other strand is found as before. -/
theorem strand?_modify (s : State) (sid i : StrandId) (f : Strand → Strand) (hf : ∀ m, m.sid = sid → (f m).sid = sid) :
    (s.modify sid f).strand? i = (s.strand? i).map fun m => if m.sid = sid then f m else m := by
  have keeps : ∀ m : Strand, (if m.sid = sid then f m else m).sid = m.sid := fun m => by
    by_cases h : m.sid = sid <;> simp [h, hf]
  simp only [strand?_eq_find?, State.modify]
  by_cases absent : i = Strand.absent.sid
  · simp [absent]
  simp only [absent, if_false]
  by_cases me : s.me.sid = sid
  · simp only [me, if_true, List.find?_cons, hf s.me me]
    by_cases hi : sid = i
    · subst hi; simp [me]
    · simp only [beq_eq_false_iff_ne.2 hi]
      cases found : s.others.find? (·.sid == i) with
      | none => rfl
      | some m =>
        have : m.sid = i := by simpa using List.find?_some found
        simp [this, Ne.symm hi]
  · have both : s.me :: s.others.map (fun m => if m.sid = sid then f m else m) =
        (s.me :: s.others).map fun m => if m.sid = sid then f m else m := by simp [me]
    simp only [me, if_false, both, List.find?_map, Function.comp_def, keeps]

/-! ## What leaves every strand as it was -/

/-- The strand in turn and the others are as before. -/
structure SameStrands (s t : State) : Prop where
  me : t.me = s.me
  others : t.others = s.others

theorem SameStrands.refl (s : State) : SameStrands s s := ⟨rfl, rfl⟩

theorem SameStrands.trans {s t u : State} (h : SameStrands s t) (k : SameStrands t u) : SameStrands s u :=
  ⟨k.me.trans h.me, k.others.trans h.others⟩

theorem strand?_of_sameStrands {s t : State} (h : SameStrands s t) (i : StrandId) : t.strand? i = s.strand? i := by
  simp only [State.strand?, State.strands, h.me, h.others]

/-- Strands and memory after a list of updates that leave both alone. -/
theorem sameStrands_foldl {α : Type} {f : State → α → State} (hf : ∀ s a, SameStrands s (f s a) ∧ (f s a).mem = s.mem) :
    ∀ (l : List α) (s : State), SameStrands s (l.foldl f s) ∧ (l.foldl f s).mem = s.mem
  | [], _ => ⟨⟨rfl, rfl⟩, rfl⟩
  | a :: l, s => ⟨(hf s a).1.trans (sameStrands_foldl hf l (f s a)).1, (sameStrands_foldl hf l (f s a)).2.trans (hf s a).2⟩

theorem sameStrands_clearLatch (s : State) (sid : StrandId) : SameStrands s (s.clearLatch sid) ∧ (s.clearLatch sid).mem = s.mem := by
  refine sameStrands_foldl (fun s core => ?_) _ s
  dsimp only
  split <;> exact ⟨⟨rfl, rfl⟩, rfl⟩

theorem sameStrands_placeOn (s : State) (r : LaunchRef) (core : Nat) :
    SameStrands s (s.placeOn r core) ∧ (s.placeOn r core).mem = s.mem := by
  unfold State.placeOn
  split
  · exact ⟨⟨rfl, rfl⟩, rfl⟩
  · split <;> exact ⟨⟨rfl, rfl⟩, rfl⟩

theorem quiet_hardwareStamp (s : State) (k n : Nat) : Quiet s (s.hardwareStamp k n) :=
  quiet_foldl (fun s k => (quiet_touchUnder s _ k).trans (quiet_setStamp ..)) _ s

/-- A write of the hardware changes memory, and no strand. -/
theorem sameStrands_hardwareWrite (s : State) (key : Nat) (bs : List Byte) : SameStrands s (s.hardwareWrite key bs) := by
  unfold State.hardwareWrite
  exact ⟨hardwareStamp_me .., (quiet_hardwareStamp ..).others⟩

/-- A count in a fault record changes that counter, and no strand (R196). -/
theorem sameStrands_count (s : State) (core off : Nat) :
    SameStrands s (s.count core off) ∧ (s.count core off).mem = countedAt s s.mem core off := by
  cases found : s.faultRecord core with
  | none =>
    rw [State.count, countedAt, found]
    exact ⟨.refl s, rfl⟩
  | some a =>
    rw [State.count, countedAt, found]
    exact ⟨⟨bump32_me .., (quiet_hardwareStamp ..).others⟩, (quiet_hardwareStamp ..).mem⟩

theorem sameStrands_storePlace {s u : State} {part : Fin 16} {die n : Nat} {o : Option Nat} (h : s.storePlace part die n = (o, u)) :
    SameStrands s u := by
  have drawn : (s.storePlace part die n).2 = u := by rw [h]
  rw [← drawn]
  exact ⟨rfl, rfl⟩

/-! ## One strand becomes another -/

section
variable {s u : State} {sid : StrandId} {m : Strand}

/-- After updates that leave the strands alone, a change to the strand with an id is what that strand becomes. -/
theorem strand?_modify_after (h : s.strand? sid = some m) (hu : SameStrands s u) (f : Strand → Strand)
    (hf : ∀ x, x.sid = sid → (f x).sid = sid) :
    (u.modify sid f).strand? sid = some (f m) ∧ ∀ i, i ≠ sid → (u.modify sid f).strand? i = s.strand? i := by
  refine ⟨?_, fun i hi => ?_⟩
  · rw [strand?_modify u sid sid f hf, strand?_of_sameStrands hu, h]
    simp [strand?_sid h]
  · rw [strand?_modify u sid i f hf, strand?_of_sameStrands hu]
    cases found : s.strand? i with
    | none => rfl
    | some x => simp [strand?_sid found, hi]

@[simp] theorem modify_mem (u : State) (sid : StrandId) (f : Strand → Strand) : (u.modify sid f).mem = u.mem := by
  unfold State.modify; split <;> rfl

theorem strandBecomes_modify (h : s.strand? sid = some m) (hu : SameStrands s u ∧ u.mem = s.mem) (f : Strand → Strand)
    (hf : ∀ x, x.sid = sid → (f x).sid = sid) : strandBecomes s (u.modify sid f) sid (f m) := by
  obtain ⟨there, rest⟩ := strand?_modify_after h hu.1 f hf
  exact ⟨there, rest, (modify_mem ..).trans hu.2⟩

theorem strandBecomes_then {t : State} (h : strandBecomes s u sid m) (ht : SameStrands u t ∧ t.mem = u.mem) :
    strandBecomes s t sid m := by
  obtain ⟨there, rest, mem⟩ := h
  exact ⟨(strand?_of_sameStrands ht.1 sid).trans there, fun i hi => (strand?_of_sameStrands ht.1 i).trans (rest i hi), ht.2.trans mem⟩

/-! ## The events, case by case -/

theorem inboxArrival_full (h : s.strand? sid = some m) (hf : m.frame = .flight) (hr : m.refusal = none)
    (full : 2 ≤ s.inboxLoad m.target) (ok : Bool) :
    inboxArrival sid ok s = s.modify sid fun m => { m with refusal := some true } := by
  simp [inboxArrival, h, hf, hr, full]

theorem inboxArrival_bad (h : s.strand? sid = some m) (hf : m.frame = .flight) (hr : m.refusal = none)
    (room : s.inboxLoad m.target < 2) :
    inboxArrival sid false s = s.modify sid fun m => { m with refusal := some false } := by
  simp [inboxArrival, h, hf, hr, Nat.not_le.2 room]

theorem inboxArrival_accepted (h : s.strand? sid = some m) (hf : m.frame = .flight) (hr : m.refusal = none)
    (room : s.inboxLoad m.target < 2) :
    inboxArrival sid true s = (s.clearLatch sid).modify sid fun m => { m with frame := .inbox, leaving := some (m.core, m.slot) } := by
  simp [inboxArrival, h, hf, hr, Nat.not_le.2 room]

/-- The strand that a refusal returns to its source (R25, R175). -/
def returned (full : Bool) (m : Strand) : Strand :=
  { m with
    ctx := if full then { m.ctx with acc := { m.ctx.acc with refused := sat16Succ m.ctx.acc.refused } } else m.ctx
    frame := .running, refusal := none, stay := true, note := .done }

theorem migrationRefusal_full (h : s.strand? sid = some m) (hf : m.frame = .flight) (hr : m.refusal = some true) :
    migrationRefusal sid s = s.modify sid (returned true) := by
  simp only [migrationRefusal, h, hf, hr]
  rfl

theorem migrationRefusal_crc (h : s.strand? sid = some m) (hf : m.frame = .flight) (hr : m.refusal = some false) :
    migrationRefusal sid s = (s.count m.core migCrc).modify sid (returned false) := by
  simp only [migrationRefusal, h, hf, hr]
  rfl

/-- The strand that an installation puts into a frame of its destination (R174). -/
def installed (s : State) (slot : Nat) (m : Strand) : Strand :=
  { (m.fromAnchor (s.anchorOf m)).migrated with
    frame := .running, core := m.target, slot := slot, unreported := true, since := s.tick, note := .done }

theorem migrationInstall_eq (h : s.strand? sid = some m) (hf : m.frame = .inbox) {slot : Nat} {rest : List Nat}
    (hr : s.freeFrames m.target = slot :: rest) :
    migrationInstall sid s = (s.modify sid (installed s slot)).placeOn m.launch m.target := by
  simp only [migrationInstall, h, hf, hr]
  rfl

/-- The strand that a timeout sends to the store (R175). -/
def shelved (s : State) (m : Strand) : Strand :=
  { m.fromAnchor (s.anchorOf m) with
    core := m.target, frame := .spilled, leaving := none, unreported := true, note := .done, since := s.tick, queued := s.clock
    prio := s.levelOf m.launch }

theorem inboxTimeout_eq (h : s.strand? sid = some m) (hf : m.frame = .inbox) (hr : s.freeFrames m.target = []) {k : Nat}
    (hp : ({ s with clock := s.clock + 1 } : State).storePlace m.launch.part (dieOfCore m.target)
      (fullImage (shelved s m) []).length = (some k, u)) :
    inboxTimeout sid s = (u.hardwareWrite k (fullImage (shelved s m) [])).modify sid fun _ =>
      { shelved s m with image := some k, imageOldest := (shelved s m).batchOldest } := by
  simp only [inboxTimeout, h, hf, hr, ne_eq, not_true_eq_false, or_self, if_false]
  split
  next place => cases place.symm.trans hp
  next place => cases place.symm.trans hp; rfl

end

theorem putBit_mig (a : BitVec 16) : putBit a migBit true = a ||| 2#16 := rfl

/-! ## The statement -/

/-- Settles O42: each event is one change to the strand with the id, among updates that leave every strand alone. -/
theorem migrationEvents : Obligations.MigrationEvents := by
  intro s sid m h _
  have here := strand?_sid h
  have same : SameStrands s s ∧ s.mem = s.mem := ⟨.refl s, rfl⟩
  refine ⟨fun hf hr => ⟨fun full ok => ?full, fun room => ?bad, fun room => ?accepted⟩, fun hf hr => ?refused,
    fun hf hr => ?returned, fun slot rest hf hr => ?install, fun hf hr k u hp => ?timeout, ?ack, ?report⟩
  case full =>
    exact ⟨_, congrArg Host.Outcome.next (inboxArrival_full h hf hr full ok), strandBecomes_modify h same _ fun _ hx => hx⟩
  case bad =>
    exact ⟨_, congrArg Host.Outcome.next (inboxArrival_bad h hf hr room), strandBecomes_modify h same _ fun _ hx => hx⟩
  case accepted =>
    exact ⟨_, congrArg Host.Outcome.next (inboxArrival_accepted h hf hr room),
      strandBecomes_modify h (sameStrands_clearLatch s sid) _ fun _ hx => hx⟩
  case refused =>
    exact ⟨_, congrArg Host.Outcome.next (migrationRefusal_full h hf hr), strandBecomes_modify h same (returned true) fun _ hx => hx⟩
  case returned =>
    obtain ⟨strands, mem⟩ := sameStrands_count s m.core migCrc
    exact ⟨_, congrArg Host.Outcome.next (migrationRefusal_crc h hf hr),
      (strand?_modify_after h strands (returned false) fun _ hx => hx).1, (modify_mem ..).trans mem⟩
  case install =>
    refine ⟨_, installed s slot m, congrArg Host.Outcome.next (migrationInstall_eq h hf hr),
      strandBecomes_then (strandBecomes_modify h same (installed s slot) fun _ hx => hx) (sameStrands_placeOn ..),
      rfl, rfl, rfl, rfl, ⟨rfl, rfl, rfl, rfl, rfl, rfl, rfl⟩, putBit_mig _, ?_, ?_, ?_, rfl⟩
    all_goals rw [← here]; rfl
  case timeout =>
    have away := sameStrands_storePlace hp
    have strands : SameStrands s u := ⟨away.me, away.others⟩
    exact ⟨_, congrArg Host.Outcome.next (inboxTimeout_eq h hf hr hp),
      strand?_modify_after h (strands.trans (sameStrands_hardwareWrite ..)) _ fun _ _ => here⟩
  case ack => exact ⟨_, rfl, strandBecomes_modify h same _ fun _ hx => hx⟩
  case report => exact ⟨_, rfl, strandBecomes_modify h same _ fun _ hx => hx⟩

end Sys2Proof.Proofs.Migration
